-- ==== Sys2Proof/Word.lean ====
section
/-! DEFINITION. The word types of the Skotur Z9 and their plainest arithmetic (00 R5, 02 R33). -/

namespace Sys2Proof

/-- One byte of memory. -/
abbrev Byte := BitVec 8

/-- One instruction word, and one lane's value of a vector register (02 R33, 04 R77). -/
abbrev W32 := BitVec 32

/-- One scalar register, address or counter (04 R77). -/
abbrev W64 := BitVec 64

/-- A lane mask of a team: bit l is team-global lane l (01 R9, R11). -/
abbrev Mask := BitVec 1024

end Sys2Proof
end

