-- ==== Sys2Proof/Machine/Names.lean ====
section
/-! DEFINITION. The names that events and state use: strands, requesters, and the choices that Farder,
the ports and other packages make (their operands stand in the events of the opcode table). -/

namespace Sys2Proof

/-- A sparse table of plain data: pairs (key, value) with keys rising, entries equal to the table's
default left out (so that equal tables are equal data). -/
abbrev SMap (α : Type) := List (Nat × α)

/-- The two instruction streams of a team (01 R12). -/
inductive StreamId where
  | c
  | a
deriving DecidableEq, Repr

/-- A strand: the team (by the model's name for it), its stream, and its identity, `none` for the
root strand and `some i` for record i of the bank's split table (01 R19). -/
structure StrandRef where
  team : Nat
  strm : StreamId
  sid  : Option Nat
deriving DecidableEq, Repr

/-- The requesters that SEMA arbitrates among (23 R396). -/
inductive Requester where
  | port0
  | port1
  | harts
deriving DecidableEq, Repr

/-- A change that Farder makes to a parked strand before it resumes it (11 R225): a scalar of its stream, a lane of a vector register, or
the lanes of a predicate. -/
inductive RegEdit where
  | scalar (i : BitVec 6) (v : W64)
  | vector (r : BitVec 7) (lane : Nat) (v : W32)
  | predicate (p : BitVec 3) (v : BitVec 1024)
deriving DecidableEq, Repr

/-- Options of a resume action (11 R225, R231), with the changes that Farder makes first. -/
structure ResumeOpts where
  step   : Bool
  freeze : Bool
  edits  : List RegEdit := []
deriving DecidableEq, Repr

/-- One page-table entry that Farder writes: its physical address and its new value (23 R387, R389). -/
structure PteWrite where
  pa  : Nat
  val : W64
deriving DecidableEq, Repr

/-- The values of a kernel's directives, as its kernel record carries them (20 Table 20-2). -/
structure Kernel where
  centry : W64
  aentry : W64
  cb     : W64
  ce     : W64
  spda   : W64
  spdn   : W64
  lanes  : Nat
  level  : Nat
  lw     : Bool
  regs   : Nat
  spad   : Nat
  frame  : Nat
  roles  : List (BitVec 4)
deriving DecidableEq, Repr

/-- A word of an initialiser: a value, or a half of the address of the record of a kernel of the image, by its place (21 R383). -/
inductive InitItem where
  | word (v : W32)
  | krecLo (kernel : Nat)
  | krecHi (kernel : Nat)
deriving DecidableEq, Repr

/-- A kernel image of a bundle as Farder's loader places it: where its record, code and initialisers
go in the context's memory (20 R371, R383, 23 R393, 25 R425). -/
structure KernelImage where
  kernel : Kernel
  krec   : W64
  code   : List W32
  spdata : List InitItem
  daddr  : W64
  data   : List InitItem
deriving DecidableEq, Repr

/-- What Farder decides when it creates a context (23 R387): the satp root of the control program, and
where it placed the pinned and pre-translated areas: the trap queue with its pages, the walk area, the save arena, the frame arena. -/
structure ContextPlan where
  satpRoot   : Nat
  trapqVa    : W64
  trapqPages : List Nat
  trapqN     : Nat
  walkVa     : W64
  saveVa     : W64
  frameVa    : W64
  framePa    : Nat
  frameSize  : Nat
  heapVa     : W64
  heapSize   : Nat
  notifyHart : Nat
deriving DecidableEq, Repr

/-- An operation that arrives over the fabric (24 R409-R411). -/
inductive RemoteKind where
  | put  (data : List Byte)
  | get  (len : Nat)
  | atom (op : Nat) (operand compare : W64)
  | sig  (op : Nat) (value : W64)
deriving DecidableEq, Repr

/-- An incoming fabric operation: the group it names, the address, and, when it was issued on this
very package and looped back (24 R406), the team and operation that issued it. -/
structure RemoteOp where
  group  : W32
  addr   : W64
  kind   : RemoteKind
  origin : Option (Nat × Nat)
deriving DecidableEq, Repr

/-- What the fabric reports of an operation on another package (24 R413, R418): the bytes that came
back, or the DETAIL of the fabric trap with the bytes that had been performed by then. -/
inductive FabricResult where
  | ok  (data : List Byte)
  | err (detail : Nat) (data : List Byte)
deriving DecidableEq, Repr

/-- The severities of a memory or SRAM error (17 R311, 18 R315, 23 R403). -/
inductive ErrorKind where
  | corrected
  | refetch
  | uncorrectable
deriving DecidableEq, Repr

/-- A firmware image as the security controller sees it (23 R397): whether its signature verifies, its
security version number, and its SHA-512 measurement. -/
structure FwImage where
  signed  : Bool
  svn     : Nat
  measure : BitVec 512
deriving DecidableEq, Repr

/-- Where a task or unit is placed: core 24 × die + core, team slot, and the physical base of its
scratchpad window (the distributor's and the dispatcher's free choice, 08 R170, 20 R381). -/
structure Place where
  core : Nat
  slot : Nat
  base : Nat
deriving DecidableEq, Repr

end Sys2Proof
end

