-- ==== Sys2Proof/Machine/Bits.lean ====
section
/-! DEFINITION. Bit fields, sign extension, byte order and sparse tables: the helpers every other file uses. -/

namespace Sys2Proof

/-- Bits [lo + len - 1 : lo] of a word (00 R5). -/
def fld {n : Nat} (w : BitVec n) (lo len : Nat) : BitVec len := w.extractLsb' lo len

/-- Sign extension to 64 bits (02 R43). -/
def sx64 {n : Nat} (b : BitVec n) : W64 := b.signExtend 64

/-- Sign extension to 32 bits. -/
def sx32 {n : Nat} (b : BitVec n) : W32 := b.signExtend 32

/-- Zero extension to 64 bits. -/
def zx64 {n : Nat} (b : BitVec n) : W64 := b.setWidth 64

/-- The low 32 bits. -/
def lo32 (w : W64) : W32 := w.setWidth 32

/-- The high 32 bits of a 64-bit value. -/
def hi32 (w : W64) : W32 := w.extractLsb' 32 32

/-- A 64-bit value from its halves. -/
def pair64 (lo hi : W32) : W64 := hi ++ lo

/-- The low `n` bytes of a number, least significant first (00 R5). -/
def bytesOfNat : Nat → Nat → List Byte
  | 0, _ => []
  | n + 1, v => BitVec.ofNat 8 v :: bytesOfNat n (v / 256)

/-- The number whose bytes, least significant first, are given (00 R5). -/
def natOfBytes : List Byte → Nat
  | [] => 0
  | b :: bs => b.toNat + 256 * natOfBytes bs

/-- One where a condition holds. -/
def bit1 (b : Bool) : Nat := if b then 1 else 0

/-- The numbers 0 to n - 1 at which a predicate holds, ascending. -/
def indicesWhere (n : Nat) (p : Nat → Bool) : List Nat := (List.range n).filter p

/-- Ceiling of a quotient. -/
def ceilDiv (a b : Nat) : Nat := (a + b - 1) / b

/-- `a` rounded up to a multiple of `b`. -/
def roundUp (a b : Nat) : Nat := ceilDiv a b * b

/-- The entry of a sparse table at a key, or the default. -/
def SMap.get {α : Type} (d : α) (m : SMap α) (k : Nat) : α :=
  match m with
  | [] => d
  | (j, v) :: rest => if j = k then v else SMap.get d rest k

/-- Removes the entry of a key. -/
def SMap.erase {α : Type} (m : SMap α) (k : Nat) : SMap α :=
  match m with
  | [] => []
  | (j, v) :: rest => if j = k then SMap.erase rest k else (j, v) :: SMap.erase rest k

/-- Puts an entry at its place in the rising order of keys, in place of the key's old entry. -/
def SMap.put {α : Type} (m : SMap α) (k : Nat) (v : α) : SMap α :=
  match m with
  | [] => [(k, v)]
  | e :: rest => if e.1 < k then e :: SMap.put rest k v else (k, v) :: (if e.1 = k then rest else e :: rest)

/-- Writes an entry; writing the default removes it, so that equal tables are equal data. -/
def SMap.set {α : Type} [DecidableEq α] (d : α) (m : SMap α) (k : Nat) (v : α) : SMap α :=
  if v = d then SMap.erase m k else SMap.put m k v

/-- The canonical form: keys strictly rising from a bound, no entry equal to the default. -/
def SMap.wfFrom {α : Type} [DecidableEq α] (d : α) (lo : Nat) (m : SMap α) : Bool :=
  match m with
  | [] => true
  | (j, v) :: rest => decide (lo ≤ j) && decide (v ≠ d) && SMap.wfFrom d (j + 1) rest

/-- The canonical form of a sparse table. -/
def SMap.wf {α : Type} [DecidableEq α] (d : α) (m : SMap α) : Bool := SMap.wfFrom d 0 m

/-- The entries of the keys lo to hi - 1. -/
def SMap.slice {α : Type} (m : SMap α) (lo hi : Nat) : SMap α := m.filter (fun p => decide (lo ≤ p.1) && decide (p.1 < hi))

/-- Entries for a run of keys from lo; the default leaves none. -/
def SMap.ofRun {α : Type} [DecidableEq α] (d : α) (lo : Nat) (vs : List α) : SMap α :=
  match vs with
  | [] => []
  | v :: rest => if v = d then SMap.ofRun d (lo + 1) rest else (lo, v) :: SMap.ofRun d (lo + 1) rest

/-- Writes a run of keys. -/
def SMap.setRun {α : Type} [DecidableEq α] (d : α) (m : SMap α) (lo : Nat) (vs : List α) : SMap α :=
  m.filter (fun p => decide (p.1 < lo)) ++ SMap.ofRun d lo vs ++ m.filter (fun p => decide (lo + vs.length ≤ p.1))

/-- Membership in a set of numbers held as a table of units. -/
def SMap.has (m : SMap Unit) (k : Nat) : Bool :=
  match m with
  | [] => false
  | (j, _) :: rest => j == k || SMap.has rest k

/-- Adds a number to a set, or takes it out. -/
def SMap.flag (m : SMap Unit) (k : Nat) (on : Bool) : SMap Unit :=
  if on then SMap.put m k () else SMap.erase m k

/-- Replaces element `i` of a list; a list that is too short stays as it is. -/
def listSet {α : Type} (l : List α) (i : Nat) (v : α) : List α := l.set i v

end Sys2Proof
end

