-- ==== Sys2Proof/Machine/Number.lean ====
section
/-! DEFINITION. Number formats, rounding and sums (03 R51 to R76): exact values, RND, DOTSTEP, block quantising. -/

namespace Sys2Proof.Machine

/-- The five flags NV DZ OF UF NX (03 Table 3-8). -/
abbrev Flags := BitVec 5

def fNV : Flags := 16
def fDZ : Flags := 8
def fOF : Flags := 4
def fUF : Flags := 2
def fNX : Flags := 1

/-- A flag where a condition holds. -/
def flagIf (c : Bool) (f : Flags) : Flags := if c then f else 0

/-- An exact value: NaN (signalling or not), an infinity, or (-1)^neg × m × 2^e. -/
inductive Val where
  | nan (sig : Bool)
  | inf (neg : Bool)
  | fin (neg : Bool) (m : Nat) (e : Int)
deriving DecidableEq, Repr

/-- A floating format (03 Table 3-2): exponent bits, fraction bits, bias, whether it has infinities, and its NaN codes:
0 none, 1 those of IEEE 754, 2 the one code of E4M3. -/
structure Fmt where
  E    : Nat
  M    : Nat
  bias : Nat
  inf  : Bool
  nan  : Nat
deriving DecidableEq, Repr

def fp64 : Fmt := { E := 11, M := 52, bias := 1023, inf := true, nan := 1 }
def fp32 : Fmt := { E := 8, M := 23, bias := 127, inf := true, nan := 1 }
def fp16 : Fmt := { E := 5, M := 10, bias := 15, inf := true, nan := 1 }
def bf16 : Fmt := { E := 8, M := 7, bias := 127, inf := true, nan := 1 }
def e5m2 : Fmt := { E := 5, M := 2, bias := 15, inf := true, nan := 1 }
def e4m3 : Fmt := { E := 4, M := 3, bias := 7, inf := false, nan := 2 }
def e3m2 : Fmt := { E := 3, M := 2, bias := 3, inf := false, nan := 0 }
def e2m3 : Fmt := { E := 2, M := 3, bias := 1, inf := false, nan := 0 }
def e2m1 : Fmt := { E := 2, M := 1, bias := 1, inf := false, nan := 0 }

def Fmt.width (F : Fmt) : Nat := 1 + F.E + F.M
def Fmt.signBit (F : Fmt) : Nat := 2 ^ (F.E + F.M)
/-- The exponent of the smallest normal value (R60). -/
def Fmt.emin (F : Fmt) : Int := 1 - (F.bias : Int)
/-- The magnitude code of the largest finite value (Table 3-2). -/
def Fmt.maxCode (F : Fmt) : Nat :=
  if F.inf then (2 ^ F.E - 1) * 2 ^ F.M - 1 else if F.nan = 2 then 2 ^ (F.E + F.M) - 2 else 2 ^ (F.E + F.M) - 1
/-- The canonical NaN (Table 3-3), of a format that has one. -/
def Fmt.canonNaN (F : Fmt) : Nat :=
  if F.nan = 2 then 2 ^ (F.E + F.M) - 1 else (2 ^ F.E - 1) * 2 ^ F.M + 2 ^ (F.M - 1)
/-- The code of an infinity, of a format that has them. -/
def Fmt.infCode (F : Fmt) (neg : Bool) : Nat := (if neg then F.signBit else 0) + (2 ^ F.E - 1) * 2 ^ F.M
/-- A magnitude code with a sign. -/
def Fmt.signed (F : Fmt) (neg : Bool) (c : Nat) : Nat := (if neg then F.signBit else 0) + c

/-- DECODE (R52), with the signalling NaNs of R53. -/
def Fmt.decode (F : Fmt) (code : Nat) : Val :=
  let neg := code / F.signBit % 2 = 1
  let e := code / 2 ^ F.M % 2 ^ F.E
  let f := code % 2 ^ F.M
  if F.nan = 1 ∧ e = 2 ^ F.E - 1 ∧ f ≠ 0 then .nan (decide (f < 2 ^ (F.M - 1)))
  else if F.nan = 2 ∧ e = 2 ^ F.E - 1 ∧ f = 2 ^ F.M - 1 then .nan false
  else if F.inf ∧ e = 2 ^ F.E - 1 then .inf neg
  else if e = 0 then .fin neg f (F.emin - F.M)
  else .fin neg (2 ^ F.M + f) ((e : Int) - F.bias - F.M)

/-- Whether a code is a subnormal value other than zero. -/
def Fmt.subnormal (F : Fmt) (code : Nat) : Bool :=
  decide (code % F.signBit ≠ 0) && decide (code % F.signBit < 2 ^ F.M)

/-- DAZ: a subnormal input reads as zero of its sign (R63). -/
def Fmt.decodeDaz (F : Fmt) (daz : Bool) (code : Nat) : Val :=
  if daz && F.subnormal code then .fin (decide (F.signBit ≤ code)) 0 0 else F.decode code

/-- m ÷ 2^sh rounded to an integer by a mode (R59); `r` are the 16 bits of the generator (R67). -/
def roundShift (mode : Nat) (neg : Bool) (r m sh : Nat) : Nat :=
  let q := m / 2 ^ sh
  let rem := m % 2 ^ sh
  if rem = 0 then q
  else
    let up : Bool := match mode with
      | 0 => decide (2 ^ sh < 2 * rem) || (decide (2 * rem = 2 ^ sh) && decide (q % 2 = 1))
      | 1 => false
      | 2 => neg
      | 3 => !neg
      | 4 => decide (2 ^ sh ≤ 2 * rem)
      | _ => decide (65536 ≤ rem * 65536 / 2 ^ sh + r)
    if up then q + 1 else q

/-- m × 2^e as a multiple of 2^q, rounded by a mode. -/
def roundTo (mode : Nat) (neg : Bool) (r m : Nat) (e q : Int) : Nat :=
  if q ≤ e then m * 2 ^ (e - q).toNat else roundShift mode neg r m (q - e).toNat

/-- TINY (R60). -/
def Fmt.tiny (F : Fmt) (mode : Nat) (neg : Bool) (m : Nat) (e : Int) (code : Nat) : Bool :=
  if mode = 5 then decide (code < 2 ^ F.M)
  else
    let lg : Int := (Nat.log2 m : Int) + e
    if F.emin ≤ lg then false
    else if lg < F.emin - 1 then true
    else decide (roundTo mode neg 0 m e (lg - F.M) < 2 ^ (F.M + 1))

/-- OVERFLOWED and the cases beside its table (R60). -/
def Fmt.overflowed (F : Fmt) (mode : Nat) (sat neg : Bool) : Nat × Flags :=
  if sat then (F.signed neg F.maxCode, 0)
  else if F.inf then
    (if mode = 1 ∨ (mode = 2 ∧ neg = false) ∨ (mode = 3 ∧ neg = true) then F.signed neg F.maxCode else F.infCode neg, 0)
  else if F.nan = 2 then (F.canonNaN, fNV)
  else (F.signed neg F.maxCode, fNV)

/-- RND into a floating format (R60). -/
def Fmt.rnd (F : Fmt) (mode : Nat) (sat : Bool) (r : Nat) (x : Val) : Nat × Flags :=
  match x with
  | .nan _ => if F.nan = 0 then (0, fNV) else (F.canonNaN, 0)
  | .inf neg =>
    if sat then (F.signed neg F.maxCode, 0)
    else if F.inf then (F.infCode neg, 0)
    else if F.nan = 2 then (F.canonNaN, fNV)
    else (F.signed neg F.maxCode, fNV)
  | .fin neg m e =>
    if m = 0 then (F.signed neg 0, 0)
    else
      let lg : Int := (Nat.log2 m : Int) + e
      let E := if F.emin ≤ lg then lg else F.emin
      let q := E - F.M
      let k := roundTo mode neg r m e q
      let code := (E - F.emin).toNat * 2 ^ F.M + k
      let exact : Bool := if q ≤ e then true else decide (m % 2 ^ (q - e).toNat = 0)
      if F.maxCode < code then
        ((F.overflowed mode sat neg).1, (F.overflowed mode sat neg).2 ||| fOF ||| fNX)
      else (F.signed neg code, flagIf (!exact) fNX ||| flagIf (!exact && F.tiny mode neg m e code) fUF)

/-- FTZ: a subnormal result becomes zero of its sign, with UF and NX (R63). -/
def Fmt.flush (F : Fmt) (ftz : Bool) (p : Nat × Flags) : Nat × Flags :=
  if ftz && F.subnormal p.1 then (p.1 / F.signBit * F.signBit, p.2 ||| fUF ||| fNX) else p

/-- An integer format (03 Table 3-1). -/
structure IFmt where
  w  : Nat
  sg : Bool
deriving DecidableEq, Repr

def IFmt.lo (I : IFmt) : Int := if I.sg then -(2 ^ (I.w - 1) : Nat) else 0
def IFmt.hi (I : IFmt) : Int := if I.sg then (2 ^ (I.w - 1) : Nat) - 1 else (2 ^ I.w : Nat) - 1
/-- The value of a code. -/
def IFmt.decode (I : IFmt) (code : Nat) : Int :=
  if I.sg && decide (2 ^ (I.w - 1) ≤ code) then (code : Int) - (2 ^ I.w : Nat) else code
/-- The code of a value modulo 2^w. -/
def IFmt.wrap (I : IFmt) (x : Int) : Nat := (x % (2 ^ I.w : Nat)).toNat
/-- The nearest end of the range, or the value itself. -/
def IFmt.clamp (I : IFmt) (x : Int) : Int := if x < I.lo then I.lo else if I.hi < x then I.hi else x
/-- An integer brought into the format: wrapped, or saturated with OF (R61, 06 R120). -/
def IFmt.narrow (I : IFmt) (sat : Bool) (x : Int) : Nat × Flags :=
  if sat && decide (I.clamp x ≠ x) then (I.wrap (I.clamp x), fOF) else (I.wrap x, 0)

/-- RND of a floating value into an integer format (R61). -/
def IFmt.rnd (I : IFmt) (mode r : Nat) (x : Val) : Nat × Flags :=
  match x with
  | .nan _ => (0, fNV)
  | .inf neg => (I.wrap (if neg then I.lo else I.hi), fNV)
  | .fin neg m e =>
    let k := roundTo mode neg r m e 0
    let v : Int := if neg then -(k : Int) else k
    let exact : Bool := if 0 ≤ e then true else decide (m % 2 ^ (-e).toNat = 0)
    if I.clamp v ≠ v then (I.wrap (I.clamp v), fNV) else (I.wrap v, flagIf (!exact) fNX)

/-- RND into BIN1 (R61). -/
def rndBin1 (x : Val) : Nat × Flags :=
  match x with
  | .nan _ => (1, fNV)
  | .inf neg => (if neg then 0 else 1, fNV)
  | .fin neg m e =>
    let one : Bool := decide (e ≤ 0) && decide (m = 2 ^ (-e).toNat) || (decide (e = 0) && decide (m = 1))
    (if neg then 0 else 1, flagIf (!one) fNX)

/-! Exact arithmetic. -/

/-- A finite value as a signed integer times a power of two. -/
structure Dy where
  m : Int
  e : Int
deriving DecidableEq, Repr

def Dy.zero : Dy := { m := 0, e := 0 }
def Dy.ofNeg (neg : Bool) (m : Nat) (e : Int) : Dy := { m := if neg then -(m : Int) else m, e := e }
/-- The exact sum. -/
def Dy.add (a b : Dy) : Dy :=
  if a.m = 0 then b
  else if b.m = 0 then a
  else if a.e ≤ b.e then { m := a.m + b.m * (2 ^ (b.e - a.e).toNat : Nat), e := a.e }
  else { m := a.m * (2 ^ (a.e - b.e).toNat : Nat) + b.m, e := b.e }
def Dy.sum (l : List Dy) : Dy := l.foldl Dy.add Dy.zero
/-- A value from an exact sum; `nz` is the sign of a zero. -/
def Dy.val (a : Dy) (nz : Bool) : Val := if a.m = 0 then .fin nz 0 0 else .fin (decide (a.m < 0)) a.m.natAbs a.e
/-- The sign of the difference of two exact values: negative, zero or positive. -/
def Dy.sub (a b : Dy) : Int := (Dy.add a { b with m := -b.m }).m

def Val.isNan (x : Val) : Bool := match x with | .nan _ => true | _ => false
def Val.isInf (x : Val) : Bool := match x with | .inf _ => true | _ => false
def Val.isZero (x : Val) : Bool := match x with | .fin _ 0 _ => true | _ => false
def Val.sig (x : Val) : Bool := match x with | .nan b => b | _ => false
def Val.neg (x : Val) : Bool := match x with | .nan _ => false | .inf n => n | .fin n _ _ => n
def Val.dy (x : Val) : Dy := match x with | .fin n m e => Dy.ofNeg n m e | _ => Dy.zero
/-- NV where a signalling NaN was read (R53). -/
def Val.nv (x : Val) : Flags := flagIf x.sig fNV

/-- The exact sum with the cases of 06 Table 6-2; a mode RDN gives an exact zero of mixed signs -0. -/
def Val.add (rdn : Bool) (a b : Val) : Val × Flags :=
  if a.isNan || b.isNan then (.nan false, a.nv ||| b.nv)
  else match a, b with
    | .inf x, .inf y => if x = y then (.inf x, 0) else (.nan false, fNV)
    | .inf x, _ => (.inf x, 0)
    | _, .inf y => (.inf y, 0)
    | a, b => ((Dy.add a.dy b.dy).val (if a.neg = b.neg then a.neg else rdn), 0)

/-- The exact product. -/
def Val.mul (a b : Val) : Val × Flags :=
  if a.isNan || b.isNan then (.nan false, a.nv ||| b.nv)
  else match a, b with
    | .fin x m e, .fin y n f => (.fin (x != y) (m * n) (e + f), 0)
    | a, b => if a.isZero || b.isZero then (.nan false, fNV) else (.inf (a.neg != b.neg), 0)

/-- The exact value of a × b + d; ∞ × 0 sets NV even when d is NaN (Table 6-2). -/
def Val.fma (a b d : Val) : Val × Flags :=
  let p := Val.mul a b
  let s := Val.add false p.1 d
  (s.1, p.2 ||| s.2)

/-- The sign turned over; a NaN stays. -/
def Val.negate (x : Val) : Val :=
  match x with
  | .nan b => .nan b
  | .inf n => .inf (!n)
  | .fin n m e => .fin (!n) m e
def Val.abs (x : Val) : Val :=
  match x with
  | .nan b => .nan b
  | .inf _ => .inf false
  | .fin _ m e => .fin false m e

/-- Order of two values that are no NaN: negative, zero or positive, with -0 equal to +0. -/
def Val.cmp (a b : Val) : Int :=
  match a, b with
  | .inf x, .inf y => if x = y then 0 else if x then -1 else 1
  | .inf x, _ => if x then -1 else 1
  | _, .inf y => if y then 1 else -1
  | a, b => Dy.sub a.dy b.dy

/-- a before b with -0 below +0 (06 R120). -/
def Val.lt0 (a b : Val) : Bool := decide (Val.cmp a b < 0) || (decide (Val.cmp a b = 0) && a.neg && !b.neg)

/-- Minimum or maximum of two values; a single NaN gives the other operand (06 R120). -/
def Val.minmax (isMax : Bool) (a b : Val) : Val × Flags :=
  let f := a.nv ||| b.nv
  if a.isNan && b.isNan then (.nan false, f)
  else if a.isNan then (b, f)
  else if b.isNan then (a, f)
  else (if Val.lt0 a b != isMax then a else b, f)

/-- A value scaled by a power of two. -/
def Val.scale (x : Val) (k : Int) : Val := match x with | .fin n m e => .fin n m (e + k) | v => v

/-- DOTSTEP (R69 to R71): acc + Σ a × b exactly, the special cases of R70, with no rounding yet. A NaN scale makes the step NaN.
DESIGN CHOICE (log 65): where a NaN operand stands beside products of both infinities, two rows of R70 match; the row of the NaN is
taken and NV is not set for the infinities, while an ∞ × 0 product sets NV also beside a NaN. -/
def dotExact (scaleNaN : Bool) (acc : Val) (ps : List (Val × Val)) : Val × Flags :=
  let prods := ps.map (fun p => Val.mul p.1 p.2)
  let f := prods.foldl (fun f p => f ||| p.2) acc.nv
  let vals := prods.map Prod.fst
  let pinf := vals.any (fun v => v.isInf && !v.neg)
  let ninf := vals.any (fun v => v.isInf && v.neg)
  if scaleNaN || acc.isNan || vals.any Val.isNan then (.nan false, f)
  else if (pinf && ninf) || (pinf && acc.isInf && acc.neg) || (ninf && acc.isInf && !acc.neg) then (.nan false, f ||| fNV)
  else if pinf || ninf then (.inf ninf, f)
  else if acc.isInf then (acc, f)
  else ((Dy.sum (acc.dy :: vals.map Val.dy)).val (acc.neg && vals.all Val.neg), f)

/-- DOTSTEP with its one rounding (R69). -/
def dotStep (F : Fmt) (scaleNaN : Bool) (acc : Val) (ps : List (Val × Val)) : Nat × Flags :=
  let x := dotExact scaleNaN acc ps
  let y := F.rnd 0 false 0 x.1
  (y.1, x.2 ||| y.2)

/-- An integer step (R73): modulo 2^32 with OF. -/
def dotInt (acc : Int) (ps : List (Int × Int)) : Nat × Flags :=
  let x := ps.foldl (fun a p => a + p.1 * p.2) acc
  let I : IFmt := { w := 32, sg := true }
  (I.wrap x, flagIf (decide (I.clamp x ≠ x)) fOF)

/-! Scales and QN4 (R54 to R56). -/

/-- The exponent of an E8M0 code, or none for NaN. -/
def e8m0 (c : Nat) : Option Int := if c = 255 then none else some ((c : Int) - 127)

/-- The codebook of QN4 (Table 3-4). -/
def qn4Book : List Int := [-128, -91, -68, -52, -39, -28, -18, -9, 0, 9, 19, 30, 43, 58, 80, 128]
def qn4c (k : Nat) : Int := qn4Book.getD (k % 16) 0

/-- w × S × 2^-15 for an exact w, before its rounding; q = 255 or a NaN S gives NaN (R56). DESIGN CHOICE (log 65): where c(k) = 0 and S is
finite and not zero, the zero is +0 for a negative S too; R56 gives the sign of such a zero for S = ±0 alone. -/
def qn4Exact (w : Int) (S : Val) : Val × Flags :=
  match S with
  | .nan b => (.nan false, flagIf b fNV)
  | .inf n => if w = 0 then (.nan false, fNV) else (.inf (n != decide (w < 0)), 0)
  | .fin n m e =>
    if w = 0 then (.fin false 0 0, 0) else (.fin (n != decide (w < 0)) (w.natAbs * m) (e - 15), 0)

/-- The decoded value of a QN4 element (R56). -/
def qn4Decode (k q : Nat) (S : Val) : Val × Flags :=
  if q = 255 then (.nan false, 0)
  else
    let x := qn4Exact (qn4c k * ((q : Int) + 1)) S
    let y := fp32.rnd 0 false 0 x.1
    (fp32.decode y.1, x.2 ||| y.2)

/-! Packing (R57). -/

/-- Element i of width w of a register. -/
def elem (w : Nat) (x : W32) (i : Nat) : Nat := x.toNat / 2 ^ (w * i) % 2 ^ w
/-- A register from its elements, the bits above zero. -/
def packElems (w : Nat) (l : List Nat) : W32 :=
  BitVec.ofNat 32 (l.foldr (fun c acc => c % 2 ^ w + 2 ^ w * acc) 0)

/-- What a format tag says of a register (Table 3-5). -/
inductive Kind where
  | int (n : Nat) (I : IFmt)
  | flt (n : Nat) (F : Fmt)
  | qn4
  | none
deriving DecidableEq, Repr

/-- The packing of a tag. -/
def kindOf (t : BitVec 4) : Kind :=
  match t.toNat with
  | 0 => .int 1 { w := 32, sg := true }
  | 1 => .flt 1 fp32
  | 2 => .flt 2 bf16
  | 3 => .flt 2 fp16
  | 4 => .flt 4 e5m2
  | 5 => .flt 4 e4m3
  | 6 => .flt 5 e3m2
  | 7 => .flt 5 e2m3
  | 8 => .flt 8 e2m1
  | 9 => .qn4
  | 10 => .int 4 { w := 8, sg := true }
  | 11 => .int 4 { w := 8, sg := false }
  | 12 => .int 8 { w := 4, sg := true }
  | 13 => .int 8 { w := 4, sg := false }
  | _ => .none

/-- The number of elements of a tag. -/
def Kind.count (k : Kind) : Nat := match k with | .int n _ => n | .flt n _ => n | .qn4 => 8 | .none => 1
/-- The width of its elements. -/
def Kind.width (k : Kind) : Nat := match k with | .int _ I => I.w | .flt _ F => F.width | .qn4 => 4 | .none => 32

/-- An exact integer as a value; an integer zero is +0. -/
def Val.ofInt (x : Int) : Val := .fin (decide (x < 0)) x.natAbs 0

/-! The stochastic generator (R66). -/

def genSeed : W64 := 0xD1B54A33D1B54A33#64
def genStep (s : W64) : W64 :=
  let a := s ^^^ (s <<< 13)
  let b := a ^^^ (a >>> 7)
  b ^^^ (b <<< 17)

/-! Block quantising (R74 to R76). -/

/-- The element formats of a block-scaled tensor. -/
inductive BlockFmt where
  | flt (F : Fmt) (emax : Int)
  | int8
deriving DecidableEq, Repr

def BlockFmt.emax (b : BlockFmt) : Int := match b with | .flt _ e => e | .int8 => 0
/-- The largest-magnitude code of a sign (R76). -/
def BlockFmt.largest (b : BlockFmt) (neg : Bool) : Nat :=
  match b with
  | .flt F _ => F.signed neg F.maxCode
  | .int8 => if neg then 128 else 127
/-- An element rounded with saturation (R74). MXINT8 counts in units of 2^-6 (R54). -/
def BlockFmt.enc (b : BlockFmt) (mode r : Nat) (x : Val) : Nat × Flags :=
  match b with
  | .flt F _ => F.rnd mode true r x
  | .int8 =>
    match x with
    | .fin neg m e =>
      let I : IFmt := { w := 8, sg := true }
      let k := roundTo mode neg r m (e + 6) 0
      let v : Int := if neg then -(k : Int) else k
      let exact : Bool := if 0 ≤ e + 6 then true else decide (m % 2 ^ (-(e + 6)).toNat = 0)
      if I.clamp v ≠ v then (I.wrap (I.clamp v), fNV) else (I.wrap v, flagIf (!exact) fNX)
    | _ => (0, 0)

/-- floor(log2 |x|) of a finite value other than zero. -/
def Val.log2 (x : Val) : Int := match x with | .fin _ m e => (Nat.log2 m : Int) + e | _ => 0
/-- The larger magnitude of two finite values. -/
def Val.maxAbs (a b : Val) : Val := if Val.cmp a.abs b.abs < 0 then b.abs else a.abs

def clampInt (lo hi x : Int) : Int := if x < lo then lo else if hi < x then hi else x

/-- A block of 32 values with an E8M0 scale: the scale code, the element codes, the flags. `rs` gives each element's generator bits.
DESIGN CHOICE (log 65): in a block of infinities and zeros a zero keeps its sign; R76 says “a zero code” and does not say which. -/
def quantE8M0 (b : BlockFmt) (mode : Nat) (rs : List Nat) (vs : List Val) : Nat × List Nat × Flags :=
  let finite := vs.filter (fun v => !v.isNan && !v.isInf)
  let amax := finite.foldl Val.maxAbs (.fin false 0 0)
  let anyInf := vs.any Val.isInf
  if vs.any Val.isNan then (255, vs.map (fun _ => 0), flagIf (vs.any Val.sig) fNV)
  else if anyInf && amax.isZero then
    (254, vs.map (fun v => if v.isInf then b.largest v.neg else match b with
                            | .flt F _ => F.signed v.neg 0
                            | .int8 => 0), fOF)
  else
    let X := if amax.isZero then (-127 : Int) else clampInt (-127) 127 (amax.log2 - b.emax)
    let es := (vs.zip rs).map (fun p =>
      if p.1.isInf then (b.largest p.1.neg, fOF) else b.enc mode p.2 (p.1.scale (-X)))
    ((X + 127).toNat, es.map Prod.fst, es.foldl (fun f e => f ||| e.2) 0)

/-- The QN4 code nearest to n ÷ d (d > 0), ties to the smaller |c|; NX where c(k) differs, and OF besides where |n ÷ d| > 128 (R75). -/
def qn4Code (n : Int) (d : Nat) : Nat × Flags :=
  if 128 * (d : Int) < n then (15, fOF ||| fNX)
  else if n < -(128 * (d : Int)) then (0, fOF ||| fNX)
  else
    let dist (k : Nat) : Nat := (qn4c k * (d : Int) - n).natAbs
    let best := (List.range 16).foldl (fun b k =>
      if dist k < dist b ∨ (dist k = dist b ∧ (qn4c k).natAbs < (qn4c b).natAbs) then k else b) 0
    (best, flagIf (decide (dist best ≠ 0)) fNX)

/-- A block of 64 values with a superscale (R75, R76): q, the codes, the flags. -/
def quantQN4 (S : Val) (vs : List Val) : Nat × List Nat × Flags :=
  let finite := vs.filter (fun v => !v.isNan && !v.isInf)
  let amax := finite.foldl Val.maxAbs (.fin false 0 0)
  if vs.any Val.isNan then (255, vs.map (fun _ => 0), flagIf (vs.any Val.sig) fNV)
  else if vs.any Val.isInf && amax.isZero then
    (254, vs.map (fun v => if v.isInf then (if v.neg then 0 else 15) else 8), fOF)
  else
    -- an S that no code can be formed under: every finite value becomes code 0, an infinity its largest code (R76 before R75)
    let spoiled : Nat × List Nat × Flags :=
      (255, vs.map (fun v => if v.isInf && !v.neg then 15 else 0), fNV ||| flagIf (vs.any Val.isInf) fOF)
    match S with
    | .nan _ => spoiled
    | .inf _ => spoiled
    | .fin sn sm se =>
      if sm = 0 then spoiled
      else
        -- amax / |S| as a quotient of naturals
        let ratio (v : Val) : Nat × Nat := match v with
          | .fin _ m e => if se ≤ e then (m * 2 ^ (e - se).toNat, sm) else (m, sm * 2 ^ (se - e).toNat)
          | _ => (0, 1)
        let a := ratio amax
        let q : Nat := if amax.isZero then 0 else min 254 (ceilDiv (256 * a.1) a.2 - 1)
        let es := vs.map (fun v =>
          if v.isInf then (if v.neg then 0 else 15, fOF)
          else
            let p := ratio v
            let n : Int := (p.1 * 32768 : Nat)
            qn4Code (if v.neg != sn then -n else n) ((q + 1) * p.2))
        (q, es.map Prod.fst, es.foldl (fun f e => f ||| e.2) 0)

end Sys2Proof.Machine
end

