-- ==== Sys2Proof/Config.lean ====
section
/-! DEFINITION. What the part fixes, and the free values: what the spec leaves open, as constants without a body. -/

namespace Sys2Proof.Config

/-- Lanes of a team at most (01 R9). -/
def maxLanes : Nat := 1024
/-- Group-blocks of a bank's free pool (04 R86). -/
def poolBlocks : Nat := 768
/-- Group slots of a bank (01 R10). -/
def groupSlots : Nat := 64
/-- Records of a bank's split table (01 R19). -/
def splitRecords : Nat := 256
/-- Entries of a team's overflow stack (01 R20). -/
def overflowEntries : Nat := 64
/-- Entries of one lane's queue (08 R158). -/
def queueDepth : Nat := 8
/-- Scratchpad bytes of a core (08 R155). -/
def spadBytes : Nat := 8388608
/-- Bytes of a team's reserved scratchpad region (08 R170). -/
def reservedBytes : Nat := 32768
/-- Tiles, reservation entries, pair-buffer entries and generator contexts of a quad (13 R239, 14 R268). -/
def quadTiles : Nat := 64
def quadEntries : Nat := 16
def quadPairs : Nat := 4
def quadContexts : Nat := 4
/-- Posted matrix operations of a reservation entry (13 R246). -/
def matrixQueue : Nat := 8
/-- Entries of a deque (17 R304). -/
def dequeEntries : Nat := 512
/-- End of HBM in the physical address space (18 R314). -/
def hbmEnd : Nat := 0xC000000000
/-- The longest wait of MRSV and of a pair half, in cycles (13 R243, R264). -/
def reservationWait : Nat := 65536
/-- The number of this package in its installation (05 Table 5-6): set by Farder. FREE VALUE (log 6). -/
opaque packageNumber : BitVec 14
/-- The stepping DEVID reports, as an index into the three of Table 23-2. FREE VALUE (log 6). -/
opaque stepping : Nat

/-- FREE VALUE: a choice the spec leaves open, drawn by a counter (log 2). -/
opaque pick : Nat → Nat
/-- FREE VALUE: 64 open bits, drawn by a counter (log 2). -/
opaque fresh : Nat → W64
/-- FREE VALUE: what a context's state is after an event whose result is undefined (00 R6; log 24): by the draw, the part, the place in it. -/
opaque wild : Nat → Nat → Nat → W64
/-- FREE VALUE: where GRIDIDs start; the spec promises only that live ones differ (20 R374; log 3). -/
opaque gridBase : W64
/-- FREE VALUE: where team stamps start; the spec promises non-zero and unique (19 R341; log 3). -/
opaque stampBase : W64
/-- FREE VALUE: which of the values within its bound each special function returns, a fixed function of
the input (07 R139; log 7). The first argument is the opcode. -/
opaque specialPick : Nat → W32 → Nat
/-- FREE VALUE: whether a page-table entry without W marks a copy-on-write page; the spec does not say how
one is marked (09 R209; log 8). -/
opaque pteCow : W64 → Bool
/-- FREE VALUE: how far a die's cycle counter is ahead, used modulo 17 (05 R115; log 9). -/
opaque cycleSkew : Nat → Nat
/-- FREE VALUE: whether TIME rounds the fraction of a nanosecond up (23 Table 23-3; log 9). -/
opaque timeRoundsUp : Nat → Bool
/-- FREE VALUE: the set of an L2 slice, of 512, in which a line lies, by its tag: 0, the line, 0, 0, or 1 + context, number, tile row, tile
column; the spec gives the sets but not the index (17 R292; log 31). -/
opaque l2Set : Nat → Nat → Nat → Nat → Nat
/-- FREE VALUE: how many sets an L1D of 2,048 lines has, and the set of a line; the spec gives neither (09 R183; log 31). -/
opaque l1Sets : Nat
opaque l1Set : Nat → Nat
/-- FREE VALUE: measurements of the boot ROM, the security controller's firmware and the fuses (23 R399; log 6). -/
opaque fixedMeasure : Nat → BitVec 512
/-- FREE VALUE: the SHA-512 digest of DEVID, which measurement block 6 reports (23 R399; log 6). -/
opaque devidMeasure : W64 → BitVec 512
/-- FREE VALUE: what a write to firmware slot control asks for, by offset and value; the spec gives the register no layout (23 Table 23-1;
log 6). Bit 0 names Farder's slot, bit 1 the scheduler's, bit 2 activates them, bit 3 raises the SVN minimum. -/
opaque slotCommand : Nat → W64 → Nat
/-- FREE VALUE: a word of the hub window whose layout the spec does not give, by its offset and what it shows (23 Table 23-1; log 33): entries
of the management error log, the slots, sensors, snapshots. -/
opaque hubWord : Nat → List Nat → W64
/-- FREE VALUE: the source of the PLIC, taken modulo 1,023 and one more, that a notice to a hart for a context raises (23 R384; log 33). -/
opaque plicSource : Nat → Nat → Nat
/-- FREE VALUE: which word of its page is the power cap, used modulo 512 (23 Table 23-1; log 6). -/
opaque powerWord : Nat
/-- FREE VALUE: signatures and certificates of the SPDM responder (23 R399; log 6). -/
opaque spdmBytes : Nat → Nat → BitVec 4096

end Sys2Proof.Config
end

