-- ==== Sys2Proof/Syntax.lean ====
section
/-! DEFINITION. The syntax: one constructor per row of spec/opcode_table.json. Instruction words (02 R33, R43
to R48) come first; their operands are the fields of the table with its letters: d destination, a and b sources, m modifier,
p predicate, la lookahead (R42), v and i the data and offset fields of the memory formats, k base pair, z size, h and g the
two halves of a sub-function, e level, t tile or tag, u latch bit, x index register or context. Then come the events. -/

namespace Sys2Proof

/-- A row of the opcode table. -/
inductive Instr where
  /-- NOP (R38). No effect; discarded at decode and takes no pipe or issue cycle. -/
  | nop
  /-- BRA (R102). Transfers to the packet-relative target and ends the packet. -/
  | bra (o : BitVec 24)
  /-- BRC (R102). Transfers to the target if the condition holds for a scalar. -/
  | brc (a : BitVec 6) (k : BitVec 3) (o : BitVec 15)
  /-- BRI (R102). Transfers to the address held in a scalar, after the alignment and extent checks. -/
  | bri (a : BitVec 6)
  /-- CALL (R102). Writes the next packet start to s63 and transfers to the target. -/
  | call (o : BitVec 24)
  /-- RET (R102). Transfers to the address in s63. -/
  | ret
  /-- DIVB (R21). Divides a strand on a predicate into two split strands, or defers one path on the overflow stack. -/
  | divb (p : BitVec 3) (i : BitVec 1) (o : BitVec 20)
  /-- JOIN (R22). Switches to the deferred path, fuses with siblings, or waits for them. -/
  | join
  /-- END (R23). Ends a strand's lanes, resumes deferred lanes, or ends the stream. -/
  | endStrand
  /-- YIELD (R110). Makes the strand not ready for n + 1 cycles. -/
  | yield (n : BitVec 16)
  /-- LOOP (R102). Decrements a scalar and transfers to the target if the condition holds for the new value. -/
  | loop (a : BitVec 6) (k : BitVec 3) (o : BitVec 15)
  /-- TRAP (R226). Stops the strand precisely with cause trap and the given code. -/
  | trap (n : BitVec 16)
  /-- BKPT (R226). Stops the strand precisely with cause breakpoint and the given code. -/
  | bkpt (n : BitVec 16)
  /-- SYSC (R391). Releases, then blocks the strand while Farder performs the numbered call and writes s48 and s49. -/
  | sysc (n : BitVec 16)
  /-- SADD (R111). Scalar add modulo 2^64. -/
  | sadd (d : BitVec 6) (a : BitVec 6) (b : BitVec 6)
  /-- SSUB (R111). Scalar subtract modulo 2^64. -/
  | ssub (d : BitVec 6) (a : BitVec 6) (b : BitVec 6)
  /-- SMUL (R111). Low 64 bits of the scalar product. -/
  | smul (d : BitVec 6) (a : BitVec 6) (b : BitVec 6)
  /-- SMULH (R111). High 64 bits of the signed 128-bit scalar product. -/
  | smulh (d : BitVec 6) (a : BitVec 6) (b : BitVec 6)
  /-- SAND (R111). Scalar bitwise and. -/
  | sand (d : BitVec 6) (a : BitVec 6) (b : BitVec 6)
  /-- SOR (R111). Scalar bitwise or; with sa = sb it copies the REF tag. -/
  | sor (d : BitVec 6) (a : BitVec 6) (b : BitVec 6)
  /-- SXOR (R111). Scalar bitwise exclusive or. -/
  | sxor (d : BitVec 6) (a : BitVec 6) (b : BitVec 6)
  /-- SSHL (R111). Scalar shift left by sb[5:0]. -/
  | sshl (d : BitVec 6) (a : BitVec 6) (b : BitVec 6)
  /-- SSHR (R111). Scalar logical shift right by sb[5:0]. -/
  | sshr (d : BitVec 6) (a : BitVec 6) (b : BitVec 6)
  /-- SSRA (R111). Scalar arithmetic shift right by sb[5:0]. -/
  | ssra (d : BitVec 6) (a : BitVec 6) (b : BitVec 6)
  /-- SMIN (R111). Signed scalar minimum. -/
  | smin (d : BitVec 6) (a : BitVec 6) (b : BitVec 6)
  /-- SMAX (R111). Signed scalar maximum. -/
  | smax (d : BitVec 6) (a : BitVec 6) (b : BitVec 6)
  /-- SLT (R111). Signed scalar less-than. -/
  | slt (d : BitVec 6) (a : BitVec 6) (b : BitVec 6)
  /-- SLTN (R111). Unsigned scalar less-than. -/
  | sltn (d : BitVec 6) (a : BitVec 6) (b : BitVec 6)
  /-- SSEL (R111). Selects sa or sb by the old value of sd. -/
  | ssel (d : BitVec 6) (a : BitVec 6) (b : BitVec 6)
  /-- SADDI (R112). Adds a signed 12-bit immediate to a scalar. -/
  | saddi (d : BitVec 6) (a : BitVec 6) (i : BitVec 12)
  /-- SLUI (R112). Loads a signed 18-bit immediate times 4,096. -/
  | slui (d : BitVec 6) (i : BitVec 18)
  /-- SRD (R113). Reads a special register into a scalar. -/
  | srd (d : BitVec 6) (n : BitVec 12)
  /-- SWR (R113). Writes a scalar into a writable special register under its rules. -/
  | swr (a : BitVec 6) (n : BitVec 12)
  /-- REGACQ (R91). Requests n extended register blocks from the bank's free pool into the team pool. -/
  | regacq (p : BitVec 3) (n : BitVec 4)
  /-- REGREL (R91). Returns n unmapped team-pool blocks to the free pool. -/
  | regrel (p : BitVec 3) (n : BitVec 4)
  /-- REGGIVE (R91). Unmaps the strand's top n own blocks into the team pool. -/
  | reggive (p : BitVec 3) (n : BitVec 4)
  /-- REGCLAIM (R91). Requests n blocks from the team pool to map at the strand's next positions. -/
  | regclaim (p : BitVec 3) (n : BitVec 4)
  /-- VIDX (R94). Sets an index register to a scalar plus an immediate modulo 2^16. -/
  | vidx (x : BitVec 2) (a : BitVec 6) (i : BitVec 12)
  /-- VRDX (R96). Reads the vector register named by an index register plus a base. -/
  | vrdx (x : BitVec 2) (d : BitVec 7) (a : BitVec 7)
  /-- VWRX (R96). Writes the vector register named by an index register plus a base. -/
  | vwrx (x : BitVec 2) (d : BitVec 7) (a : BitVec 7)
  /-- VTAG (R98). Copies a register's bits and sets a new format tag. -/
  | vtag (t : BitVec 4) (d : BitVec 7) (a : BitVec 7)
  /-- VADD (R120). Element-wise add, with optional saturation or stochastic rounding. -/
  | vadd (m : BitVec 3) (d : BitVec 7) (a : BitVec 7) (b : BitVec 7)
  /-- VSUB (R120). Element-wise subtract. -/
  | vsub (m : BitVec 3) (d : BitVec 7) (a : BitVec 7) (b : BitVec 7)
  /-- VMUL (R120). Element-wise multiply. -/
  | vmul (m : BitVec 3) (d : BitVec 7) (a : BitVec 7) (b : BitVec 7)
  /-- VFMA (R120). Element-wise fused multiply-add into vd with one rounding. -/
  | vfma (m : BitVec 3) (d : BitVec 7) (a : BitVec 7) (b : BitVec 7)
  /-- VMIN (R120). Element-wise minimum. -/
  | vmin (d : BitVec 7) (a : BitVec 7) (b : BitVec 7)
  /-- VMAX (R120). Element-wise maximum. -/
  | vmax (d : BitVec 7) (a : BitVec 7) (b : BitVec 7)
  /-- VABS (R120). Element-wise absolute value. -/
  | vabs (m : BitVec 3) (d : BitVec 7) (a : BitVec 7)
  /-- VNEG (R120). Element-wise negation. -/
  | vneg (m : BitVec 3) (d : BitVec 7) (a : BitVec 7)
  /-- VAND (R122). Bitwise and of 32 bits. -/
  | vand (d : BitVec 7) (a : BitVec 7) (b : BitVec 7)
  /-- VOR (R122). Bitwise or of 32 bits. -/
  | vor (d : BitVec 7) (a : BitVec 7) (b : BitVec 7)
  /-- VXOR (R122). Bitwise exclusive or of 32 bits. -/
  | vxor (d : BitVec 7) (a : BitVec 7) (b : BitVec 7)
  /-- VNOT (R122). Bitwise not of 32 bits. -/
  | vnot (d : BitVec 7) (a : BitVec 7)
  /-- VSHL (R121). Element-wise shift left by per-element counts. -/
  | vshl (d : BitVec 7) (a : BitVec 7) (b : BitVec 7)
  /-- VSHR (R121). Element-wise logical shift right. -/
  | vshr (d : BitVec 7) (a : BitVec 7) (b : BitVec 7)
  /-- VSRA (R121). Element-wise arithmetic shift right. -/
  | vsra (d : BitVec 7) (a : BitVec 7) (b : BitVec 7)
  /-- VMOV (R122). Copies a register and its tag; REF becomes RAW. -/
  | vmov (d : BitVec 7) (a : BitVec 7)
  /-- VMOVI (R123). Writes a sign-extended immediate with tag I32. -/
  | vmovi (d : BitVec 7) (i : BitVec 10)
  /-- VIOTA (R123). Writes the team-global lane index plus an immediate with tag I32. -/
  | viota (d : BitVec 7) (i : BitVec 10)
  /-- VMOVS (R124). Writes one half of a scalar into every active lane. -/
  | vmovs (m : BitVec 3) (d : BitVec 7) (a : BitVec 6)
  /-- VADDI (R125). Adds an immediate to every integer element. -/
  | vaddi (d : BitVec 7) (a : BitVec 7) (i : BitVec 10)
  /-- VCMP (R126). Compares per lane and sets, ands or ors a predicate. -/
  | vcmp (p : BitVec 3) (k : BitVec 3) (a : BitVec 7) (b : BitVec 7) (f : BitVec 4)
  /-- VSEL (R128). Selects va or vb per lane by a predicate. -/
  | vsel (m : BitVec 3) (d : BitVec 7) (a : BitVec 7) (b : BitVec 7)
  /-- VCVT (R130). Converts elements between formats with rounding and saturation. -/
  | vcvt (t : BitVec 4) (d : BitVec 7) (a : BitVec 7) (r : BitVec 3) (s : BitVec 1) (p : BitVec 2)
  /-- VPACK (R131). Narrows integer elements into a part of the destination. -/
  | vpack (t : BitVec 4) (d : BitVec 7) (a : BitVec 7) (s : BitVec 1) (p : BitVec 2)
  /-- VUNPK (R131). Widens one part of packed integer elements or codes. -/
  | vunpk (t : BitVec 4) (d : BitVec 7) (a : BitVec 7) (p : BitVec 2)
  /-- VDOT (R133). Accumulates the dot product of a register's elements into vd. -/
  | vdot (d : BitVec 7) (a : BitVec 7) (b : BitVec 7)
  /-- VPOPC (R134). Counts set bits of a register. -/
  | vpopc (d : BitVec 7) (a : BitVec 7)
  /-- VCLZ (R134). Counts leading zero bits of a register. -/
  | vclz (d : BitVec 7) (a : BitVec 7)
  /-- PAND (R127). Predicate and. -/
  | pand (d : BitVec 3) (a : BitVec 3) (b : BitVec 3)
  /-- POR (R127). Predicate or. -/
  | por (d : BitVec 3) (a : BitVec 3) (b : BitVec 3)
  /-- PNOT (R127). Predicate not. -/
  | pnot (d : BitVec 3) (a : BitVec 3)
  /-- VSEED (R135). Sets each active lane's stochastic generator state. -/
  | vseed (a : BitVec 7) (b : BitVec 7)
  /-- VRAND (R136). Steps each active lane's generator and writes a random value. -/
  | vrand (m : BitVec 3) (d : BitVec 7)
  /-- LEAL (R370). Writes the address of a frame offset at a level into a register pair. -/
  | leal (la : BitVec 4) (v : BitVec 7) (i : BitVec 7) (e : BitVec 3)
  /-- VEXPF (R140). Computes 2^a within 1 ulp. -/
  | vexpf (d : BitVec 7) (a : BitVec 7)
  /-- VRNDI (R141). Rounds to an integral F32 value in the given mode. -/
  | vrndi (m : BitVec 3) (d : BitVec 7) (a : BitVec 7)
  /-- VSCLB (R142). Scales by 2^n with one rounding. -/
  | vsclb (d : BitVec 7) (a : BitVec 7) (b : BitVec 7)
  /-- VEXPX (R143). Writes floor(log2 |a|) as I32. -/
  | vexpx (d : BitVec 7) (a : BitVec 7)
  /-- VEXPX_MANT (R143). Writes the significand of a in [1, 2). -/
  | vexpxMant (d : BitVec 7) (a : BitVec 7)
  /-- VLOGF (R140). Computes log2 a within 2 ulp. -/
  | vlogf (d : BitVec 7) (a : BitVec 7)
  /-- VRCP (R140). Computes 1/a within 1 ulp. -/
  | vrcp (d : BitVec 7) (a : BitVec 7)
  /-- VRSQ (R140). Computes 1/sqrt(a) within 1 ulp. -/
  | vrsq (d : BitVec 7) (a : BitVec 7)
  /-- VSINP (R140). Computes sin(pi a) within 2 ulp. -/
  | vsinp (d : BitVec 7) (a : BitVec 7)
  /-- VSHFL (R147). Reads a lane of the same group by index or xor. -/
  | vshfl (m : BitVec 3) (d : BitVec 7) (a : BitVec 7) (b : BitVec 7)
  /-- VBCST (R148). Reads any lane of the team by team-global index. -/
  | vbcst (d : BitVec 7) (a : BitVec 7) (b : BitVec 7)
  /-- VRED (R149). Reduces a register over the strand's active lanes into every lane. -/
  | vred (m : BitVec 3) (d : BitVec 7) (a : BitVec 7)
  /-- VSCAN (R150). Inclusive or exclusive prefix scan over the strand's active lanes. -/
  | vscan (m : BitVec 3) (d : BitVec 7) (a : BitVec 7)
  /-- VBAL (R151). Writes a group ballot word or a strand-wide count of a predicate. -/
  | vbal (m : BitVec 3) (d : BitVec 7) (p : BitVec 3)
  /-- VCONF (R152). Writes each lane's conflict rank or lead lane among equal values. -/
  | vconf (m : BitVec 3) (d : BitVec 7) (a : BitVec 7)
  /-- VISECT (R153). Intersects group lists or walks bitmap positions. -/
  | visect (m : BitVec 3) (d : BitVec 7) (a : BitVec 7) (b : BitVec 7)
  /-- LDS (R173). Loads from the team's scratchpad window per lane. -/
  | lds (la : BitVec 4) (v : BitVec 7) (i : BitVec 7) (k : BitVec 4) (z : BitVec 2)
  /-- STS (R173). Stores to the team's scratchpad window per lane. -/
  | sts (la : BitVec 4) (v : BitVec 7) (i : BitVec 7) (k : BitVec 4) (z : BitVec 2)
  /-- ATOMS (R174). 32-bit scratchpad atomic per lane. -/
  | atoms (la : BitVec 4) (v : BitVec 7) (h : BitVec 2) (i : BitVec 5) (k : BitVec 4) (g : BitVec 2)
  /-- CASS (R175). Scratchpad compare and swap per lane. -/
  | cass (la : BitVec 4) (v : BitVec 7) (i : BitVec 7) (k : BitVec 4) (z : BitVec 2)
  /-- WAITS (R177). Blocks until every earlier scratchpad access of the team has completed. -/
  | waits
  /-- QCFG (R163). Sets the format tag of a queue. -/
  | qcfg (q : BitVec 3) (t : BitVec 4)
  /-- QSTAT (R165). Writes a snapshot of a queue's state into a scalar. -/
  | qstat (d : BitVec 6) (q : BitVec 3)
  /-- QDRN (R164). Empties a queue in the strand's active lanes. -/
  | qdrn (q : BitVec 3)
  /-- TBAR (R166). Arrives at team barrier n and blocks until both streams arrive. -/
  | tbar (n : BitVec 4)
  /-- LDL (R370). Loads from a frame by level and offset. -/
  | ldl (la : BitVec 4) (v : BitVec 7) (i : BitVec 7) (e : BitVec 3) (z : BitVec 2)
  /-- STL (R370). Stores to a frame by level and offset. -/
  | stl (la : BitVec 4) (v : BitVec 7) (i : BitVec 7) (e : BitVec 3) (z : BitVec 2)
  /-- ATOML (R370). Atomic on a frame word at its home slice. -/
  | atoml (la : BitVec 4) (v : BitVec 7) (h : BitVec 2) (i : BitVec 5) (e : BitVec 3) (g : BitVec 2)
  /-- LD (R187). Strided global load. -/
  | ld (la : BitVec 4) (v : BitVec 7) (i : BitVec 7) (k : BitVec 4) (z : BitVec 2)
  /-- ST (R187). Strided global store. -/
  | st (la : BitVec 4) (v : BitVec 7) (i : BitVec 7) (k : BitVec 4) (z : BitVec 2)
  /-- LDG (R187). Gather load by per-lane offsets, A-stream only. -/
  | ldg (la : BitVec 4) (v : BitVec 7) (i : BitVec 7) (k : BitVec 4) (z : BitVec 2)
  /-- STG (R187). Scatter store by per-lane offsets, A-stream only. -/
  | stg (la : BitVec 4) (v : BitVec 7) (i : BitVec 7) (k : BitVec 4) (z : BitVec 2)
  /-- ATOM (R189). Global atomic at the home slice per lane. -/
  | atom (la : BitVec 4) (v : BitVec 7) (h : BitVec 2) (i : BitVec 5) (k : BitVec 4) (g : BitVec 2)
  /-- CAS (R189). Global compare and swap per lane. -/
  | cas (la : BitVec 4) (v : BitVec 7) (i : BitVec 7) (k : BitVec 4) (z : BitVec 2)
  /-- WAITC (R195). Blocks until the stream's counter of a class is at most n. -/
  | waitc (k : BitVec 3) (n : BitVec 6)
  /-- FENCE (R192). Blocks until the stream's earlier accesses are performed at the scope. -/
  | fence (s : BitVec 4)
  /-- PREF (R190). Prefetches lines into L2 or L1D and L2. -/
  | pref (la : BitVec 4) (v : BitVec 7) (i : BitVec 7) (k : BitVec 4)
  /-- XPRB (R191). Probes translation, an L2 sector or a tile line into a scalar. -/
  | xprb (la : BitVec 4) (d : BitVec 6) (a : BitVec 6) (f : BitVec 8)
  /-- CATSET (R200). Writes a Catalogue entry from a 64-byte image and invalidates every core's cache of it. -/
  | catset (la : BitVec 4) (d : BitVec 6) (a : BitVec 6)
  /-- CATGET (R201). Reads one word of a Catalogue entry. -/
  | catget (la : BitVec 4) (d : BitVec 6) (a : BitVec 6) (w : BitVec 3)
  /-- CATLD (R201). Loads a run of Catalogue entries into the core's cache. -/
  | catld (la : BitVec 4) (a : BitVec 6) (n : BitVec 8)
  /-- CATFREE (R201). Clears VALID of a Catalogue entry everywhere. -/
  | catfree (la : BitVec 4) (a : BitVec 6)
  /-- LDREF (R353). Loads a 64-bit reference with its tag into a register pair. -/
  | ldref (la : BitVec 4) (v : BitVec 7) (i : BitVec 7) (k : BitVec 4)
  /-- LDREF_S (R353). Loads a reference with its tag into a scalar. -/
  | ldrefS (la : BitVec 4) (v : BitVec 6) (i : BitVec 7) (k : BitVec 4)
  /-- STREF (R349). Stores a reference pair with its tag after the escape check. -/
  | stref (la : BitVec 4) (v : BitVec 7) (i : BitVec 7) (k : BitVec 4)
  /-- STREF_S (R349). Stores a scalar reference with its tag after the escape check. -/
  | strefS (la : BitVec 4) (v : BitVec 6) (i : BitVec 7) (k : BitVec 4)
  /-- MRSV (R243). Reserves accumulator tiles and a reservation-table entry, waiting in age order. -/
  | mrsv (p : BitVec 3) (n : BitVec 7)
  /-- MREL (R244). Waits for posted matrix operations, then frees the reservation. -/
  | mrel
  /-- MZERO (R257). Zeroes a tile and sets its kind. -/
  | mzero (la : BitVec 4) (k : BitVec 7) (t : BitVec 6)
  /-- MMA (R255). Posts one engine cycle adding A times a B block into a tile. -/
  | mma (la : BitVec 4) (u : BitVec 1) (a : BitVec 7) (b : BitVec 6) (t : BitVec 6)
  /-- MMAS (R285). Posts a sparse product over a computed pattern into a tile. -/
  | mmas (la : BitVec 4) (u : BitVec 1) (a : BitVec 7) (b : BitVec 6) (t : BitVec 6)
  /-- MRD (R258). Reads a slice of a tile into registers. -/
  | mrd (la : BitVec 4) (a : BitVec 7) (b : BitVec 6) (t : BitVec 6)
  /-- MSTA (R259). Converts and stores a tile into a scratchpad tensor. -/
  | msta (la : BitVec 4) (s : BitVec 1) (r : BitVec 3) (b : BitVec 6) (t : BitVec 6)
  /-- MQNT (R260). Quantises a 64 x 256 region into block-scaled form. -/
  | mqnt (la : BitVec 4) (r : BitVec 3) (b : BitVec 6)
  /-- MSAL (R261). Selects the top-k saliency positions of each half-group as a bitmap. -/
  | msal (d : BitVec 7) (a : BitVec 7) (b : BitVec 7)
  /-- MPAIR_SEND (R262). Offers a tile to a partner team of the grid. -/
  | mpairSend (la : BitVec 4) (p : BitVec 3) (b : BitVec 6) (t : BitVec 6)
  /-- MPAIR_RECV (R262). Takes a partner team's tile added into a tile. -/
  | mpairRecv (la : BitVec 4) (p : BitVec 3) (b : BitVec 6) (t : BitVec 6)
  /-- CBAR (R265). Arrives at the cluster barrier and blocks until every team arrives. -/
  | cbar
  /-- LDSC (R266). Loads from a cluster peer's scratchpad by cluster address. -/
  | ldsc (la : BitVec 4) (v : BitVec 7) (i : BitVec 7) (k : BitVec 4) (z : BitVec 2)
  /-- STSC (R266). Stores to a cluster peer's scratchpad by cluster address. -/
  | stsc (la : BitVec 4) (v : BitVec 7) (i : BitVec 7) (k : BitVec 4) (z : BitVec 2)
  /-- EPLD (R279). Loads a pattern program into a generator context. -/
  | epld (la : BitVec 4) (a : BitVec 6) (x : BitVec 2)
  /-- EPGEN (R280). Writes forward enumerations of rows into the scratchpad. -/
  | epgen (la : BitVec 4) (d : BitVec 6) (a : BitVec 6) (x : BitVec 2)
  /-- EPINV (R280). Writes transposed enumerations of columns into the scratchpad. -/
  | epinv (la : BitVec 4) (d : BitVec 6) (a : BitVec 6) (x : BitVec 2)
  /-- EPCTX_ACQ (R269). Acquires n generator contexts, or none. -/
  | epctxAcq (la : BitVec 4) (d : BitVec 6) (a : BitVec 6)
  /-- EPCTX_REL (R269). Releases the team's generator contexts once their operations retire. -/
  | epctxRel (la : BitVec 4)
  /-- EPSTAT (R281). Reads a context's status or shape into a scalar. -/
  | epstat (la : BitVec 4) (d : BitVec 6) (v : BitVec 1) (x : BitVec 2)
  /-- TPREF (R299). Fills lines or tiles of a range into their home slices. -/
  | tpref (la : BitVec 4) (d : BitVec 6) (a : BitVec 6)
  /-- TFLUSH (R299). Writes back and invalidates dirty lines of a range. -/
  | tflush (la : BitVec 4) (a : BitVec 6)
  /-- CPY (R297). Copies L bytes on the copy engine. -/
  | cpy (la : BitVec 4) (d : BitVec 6) (a : BitVec 6)
  /-- CPYT (R298). Copies a block of tiles between two catalogued tensors. -/
  | cpyt (la : BitVec 4) (d : BitVec 6) (a : BitVec 6)
  /-- RCLAIM (R301). Claims n ring granules for a producer, waiting for room. -/
  | rclaim (la : BitVec 4) (d : BitVec 6) (a : BitVec 6)
  /-- RCOMMIT (R301). Commits claimed granules in claim order with a release. -/
  | rcommit (la : BitVec 4) (d : BitVec 6) (a : BitVec 6)
  /-- RAWAIT (R301). Grants n committed granules to a consumer, waiting for them. -/
  | rawait (la : BitVec 4) (d : BitVec 6) (a : BitVec 6)
  /-- RRETIRE (R301). Retires granted granules in grant order with a release. -/
  | rretire (la : BitVec 4) (d : BitVec 6) (a : BitVec 6)
  /-- SPAWN (R304). Creates a task in a job and pushes it on a deque. -/
  | spawn (la : BitVec 4) (d : BitVec 6) (a : BitVec 6)
  /-- JOBNEW (R303). Initialises a job record and returns its handle. -/
  | jobnew (la : BitVec 4) (d : BitVec 6) (a : BitVec 6)
  /-- JOBWAIT (R306). Waits until a job's count reads zero, then acquires. -/
  | jobwait (la : BitVec 4) (d : BitVec 6) (a : BitVec 6)
  /-- ICINV (R310). Invalidates L1I lines of a virtual range on every core. -/
  | icinv (la : BitVec 4) (a : BitVec 6)
  /-- OBJNEW (R351). Allocates a private object from the team's spans. -/
  | objnew (la : BitVec 4) (d : BitVec 6) (a : BitVec 6)
  /-- PUBLISH (R356). Posts a walk that publishes every object reachable from a root and stores the root. -/
  | publish (la : BitVec 4) (a : BitVec 6)
  /-- OBJINFO (R355). Reads an object header's state, ownership and size. -/
  | objinfo (la : BitVec 4) (d : BitVec 6) (a : BitVec 6)
  /-- LAUNCH (R374). Launches a nested grid with a new frame. -/
  | launch (la : BitVec 4) (d : BitVec 6) (a : BitVec 6)
  /-- WAITCH (R377). Waits until the team's children have ended and returns the killed count. -/
  | waitch (la : BitVec 4) (d : BitVec 6)
  /-- FPUT (R409). Copies local bytes to another package's window. -/
  | fput (la : BitVec 4) (a : BitVec 6)
  /-- FGET (R409). Copies bytes from another package's window. -/
  | fget (la : BitVec 4) (a : BitVec 6)
  /-- FATOM (R410). Performs one remote atomic at another package. -/
  | fatom (la : BitVec 4) (a : BitVec 6)
  /-- RENQ (R415). Enqueues a task on another package within a job. -/
  | renq (la : BitVec 4) (a : BitVec 6)
  /-- COLL (R414). Joins a collective reduction or gather instance. -/
  | coll (la : BitVec 4) (a : BitVec 6)
  /-- FSIG (R411). Releases at FABRIC scope and updates a remote signal word. -/
  | fsig (la : BitVec 4) (a : BitVec 6)
  /-- CANDIDATE_URGENT (R17). A candidate ready for 2,048 cycles becomes urgent for issue selection. -/
  | candidateUrgent (r : StrandRef)
  /-- YIELD_EXPIRY (R110). A yielding strand becomes ready again when its count runs out. -/
  | yieldExpiry (r : StrandRef)
  /-- QUOTA_DENIAL (R92). After condition D holds 64 cycles, the youngest pending register request is denied. -/
  | quotaDenial (core : Nat)
  /-- REGISTER_REQUEST_GRANT (R89). A waiting REGACQ or REGCLAIM is granted when blocks become available in age order. -/
  | registerRequestGrant (core : Nat) (team : Option Nat)
  /-- LOAD_COMPLETE (R159). A load or pop returns data, filling registers or reserved queue entries. -/
  | loadComplete (team op lane : Nat)
  /-- MEMORY_ACCESS_PERFORM (R316). An access is performed at its home slice, SC operations taking a Lamport stamp. -/
  | memoryAccessPerform (team op lane : Nat) (viaL1 : Bool)
  /-- TRANSLATION_WALK_COMPLETE (R207). A page walk finishes, confirming or squashing a predicted load. -/
  | translationWalkComplete (team op lane : Nat)
  /-- PAGE_FAULT_PARK (R209). A word whose lanes have all finished or failed translation parks its strand. -/
  | pageFaultPark (team op : Nat)
  /-- X_PIPE_ACCEPT (R193). An engine word is accepted when its counter and queue have room, reading its Catalogue entries. -/
  | xPipeAccept (team op : Nat)
  /-- MATRIX_ENGINE_GRANT (R247). The quad arbiter grants the engine to one ready entry each engine cycle. -/
  | matrixEngineGrant (quad team : Nat)
  /-- ENTRY_URGENT (R247). A reservation head waiting 4,096 cycles becomes urgent. -/
  | entryUrgent (quad team : Nat)
  /-- MRSV_GRANT (R243). A waiting MRSV is granted when an entry and tiles free. -/
  | mrsvGrant (quad : Nat)
  /-- MRSV_TIMEOUT (R243). A waiting MRSV is denied after 65,536 cycles. -/
  | mrsvTimeout (quad : Nat) (r : StrandRef)
  /-- PAIR_MATCH (R263). Two MPAIR halves match and the sender's tile is added into the receiver's. -/
  | pairMatch (sender sendOp receiver recvOp : Nat)
  /-- PAIR_ABORT_TIMEOUT (R264). A pending MPAIR half aborts after 65,536 cycles. -/
  | pairAbortTimeout (team op : Nat)
  /-- COPY_OPERATION_COMPLETE (R297). The copy engine finishes a copy, tile copy, prefetch or flush. -/
  | copyOperationComplete (team op : Nat)
  /-- EPHEMERIS_OPERATION_COMPLETE (R280). The Ephemeris unit finishes a load or enumeration. -/
  | ephemerisOperationComplete (team op : Nat)
  /-- ENGINE_OPERATION_RETIRE (R193). An operation retires in class order and its counter falls. -/
  | engineOperationRetire (team : Nat) (strm : StreamId) (cls : Nat)
  /-- DEFERRED_TRAP (R216). A unit's fault after acceptance stops the owning strand at its next boundary. -/
  | deferredTrap (team : Nat)
  /-- PUBLICATION_WALK (R356). The walker traces, marks and stores the root of a PUBLISH. -/
  | publicationWalk (die : Nat)
  /-- RING_WAIT_GRANT (R301). A waiting ring word proceeds when its count condition holds. -/
  | ringWaitGrant (r : StrandRef)
  /-- TASK_DISPATCH (R307). A core with room takes a task from its deque by bypass and residency. -/
  | taskDispatch (core : Nat) (place : Place)
  /-- TASK_STEAL (R308). A core with no fitting task steals the oldest fitting entry of another deque. -/
  | taskSteal (core victim : Nat)
  /-- TASK_RETIRE (R305). A task's team and operations retire and its job count falls. -/
  | taskRetire (team : Nat)
  /-- UNIT_PLACEMENT (R381). The distributor places a grid's next team or cluster in curve order. -/
  | unitPlacement (grid : Nat) (places : List Place)
  /-- GRID_URGENT (R381). A grid whose next unit waited 1,048,576 cycles becomes urgent. -/
  | gridUrgent (grid : Nat)
  /-- GRID_END (R379). A grid whose teams and operations have retired ends and releases its frame. -/
  | gridEnd (grid : Nat)
  /-- TRAP_QUEUE_DRAIN (R223). Held trap records are written once CONS advances. -/
  | trapQueueDrain (ctx : Nat)
  /-- RESUME (R225). Farder resumes a parked strand at SPC. -/
  | resume (ctx seq : Nat) (opts : ResumeOpts)
  /-- RESUME_PUBLISH (R362). Walks the references of an escaped STREF, then resumes it. -/
  | resumePublish (ctx seq : Nat)
  /-- SKIP (R225). Farder resumes after the trapping word with no effect of it. -/
  | skip (ctx seq : Nat) (opts : ResumeOpts)
  /-- KILL (R225). The parked strand executes END. -/
  | kill (ctx seq : Nat)
  /-- KILLTEAM (R225). The team retires as if its C-stream had ended. -/
  | killteam (ctx seq : Nat)
  /-- BANK_SWITCH (R233). Stops the active bank and exchanges it with the shadow bank in 40 cycles. -/
  | bankSwitch (cores : List Nat)
  /-- SPILL_SAVE (R235). The spill engine writes the outgoing bank, windows and regions to the save arena. -/
  | spillSave (core : Nat)
  /-- SHADOW_LOAD (R235). The spill engine loads the next context into the shadow bank. -/
  | shadowLoad (core ctx image : Nat) (places : List (Nat × Place))
  /-- WINDOW_RESTORE (R235). The spill engine restores a row set of an incoming window. -/
  | windowRestore (team rowset : Nat)
  /-- STRIPE_WAKE (R178). A gated scratchpad stripe becomes ready 2,048 cycles after waking. -/
  | stripeWake (core stripe : Nat)
  /-- WAY_GATE (R293). The power manager gates a pair of L2 ways after write-back. -/
  | wayGate (slice pair : Nat)
  /-- WAY_WAKE (R293). A gated L2 way becomes usable 1,024 cycles after waking. -/
  | wayWake (slice pair : Nat)
  /-- COMPARATOR_WRITE (R230). A write to a comparator register takes effect after 8 cycles. -/
  | comparatorWrite (who : Requester) (core reg : Nat) (val : W64)
  /-- SEMA_READ (R396). A read of SEMA takes it if free. -/
  | semaRead (who : Requester)
  /-- SEMA_WRITE (R396). A write by the holder frees SEMA. -/
  | semaWrite (who : Requester)
  /-- REGISTER_WRITE (R396). A write to a hub register without a row of its own, guarded by SEMA. -/
  | registerWrite (who : Requester) (off : Nat) (val : W64)
  /-- SHCTL_FIRE (R400). Writing FIRE triggers Shutter. -/
  | shctlFire (who : Requester) (val : W64)
  /-- SHCTL_REARM (R400). Writing REARM clears LATCHED and MISS. -/
  | shctlRearm (who : Requester) (val : W64)
  /-- SHUTTER_LATCH (R400). Every block latches its snapshot 32 cycles after a trigger. -/
  | shutterLatch
  /-- HEARTBEAT (R398). A timely HEARTBEAT write makes the trial slot good. -/
  | heartbeat
  /-- HEARTBEAT_TIMEOUT (R398). Without a heartbeat in 60 s the package resets and boots the other slot. -/
  | heartbeatTimeout
  /-- PACKAGE_RESET (R397). The security controller verifies and boots a firmware slot or enters recovery. -/
  | packageReset
  /-- IMAGE_DOWNLOAD (R397). In recovery, an image is downloaded through a master port. -/
  | imageDownload (port : Nat) (scheduler : Bool) (slotB : Bool) (image : FwImage)
  /-- GET_VERSION (R399). SPDM version request. -/
  | getVersion (port : Nat)
  /-- GET_CAPABILITIES (R399). SPDM capabilities request. -/
  | getCapabilities (port : Nat)
  /-- NEGOTIATE_ALGORITHMS (R399). SPDM algorithm negotiation. -/
  | negotiateAlgorithms (port : Nat)
  /-- GET_DIGESTS (R399). SPDM certificate digest request. -/
  | getDigests (port : Nat)
  /-- GET_CERTIFICATE (R399). SPDM certificate request. -/
  | getCertificate (port : Nat)
  /-- CHALLENGE (R399). SPDM challenge. -/
  | challenge (port nonce : Nat)
  /-- GET_MEASUREMENTS (R399). SPDM measurement request. -/
  | getMeasurements (port index : Nat)
  /-- PORT_LINK_DOWN (R396). A master port's link goes down, freeing SEMA if held. -/
  | portLinkDown (port : Nat)
  /-- POWER_HOLDOFF (R402). Power above the cap over 1 ms inserts holdoff cycles. -/
  | powerHoldoff (cycles : Nat)
  /-- THERMAL_TRIP (R402). At 110 degrees C every strand stops with machine-check and core rails are removed. -/
  | thermalTrip
  /-- L2_ECC_ERROR (R311). An L2 error is corrected, refetched or poisons the sector. -/
  | l2EccError (pa : Nat) (dirty : Bool) (kind : ErrorKind)
  /-- HBM_ECC_ERROR (R315). An HBM error is corrected or poisons the sector. -/
  | hbmEccError (pa : Nat) (kind : ErrorKind)
  /-- PATROL_SCRUB (R315). The scrubber reads and corrects each word once per 24 hours. -/
  | patrolScrub (pa : Nat) (kind : ErrorKind)
  /-- DIE_LINK_CRC_ERROR (R312). A die-link flit fails its CRC and is retried, the link going down after 64 retries. -/
  | dieLinkCrcError (link : Nat) (ops : List (Nat × Nat))
  /-- FABRIC_LINK_RETRY_LIMIT (R418). A fabric link over its retry limit is removed and operations retried end to end. -/
  | fabricLinkRetryLimit (link : Nat)
  /-- REMOTE_OPERATION (R416). An incoming fabric put, get, atomic or signal is performed at its home slice. -/
  | remoteOperation (op : RemoteOp)
  /-- REMOTE_ENQUEUE_REQUEST (R415). A target package checks, allocates and pushes an enqueued task, or refuses it. -/
  | remoteEnqueueRequest (group : W32) (addr arg : W64) (origin : Option (Nat × Nat)) (core : Nat)
  /-- REMOTE_TASK_COMPLETION (R415). The origin receives a completion or refusal and decrements the job count. -/
  | remoteTaskCompletion (team op : Nat) (refused killed : Bool)
  /-- FABRIC_OPERATION_COMPLETE (R413). A fabric word reaches its retirement point. -/
  | fabricOperationComplete (team op : Nat) (result : FabricResult)
  /-- COLL_JOIN_TIMEOUT (R418). A collective whose members have not joined in 2^31 cycles faults. -/
  | collJoinTimeout (team op : Nat)
  /-- ROOT_LAUNCH (R367). Farder's launch service starts a level-0 root grid. -/
  | rootLaunch (ctx : Nat) (desc : W64)
  /-- CONTEXT_CREATE (R387). Farder creates a compute context from a control program's satp. -/
  | contextCreate (ctx : Nat) (plan : ContextPlan)
  /-- BUNDLE_LOAD (R393). Farder loads a Zogal bundle and builds kernel records. -/
  | bundleLoad (ctx : Nat) (version isa : Nat) (images : List KernelImage)
  /-- PAGE_FAULT_SERVICE (R388). Farder resolves a page fault of a hart or strand once per page. -/
  | pageFaultService (ctx : Nat) (vpn : Nat) (ptes : List PteWrite) (copy : Option (Nat × Nat))
  /-- EXTENT_REVOKE (R205). Farder revokes an extent after resolved accesses complete. -/
  | extentRevoke (team index : Nat)
  /-- SHOOTDOWN (R389). Invalidates translations of a range on every hart and core. -/
  | shootdown (ctx : Nat) (base : W64) (len : Nat)
  /-- FABRIC_GROUP_ATTACH (R406). Farder attaches a context to a fabric group. -/
  | fabricGroupAttach (ctx : Nat) (group : Option W32)
  /-- FABRIC_WINDOW_REGISTER (R407). Farder registers and pins a fabric window. -/
  | fabricWindowRegister (ctx : Nat) (base : W64) (len : Nat) (perms : BitVec 3)
  /-- NULL (R392). Farder call 0, returning 0. -/
  | null (r : StrandRef)
  /-- LOG (R392). Appends bytes to the context's log. -/
  | log (r : StrandRef)
  /-- TIME (R392). Returns nanoseconds since package reset. -/
  | time (r : StrandRef)
  /-- MAP (R392). Creates a new zeroed mapping. -/
  | map (r : StrandRef) (base : W64) (ptes : List PteWrite)
  /-- UNMAP (R392). Removes a mapping after shootdown. -/
  | unmap (r : StrandRef) (ptes : List PteWrite)
  /-- PROTECT (R392). Changes a mapping's permissions after shootdown. -/
  | protect (r : StrandRef) (ptes : List PteWrite)
  /-- HANDLER (R392). Designates the handler grid. -/
  | handler (r : StrandRef)
  /-- RESUMEREC (R392). Applies a resume action to a trap record. -/
  | resumerec (r : StrandRef)
  /-- SETBYPASS (R392). Sets the context's dispatch BYPASS. -/
  | setbypass (r : StrandRef)
  /-- NOTIFY (R392). Passes a value to the control program. -/
  | notify (r : StrandRef)
  /-- EXIT (R392). Kills every grid of the context. -/
  | exit (r : StrandRef)
  /-- SCRATCHPAD_ACCESS_PERFORM (R177). A scratchpad store, atomic or compare-and-swap is performed at its bank, becoming visible to engines and LDSC and counting towards WAITS. -/
  | scratchpadAccessPerform (team op lane : Nat)
  /-- SRAM_ECC_ERROR (R403). An error in a core SRAM (registers, scratchpad, L1, instruction store) is corrected, causes a refetch, or stops the strand with a machine-check. -/
  | sramEccError (r : Option StrandRef) (lanes : Mask) (kind : ErrorKind)
  /-- FABRIC_FLIT_CRC_ERROR (R405). A fabric flit fails its link CRC and is replayed from the sender's buffer until acknowledged. -/
  | fabricFlitCrcError (link : Nat)
  /-- PORT_LINK_UP (R395). A master port's PCIe link comes up and trains to a rate and width, after which the port may again contend for SEMA and serve MCTP. -/
  | portLinkUp (port rate width : Nat)
  /-- FABRIC_WINDOW_REMOVE (R407). Farder removes a registered fabric window after quiescing incoming operations, unpinning it so that later remote accesses fault. -/
  | fabricWindowRemove (ctx index : Nat)
deriving DecidableEq, Repr

end Sys2Proof
end

