-- ==== Sys2Proof/Machine/State.lean ====
section
/-! DEFINITION. The state of the package as plain data: everything the spec gives the machine, and the state after reset. -/

namespace Sys2Proof.Machine

/-- STATE of a strand (01 Table 1-1). -/
inductive StrandState where
  | free
  | running
  | suspended
  | waiting
  | parked
  | blocked
deriving DecidableEq, Repr

/-- Where one lane's address lies: global memory, or a team's scratchpad window (09 R180). -/
inductive Space where
  | global
  | window (team off : Nat)
deriving DecidableEq, Repr

/-- What a BLOCKED strand waits for (01 R16), or `yield` for a running one that yields (05 R110). `again` is a word that is tried again when its strand has a turn; `drain` and `fence` are
WAITS and FENCE, tried again, with the first operation that does not concern them (08 R177, 09 R192). `push` is a SPAWN
whose task finds every deque full, `job` a JOBWAIT on the record at a place (17 R304, R306). -/
inductive Wait where
  | nothing
  | yield
  | push (grid : Nat)
  | job (at_ : Space) (pa : Nat)
  | again
  | drain (before : Nat)
  | fence (before : Nat)
  | tbar (n : Nat)
  | cbar
  | register
  | mrsv
  | ring
  | farder (n : Nat)
deriving DecidableEq, Repr

/-- The actions of the resume service (11 R225, 19 R362). -/
inductive ResumeAct where
  | resume
  | publish
  | skip
  | kill
  | killteam
deriving DecidableEq, Repr

/-- A strand: a split-table record, or the root strand in its stream's state (01 R19, Table 1-1; 04 R87). -/
structure Strand where
  st      : StrandState
  team    : Nat
  strm    : StreamId
  parent  : Option Nat                -- PIDX, or none for PROOT
  pc      : W64
  jpc     : W64
  mask    : Mask                      -- GMASK and LMASK (R11)
  cnt     : Nat
  wm      : Nat
  wait    : Wait
  yieldLeft : Nat                     -- cycles left of a YIELD (05 R110)
  step    : Bool
  freeze  : Bool                      -- 11 R231
  urgent  : Bool
  readyAt : Nat                       -- 01 R17
  checked : Nat                       -- words of the bundle at pc that have passed R39
  bundlePc : W64                      -- first word of the bundle being executed (R39)
  skipAt  : Option W64                -- word that takes no effect when it is reached (11 R225 SKIP)
  after   : Option W64                -- where the strand goes on after the word at pc (09 R211)
  windows : List (Nat × Nat)          -- lookahead windows: operation, words still allowed (02 R42)
  supp    : List (Nat × W64)          -- comparators suppressed for one execution of the word at an address (11 R225)
  stepDue : Bool                      -- a bundle has ended under STEP: the strand stops before its next word (11 R231)
  act     : Option ResumeAct          -- taken on the strand's oldest record, in force once its last one is resolved (11 R217)
  replay  : Option Nat                -- the access whose unfinished lanes the word at pc executes again (09 R210)
  mcheck  : Bool                      -- the action KILL was named on a machine-check's record (17 R305)
  early   : List (W64 × Nat)          -- group passes that words from pc on have taken ahead of the rest (01 R15): word, group
deriving DecidableEq, Repr

/-- A free record (01 Table 1-1: every field resets to 0). -/
def Strand.free : Strand :=
  { st := .free, team := 0, strm := .c, parent := none, pc := 0, jpc := 0, mask := 0, cnt := 0, wm := 0,
    wait := .nothing, yieldLeft := 0, step := false, freeze := false, urgent := false, readyAt := 0,
    checked := 0, bundlePc := 0, skipAt := none, after := none, windows := [], supp := [], stepDue := false,
    act := none, replay := none, mcheck := false, early := [] }

/-- A Farder call in progress: the strand's identity and the call number (23 R391). -/
structure FarderCall where
  sid : Option Nat
  n   : Nat
deriving DecidableEq, Repr

/-- One instruction stream of a team (01 R12). -/
structure Stream where
  present  : Bool
  ended    : Bool
  sregs    : SMap W64                 -- s0 to s63
  srefs    : SMap Unit                -- scalars that hold the REF tag
  xregs    : SMap (BitVec 16)         -- x0 to x3
  fpmode   : W64
  fpflags  : BitVec 5                 -- NV DZ OF UF NX (03 Table 3-8)
  counters : SMap Nat                 -- COPY MATRIX EPH PUB FAB (09 R193)
  last     : W64                      -- stamp of the latest SC operation (18 R324)
  root     : Strand
  calls    : List FarderCall
  wmZero   : Bool                     -- the C root's WM becomes 0 when it next runs (04 R87)
deriving DecidableEq, Repr

/-- A stream that a team does not have. -/
def Stream.absent : Stream :=
  { present := false, ended := false, sregs := [], srefs := [], xregs := [], fpmode := 0, fpflags := 0,
    counters := [], last := 0, root := Strand.free, calls := [], wmZero := false }

/-- An entry of a lane's queue: its value once filled, its tag, the access that will fill it, whether it is discarded when its
value arrives (08 R158, R159, R164). -/
structure QEntry where
  val  : Option W32
  tag  : BitVec 4
  op   : Nat
  drop : Bool
  at_  : Nat := 0
deriving DecidableEq, Repr

/-- An entry of a team's overflow stack (01 R20). -/
structure OvfEntry where
  owner   : Option Nat
  strm    : StreamId
  running : Bool                      -- PHASE
  pc      : W64
  dmask   : Mask
  amask   : Mask
  join    : Option W64
  wmark   : Nat
  pwm     : Nat
  barr    : Option Nat                -- 0 to 15, or 16 for the cluster barrier
deriving DecidableEq, Repr

/-- An entry of a team's span table (19 R343). -/
structure Span where
  base : W64
  next : W64
  priv : BitVec 2048
deriving DecidableEq, Repr

/-- An extent (09 R203). -/
structure Extent where
  va    : Nat
  len   : Nat
  pa    : Nat
  r     : Bool
  w     : Bool
  valid : Bool
deriving DecidableEq, Repr

/-- What an access does at its home (09 R187, R189, 08 R173 to R175, 19 R353). -/
inductive AccKind where
  | load
  | store
  | atomic (fn : Nat)
  | cas
  | loadRef
  | storeRef
deriving DecidableEq, Repr

/-- How far one lane of an access has come (09 R209, R210). A failed lane met a trap of another cause after issue (17 R311, 19 R354). -/
inductive LaneState where
  | toTranslate
  | ready (pa : Nat)
  | unfinished (detail : Nat)
  | failed (cause : Nat) (addr : W64)
  | performed
  | done
deriving DecidableEq, Repr

/-- One lane of an outstanding access: its address, its operands, its result, the queue entries that it popped, its physical address once
translated, the core clock that an SC operation was sent with (18 R324), and whether a translation was predicted for it, with what it read
there (09 R207). -/
structure LaneAcc where
  lane : Nat
  e    : W64
  at_  : Space
  st   : LaneState
  data : W64
  cmp  : W64
  res  : W64
  tag  : Bool
  pops : List (Nat × QEntry)
  pa   : Option Nat := Option.none
  sent : Option W64 := Option.none
  pred : Option (Nat × Option W64) := Option.none
deriving DecidableEq, Repr

/-- Where the results of an access go. -/
inductive Dest where
  | nowhere
  | regs (r n : Nat) (tag : Option (BitVec 4))   -- n registers from r; the tag they take, if it changes
  | refPair (r : Nat) (held : List Nat)          -- LDREF; the groups in which the pair held REF before (19 R353)
  | queue (q : Nat)
  | scalar (d : Nat)
deriving DecidableEq, Repr

/-- An access that a word has issued and that is not complete in every lane (09 R209; 08 R177). -/
structure AccessOp where
  id     : Nat
  strm   : StreamId
  sid    : Option Nat
  pc     : W64
  mask   : Mask
  kind   : AccKind
  size   : Nat
  ord    : Nat
  scope  : Nat
  policy : W32
  dest   : Dest
  coal   : Bool                       -- its full groups are coalesced (18 R323)
  once   : Bool                       -- equal addresses receive one read (09 R188)
  one    : Bool                       -- a scalar form: one access for the strand (19 R352)
  parked : Bool
  lanes  : List LaneAcc
  spad   : Bool := false              -- a scratchpad or cluster word (11 R228)
  la     : Nat := 0                   -- its lookahead field (02 R42)
deriving DecidableEq, Repr

/-- The A latch of a reservation (13 R255): group, first register, the tag, and the registers' values by 32 × register + row. -/
structure Latch where
  group : Nat
  va    : Nat
  tag   : BitVec 4
  regs  : SMap W32
deriving DecidableEq, Repr

/-- A team's matrix reservation (13 R242, R243). -/
structure Resv where
  n      : Nat
  kinds  : SMap Nat                   -- 0 F32, 1 I32, 2 F64
  latch  : Option Latch
  urgent : Bool
  headAt : Nat                        -- cycle at which the head operation became head (R247)
deriving DecidableEq, Repr

/-- A generator context (14 R268, Table 14-1): its team-relative number, its name in the model, and whether the team has released it
while operations still name it (R269). -/
structure GenCtx where
  no    : Nat
  uid   : Nat
  rel   : Bool
  hdr   : W64
  st    : Nat                         -- 0 EMPTY, 1 READY, 2 ERROR
  err   : Nat
  errw  : Nat
  nw    : Nat
  inv   : Bool
  words : List W32
deriving DecidableEq, Repr

/-- An EMPTY generator context. -/
def GenCtx.empty (no uid : Nat) : GenCtx :=
  { no := no, uid := uid, rel := false, hdr := 0, st := 0, err := 0, errw := 0, nw := 0, inv := false, words := [] }

/-- An engine operation with the operands that were read as its word issued. `held` of a product with a RAW A says how many registers from va
on were mapped, and how many of them RAW, as the word issued (13 R250, R253). -/
inductive EngKind where
  | mzero (tile kind : Nat)
  | mma   (sparse keep : Bool) (tile group : Nat) (tag : BitVec 4) (va : Nat) (a : SMap W32) (num coord : W64) (gc : Nat) (held : Nat × Nat)
  | mrd   (tile kind group va j : Nat)
  | msta  (tile kind group rnd : Nat) (sat : Bool) (num coord : W64)
  | mqnt  (group rnd : Nat) (num coord dnum dcoord : W64)
  | mpair (send : Bool) (tile kind group pd : Nat) (partner tag : W32) (data : List W32)
  | cpy   (dst src : W64) (len : Nat) (policy : W32)
  | cpyt  (dnum dtile snum stile size : W64) (policy : W32)
  | tpref (num tile size : W64) (policy : W32)
  | tflush (num tile size : W64)
  | epld  (gc : Nat) (hdr : W64) (words : List W32)
  | epgen (inverse : Bool) (gc dst : Nat) (spec : W64)
  | epstat (gc : Option Nat) (view : Bool) (sd : Nat)
  | publish (root slot : W64)
  | repub (ctx rank : Nat) (opts : ResumeOpts)   -- the walks of a RESUME with PUBLISH on a record (19 R362)
  | fabric (fn : Nat) (o0 o1 o2 o3 o4 : W64)
deriving DecidableEq, Repr

/-- How far an engine operation has come (09 R193). -/
inductive EngStage where
  | issued
  | accepted
  | granted
  | done
deriving DecidableEq, Repr

/-- A fault that a unit found after acceptance (11 R216). -/
structure UnitFault where
  cause  : Nat
  detail : Nat
  code   : Nat
  addr   : W64
deriving DecidableEq, Repr

/-- An engine operation of a team (09 R193, 13 R246, 14 R282). -/
structure EngOp where
  id    : Nat
  strm  : StreamId
  sid   : Option Nat
  pc    : W64
  mask  : Mask
  cls   : Nat                         -- 0 COPY, 1 MATRIX, 2 EPH, 3 PUB, 4 FAB, 5 not counted
  kind  : EngKind
  stage : EngStage
  since : Nat                         -- cycle of acceptance
  cats  : List (BitVec 512)           -- Catalogue entries read at acceptance (09 R202)
  fault : Option UnitFault            -- what it retires with, if it faults (11 R216)
  buffer : Option Nat                 -- the quad whose pair buffer holds a waiting SEND (13 R262)
  parts  : List Nat := []             -- writes that it has performed ahead of its completion, by place (14 R280; 18 R327)
deriving DecidableEq, Repr

/-- A deferred trap that has not yet stopped its strand (11 R216). -/
structure DeferredTrap where
  strm  : StreamId
  mask  : Mask
  pc    : W64
  fault : UnitFault
deriving DecidableEq, Repr

/-- Where a team is held (11 R233). -/
inductive Held where
  | active
  | shadow
  | saved
deriving DecidableEq, Repr

/-- A team (01 R9 to R13, R20; 04 R77, R87; 05 R114; 08 R158, R170; 19 R341, R343; 20 R366, R376). -/
structure Team where
  live    : Bool
  retiring : Bool                     -- the C-stream has ended, engine operations are outstanding (01 R29)
  killed  : Bool
  held    : Held
  ctx     : Nat
  grid    : Nat
  core    : Nat
  slot    : Nat
  cluster : List Nat                  -- the cluster's teams by rank (13 R240)
  crank   : Nat
  prio    : Nat
  lanes   : Nat
  level   : Nat
  lw      : Bool
  roles   : List (BitVec 4)
  tidx    : Nat × Nat × Nat
  gdim    : Nat × Nat × Nat
  cb      : W64
  ce      : W64
  displays : SMap W64                 -- d0 to d7
  frameSizes : SMap Nat               -- FS0 to FS7
  stamp   : W64
  record  : Nat                       -- physical address of the team record (20 R378)
  extents : List Extent
  vregs   : SMap W32                  -- by 1024 × register + lane
  vtags   : SMap (BitVec 4)           -- by 64 × register + group, default RAW
  preds   : SMap Mask                 -- p1 to p7
  queues  : SMap (List QEntry)        -- by 8 × lane + queue, oldest first
  qtags   : SMap (BitVec 4)           -- default RAW
  gens    : SMap W64                  -- stochastic generators by lane
  heldBlocks : Nat
  pool    : Nat
  ovf     : List OvfEntry             -- most recently pushed first
  w       : Nat                       -- window bytes
  spBase  : Nat
  win     : SMap Byte
  winTags : SMap Unit                 -- by offset ÷ 8
  unrestored : List Nat               -- row sets not yet restored (11 R235)
  spans   : List Span
  current : Option W64                -- the base of the current span
  accs    : List AccessOp             -- oldest first
  engs    : List EngOp                -- oldest first
  deferred : List DeferredTrap
  resv    : Option Resv
  acc     : SMap W32                  -- accumulators by 8192 × tile + 256 × row + column
  gcs     : List GenCtx
  chain   : Option Nat                -- the team's latest ordered grid (20 R380)
  cs      : Stream
  as      : Stream
deriving DecidableEq, Repr

/-- A name that no team bears. -/
def Team.none : Team :=
  { live := false, retiring := false, killed := false, held := .active, ctx := 0, grid := 0, core := 0, slot := 0,
    cluster := [], crank := 0, prio := 0, lanes := 0, level := 0, lw := false, roles := [], tidx := (0, 0, 0),
    gdim := (0, 0, 0), cb := 0, ce := 0, displays := [], frameSizes := [], stamp := 0, record := 0, extents := [],
    vregs := [], vtags := [], preds := [], queues := [], qtags := [], gens := [], heldBlocks := 0, pool := 0, ovf := [],
    w := 0, spBase := 0, win := [], winTags := [], unrestored := [], spans := [], current := Option.none, accs := [],
    engs := [], deferred := [], resv := Option.none, acc := [], gcs := [], chain := Option.none, cs := Stream.absent, as := Stream.absent }

/-- A register request that waits (04 R89, R91). -/
structure RegReq where
  r     : StrandRef
  claim : Bool
  pd    : BitVec 3
  n     : Nat
deriving DecidableEq, Repr

/-- A bank of a core (08 R155). -/
structure Bank where
  ctx    : Option Nat
  loaded : Bool
  split  : SMap Strand                -- 256 records
  pool   : Nat                        -- free group-blocks
  slots  : SMap Nat                   -- team slots in use: slot to team
  reqs   : List RegReq                -- oldest first
  dSince : Option Nat                 -- cycle since which condition D holds (04 R92)
deriving DecidableEq, Repr

/-- An empty bank (04 R86). -/
def Bank.empty : Bank :=
  { ctx := none, loaded := true, split := [], pool := Config.poolBlocks, slots := [], reqs := [], dSince := none }

/-- The four registers of a debug comparator (11 R227). -/
structure CmpRegs where
  ctl  : W64
  lo   : W64
  hi   : W64
  qual : W64
deriving DecidableEq, Repr

/-- A debug comparator: its registers, and the settings that writes have replaced, each with the cycle of its write, which words may still
meet (11 R230). -/
structure Comparator where
  regs : CmpRegs
  olds : List (CmpRegs × Nat)
deriving DecidableEq, Repr

/-- A comparator after reset (11 Table 11-3). -/
def Comparator.reset : Comparator := { regs := { ctl := 0, lo := 0, hi := 0, qual := 0 }, olds := [] }

/-- A TLB entry (09 R206, R207). -/
structure TlbEntry where
  ctx   : Nat
  vpn   : Nat                         -- virtual page number at its size
  level : Nat                         -- 0 4 KiB, 1 2 MiB, 2 1 GiB, 3 512 GiB
  pa    : Nat                         -- physical base
  r     : Bool
  w     : Bool
  d     : Bool
  contig : Bool
deriving DecidableEq, Repr

/-- A line of an L1D: 128 bytes and their 16 reference tags (18 R317, 19 R346), the class of the latest access to it and how recent that
was (09 R183). -/
structure L1Line where
  data : BitVec 1024
  tags : BitVec 16
  cls  : Nat := 1
  used : Nat := 0
deriving DecidableEq, Repr

/-- A packet in an L1I, with the physical lines that it was filled from (17 R294). -/
structure PacketLine where
  bits  : BitVec 96
  lines : List Nat
deriving DecidableEq, Repr

/-- A line of a die's shared instruction store, with the cores that hold packets of it (17 R294). -/
structure StoreLine where
  data  : BitVec 1024
  cores : List Nat
deriving DecidableEq, Repr

/-- A task in a deque: the grid that holds its values, and its bypass count (17 R304, R307). -/
structure Task where
  grid   : Nat
  bypass : Nat
deriving DecidableEq, Repr

/-- A trap record with its full mask (11 Table 11-1, R218), and the model's own: its strand (team 0 where it stopped none), the access that
met it, the team's lanes, its place in the order of detection, the cycle of detection, the operations that its record waits for (11 R222), whether it goes to
Farder alone (11 R224), an action that waits for its team's return (11 R225), whether Farder has been told that the queue was full as
the core would have written it (11 R223), and the options that Farder has set for a RESUME with PUBLISH (19 R362). -/
structure TrapRec where
  cause  : Nat
  detail : Nat
  code   : Nat
  strm   : StreamId
  defer  : Bool
  lw     : Bool
  ctxid  : Nat
  gridid : W64
  tidx   : Nat × Nat × Nat
  sid9   : Nat
  core   : Nat
  slot   : Nat
  seq    : Nat
  pc     : W64
  spc    : W64
  addr   : W64
  mask   : Mask
  team   : Nat
  sid    : Option Nat
  op     : Option Nat
  lanes  : Nat
  rank   : Nat
  before : Nat
  cycle  : Nat
  own    : Bool
  todo   : Option (ResumeAct × ResumeOpts)
  told   : Bool := false
  opts   : ResumeOpts := { step := false, freeze := false }
deriving DecidableEq, Repr

/-- A core (08 R155). -/
structure Core where
  active   : Bank
  shadow   : Bank
  lclock   : W64
  l1d      : SMap L1Line              -- by physical address ÷ 128
  l1i      : SMap PacketLine          -- packets, by 2^48 × context + address
  tlb      : List TlbEntry
  cat      : SMap Unit                -- Catalogue numbers cached, by 4096 × context + number
  cmps     : SMap Comparator
  stripes  : SMap Nat                 -- 0 gated, 1 awake, c + 2 waking since cycle c (08 R178)
  deque    : List Task                -- oldest first
  leaving  : List Nat                 -- retired teams whose operations still use their windows (01 R29)
  saving   : Bool                     -- the shadow bank is not yet written to the arena (11 R235)
  refuses  : Bool                     -- a save-area fault holds further switches (11 R237)
  readyAt  : Nat                      -- end of the latest exchange of the banks (11 R233)
  tlbMisses : Nat
  l1dMisses : Nat
  busyC    : Nat                      -- the cycle at which the C front end can issue again (01 R17)
  busyA    : Nat
deriving DecidableEq, Repr

/-- A core after reset. -/
def Core.reset : Core :=
  { active := Bank.empty, shadow := Bank.empty, lclock := 0, l1d := [], l1i := [], tlb := [], cat := [], cmps := [],
    stripes := [], deque := [], leaving := [], saving := false, refuses := false, readyAt := 0, tlbMisses := 0, l1dMisses := 0,
    busyC := 0, busyA := 0 }

/-- A waiting MRSV (13 R243). -/
structure MrsvReq where
  r  : StrandRef
  pd : BitVec 3
  n  : Nat
  waited : Nat
deriving DecidableEq, Repr

/-- A quad (13 R239, 14 R268). -/
structure Quad where
  tiles    : Nat
  entries  : Nat
  contexts : Nat
  waits    : List MrsvReq
  pairs    : Nat                      -- pair-buffer entries in use
  acqAt    : Option (Nat × Nat)       -- the latest EPCTX.ACQ: its cycle, and its team's place in the order of 14 R269
deriving DecidableEq, Repr

/-- A quad after reset: everything free. -/
def Quad.reset : Quad :=
  { tiles := Config.quadTiles, entries := Config.quadEntries, contexts := Config.quadContexts, waits := [], pairs := 0, acqAt := none }

/-- A window on the fabric (24 R407). -/
structure FabWindow where
  va    : Nat
  len   : Nat
  perms : BitVec 3                    -- R, W, A
deriving DecidableEq, Repr

/-- A bank in the save arena (11 R235, R236). -/
structure SavedBank where
  image : Nat                         -- the core image it lies in
  bank  : Bank
deriving DecidableEq, Repr

/-- A compute context (23 R387). -/
structure Context where
  live     : Bool
  satpRoot : Nat
  cat      : SMap (BitVec 512)        -- the Catalogue table (09 R197)
  trapqVa  : W64
  trapqPages : List Nat               -- physical bases of the queue's pages (11 R220)
  trapqN   : Nat
  walkVa   : W64                      -- the walk area (19 R358)
  recs     : List TrapRec             -- records Farder has not yet acted on, by SEQ
  handler  : Option Nat               -- handler grid (11 R224)
  bypass   : Nat                      -- 17 R307
  notifyHart : Nat
  saveVa   : W64                      -- the save arena (11 R236)
  frameVa  : W64
  framePa  : Nat
  frameSize : Nat
  frames   : SMap Nat                 -- allocated blocks of the frame arena: offset to size
  heapVa   : W64
  heapSize : Nat
  arenas   : SMap Nat                 -- allocated heap arenas: offset to size
  log      : List Byte
  notified : List W64
  exited   : Option W64
  group    : Option W32               -- fabric group (24 R406)
  windows  : List FabWindow
  saved    : List SavedBank
deriving DecidableEq, Repr

/-- A context that does not exist. -/
def Context.none : Context :=
  { live := false, satpRoot := 0, cat := [], trapqVa := 0, trapqPages := [], trapqN := 64, walkVa := 0, recs := [], handler := Option.none,
    bypass := 8, notifyHart := 0, saveVa := 0, frameVa := 0, framePa := 0, frameSize := 0, frames := [],
    heapVa := 0, heapSize := 0, arenas := [], log := [], notified := [], exited := Option.none, group := Option.none,
    windows := [], saved := [] }

/-- The values of a launch descriptor (20 Table 20-3), with its range records and curve table. -/
structure Launch where
  krec    : W64
  gdim    : Nat × Nat × Nat
  clus    : Nat
  ordered : Bool
  prio    : Nat
  curve   : Nat
  ctab    : List Byte
  hspans  : Nat
  rtile   : W64
  ranges  : List Extent               -- declared ranges; the physical base is not yet known
deriving DecidableEq, Repr

/-- A grid, or a task as a grid of one team (20 R374, R379; 17 R304). -/
structure Grid where
  live     : Bool
  ended    : Bool
  ctx      : Nat
  id       : W64                      -- GRIDID
  level    : Nat
  kernel   : Kernel
  launch   : Launch
  frame    : W64                      -- virtual address of the frame header
  frameSize : Nat
  displays : SMap W64
  frameSizes : SMap Nat
  launcher : Option Nat               -- the team that launched it
  record   : Nat                      -- physical address of that team's record (20 R378)
  task     : Bool                     -- a task of SPAWN or RENQ (17 R304, 24 R415)
  job      : Option (Space × Nat)     -- where the job record of a task lies (17 R303)
  remote   : Option (Nat × Nat)       -- RENQ: the origin's team and operation on this package (24 R415)
  handed   : Bool                     -- handed to the distributor (20 R374)
  turn     : Nat                      -- order of hand-over (20 R381)
  pred     : Option Nat               -- the ordered predecessor
  placed   : Nat                      -- units placed
  retired  : Nat                      -- teams retired
  killed   : Bool
  since    : Nat                      -- cycle since which its next unit waits (20 R381)
  urgent   : Bool
deriving DecidableEq, Repr

/-- A kernel with no values. -/
def Kernel.none : Kernel :=
  { centry := 0, aentry := 0, cb := 0, ce := 0, spda := 0, spdn := 0, lanes := 0, level := 0, lw := false, regs := 0,
    spad := 0, frame := 0, roles := [] }

/-- A descriptor with no values. -/
def Launch.none : Launch :=
  { krec := 0, gdim := (0, 0, 0), clus := 0, ordered := false, prio := 0, curve := 0, ctab := [], hspans := 0, rtile := 0,
    ranges := [] }

/-- A grid that does not exist. -/
def Grid.none : Grid :=
  { live := false, ended := false, ctx := 0, id := 0, level := 0, kernel := Kernel.none, launch := Launch.none, frame := 0,
    frameSize := 0, displays := [], frameSizes := [], launcher := Option.none, record := 0, task := false, job := Option.none, remote := Option.none,
    handed := false, turn := 0, pred := Option.none, placed := 0, retired := 0, killed := false, since := 0, urgent := false }

/-- A line of an L2 slice: linear (address ÷ 256) or a tile of a tensor (17 R289); its sectors, class and way. -/
structure L2Line where
  slice : Nat
  tile  : Option (Nat × Nat × Nat × Nat)   -- context, number, tile row, tile column
  line  : Nat
  sec0  : Bool
  sec1  : Bool
  cls   : Nat
  way   : Nat
  runs  : List (Nat × Nat)            -- a tile's bytes: physical addresses with their lengths
  used  : Nat := 0                    -- how recent the latest access is (09 R183)
deriving DecidableEq, Repr

/-- A ring word that waits (17 R301). -/
structure RingWait where
  r    : StrandRef
  fn   : Nat                          -- 5 RCLAIM, 6 RCOMMIT, 7 RAWAIT, 8 RRETIRE
  hdr  : W64
  at_  : Space
  pa   : Nat
  sd   : Nat
  g    : W64
  n    : W64
  before : Nat                        -- accesses that its RELEASE covers: those older than this operation
deriving DecidableEq, Repr

/-- A remote enqueue that this package has sent and that its job still counts (24 R415): the issuing team and operation, the job record,
the package it went to, the task where that is this package, and whether that task has ended, killed or not. -/
structure RemoteTask where
  team  : Nat
  op    : Nat
  at_   : Space
  pa    : Nat
  pkg   : Nat
  grid  : Option Nat
  ended : Option Bool
deriving DecidableEq, Repr

/-- A core's snapshot (23 R400): root PCs and STATE counts per team slot, the counters of each stream, queue occupancies,
and the TLB and L1D miss counts. -/
structure Snapshot where
  core      : Nat
  cycle     : Nat
  rootPcs   : List (Nat × W64 × W64)
  states    : List (Nat × List Nat)
  counters  : List (Nat × List Nat)
  occupancy : List (Nat × List Nat)
  tlbMisses : Nat
  l1dMisses : Nat
deriving DecidableEq, Repr

/-- A message of the SPDM responder (23 R399): the request answered, and what the answer carries. -/
structure SpdmReply where
  port    : Nat
  request : Nat
  digests : List (BitVec 512)
  bytes   : List (BitVec 4096)
deriving DecidableEq, Repr

/-- A control-core hart (23 R384): an RV64GC core with its registers, mode, CSRs, program counter, reservation and translations. The spec
does not give its instruction set; what one of its instructions does to this state is the hart's act (log 33). -/
structure Hart where
  xregs : SMap W64
  fregs : SMap W64
  pc    : W64
  mode  : Nat                         -- 0 U, 1 S, 3 M
  csrs  : SMap W64
  resv  : Option (Nat × Nat × Nat)    -- an LR's reservation: address, size, and the value read
  tlb   : List TlbEntry
deriving DecidableEq, Repr

/-- A hart after reset: in M mode (log 33). -/
def Hart.reset : Hart := { xregs := [], fregs := [], pc := 0, mode := 3, csrs := [], resv := none, tlb := [] }

/-- The hub die (23 R384 to R402). -/
structure Hub where
  semaHeld   : Bool
  semaHolder : Requester
  semaRead   : W64                    -- what the latest read of SEMA returned
  semaAt     : Option (Nat × Nat)     -- the latest read: its cycle, and its reader's place in the order of R396
  shCause    : BitVec 8
  shMiss     : Nat
  shLatched  : Bool
  shSrc      : Nat
  shEtrap    : Bool
  shEcmp     : Bool
  shPending  : Option Nat             -- cycle of a trigger whose snapshot is not yet latched
  snaps      : List Snapshot
  farder     : FwImage × FwImage      -- slots A and B
  sched      : FwImage × FwImage
  farderB    : Bool                   -- the active slot is B
  schedB     : Bool
  farderNext : Bool                   -- the slots that the next boot tries first are B
  schedNext  : Bool
  slotFailed : Bool × Bool            -- Farder's slots marked failed
  slotGood   : Bool × Bool
  trial      : Bool
  booted     : Bool
  recovery   : Bool
  svnMin     : Nat
  leftReset  : Nat                    -- cycle at which the harts left reset
  powerCap   : W64
  railsOn    : Bool
  holdoff    : Nat                    -- holdoff cycles inserted so far
  portUp     : Bool × Bool
  portRate   : (Nat × Nat) × (Nat × Nat)
  spdm       : SMap Nat               -- per port: how far version, capabilities and algorithms are agreed
  replies    : List SpdmReply
  errors     : Nat                    -- corrected errors counted for the management logic
  errLog     : List (Nat × Nat)       -- management error log: kind, place
  plic       : List (Nat × Nat)       -- sources raised: hart, context
  sysq       : List (Nat × Nat)       -- save-area records in Farder's system queue: context, core
  fired      : List Nat               -- cycles at which Farder was told that a trap queue is full
  harts      : SMap Hart              -- the 16 harts
  plicEn     : SMap Unit              -- sources enabled, by 1,024 × hart + source
  portRead   : W64 × W64              -- what the latest read through BAR0 of each port returned (R385)
  told       : List (Nat × Nat)       -- other notices to Farder or the ports: kind, place (17 R312, 23 R402)
deriving DecidableEq, Repr

/-- The image that a part with nothing downloaded holds in a slot. -/
def noImage : FwImage := { signed := false, svn := 0, measure := 0 }

/-- The hub after reset (23 Tables 23-4, 23-5). -/
def Hub.reset : Hub :=
  { semaHeld := false, semaHolder := .port0, semaRead := 0, semaAt := none, shCause := 0, shMiss := 0, shLatched := false, shSrc := 0, shEtrap := false,
    shEcmp := false, shPending := none, snaps := [], farder := (noImage, noImage), sched := (noImage, noImage),
    farderB := false, schedB := false, farderNext := false, schedNext := false, slotFailed := (false, false), slotGood := (false, false), trial := false,
    booted := false, recovery := false, svnMin := 0, leftReset := 0, powerCap := 0, railsOn := true, holdoff := 0,
    portUp := (false, false), portRate := ((0, 0), (0, 0)), spdm := [], replies := [], errors := 0, errLog := [],
    plic := [], sysq := [], fired := [], harts := [], plicEn := [], portRead := (0, 0), told := [] }

/-- An AMO of a hart. -/
inductive HartAmo where
  | swap | add | xor | and | or | min | max | minu | maxu
deriving DecidableEq, Repr

/-- What a hart's next instruction does: to memory or the hub window, to its translations, to the PLIC, or to its own registers, whose new values its own instruction set
gives (log 33). -/
inductive HartAct where
  | load (rd : Nat) (va : W64) (size : Nat)
  | store (rs : Nat) (va : W64) (size : Nat)
  | amo (fn : HartAmo) (rd rs : Nat) (va : W64) (size : Nat)
  | lr (rd : Nat) (va : W64) (size : Nat)
  | sc (rd rs : Nat) (va : W64) (size : Nat)
  | fence
  | sfence (va : Option W64)
  | claim (source : Nat)
  | enable (source : Nat) (on : Bool)
  | own (xregs fregs csrs : List (Nat × W64)) (pc : W64) (mode : Nat)
deriving DecidableEq, Repr

/-- What the next step does: a strand issues a word, a word takes one group pass ahead of the rest (01 R15), an event of the table happens,
an SC operation is sent (18 R324), an engine operation performs one of its writes ahead of the rest (18 R327), a load reads under a
predicted translation (09 R207), a control-core hart acts (23 R384), a port reads the hub window (23 R385), a cache drops an entry, the program of a context meets R6
unseen by the machine (00 R6), Farder sets the options of a RESUME with PUBLISH (19 R362), or cycles pass. -/
inductive Turn where
  | word (r : StrandRef)
  | pass (r : StrandRef) (group : Nat)
  | sendSc (team op lane : Nat)
  | enginePart (team op part : Nat)
  | predict (team op lane : Nat) (page : Nat)
  | hart (h : Nat) (a : HartAct)
  | barRead (who : Requester) (off : Nat)
  | dropStore (die line : Nat)
  | undefined (ctx : Nat)
  | options (ctx seq : Nat) (opts : ResumeOpts)
  | event (i : Instr)
  | hartStore (pa : Nat) (bytes : List Byte)
  | dropL1d (core line : Nat)
  | dropL1i (core key : Nat)
  | dropTlb (core index : Nat)
  | dropL2 (index : Nat)
  | elapse (n : Nat)
deriving DecidableEq, Repr

/-- A walk between its phases: the objects that it has set to WALK, in order, with the places of their headers, and the roots whose walks
follow (19 R356, R358, R362). -/
structure WalkList where
  objs : List (W64 × Nat)
  left : List W64
deriving DecidableEq, Repr

/-- The state of the package. -/
structure State where
  agenda   : List Turn
  cur      : StrandRef
  nonce    : Nat
  clock    : Nat
  lastTeam : Nat
  lastGrid : Nat
  lastOp   : Nat
  lastTrap : Nat
  mem      : List Host.Cell           -- HBM, canonical form; an unlisted byte reads 0
  memTags  : SMap Unit                -- reference tags set, by physical address ÷ 8
  poison   : SMap Unit                -- poisoned sectors, by physical address ÷ 128
  teams    : SMap Team
  cores    : SMap Core
  quads    : SMap Quad
  ctxs     : SMap Context
  grids    : SMap Grid
  l2       : List L2Line
  gatedWays : SMap Nat                -- by 8 × slice + pair: 0 gated, c + 1 waking since cycle c (17 R293)
  sliceClk : SMap W64                 -- Lamport clocks of the home slices (18 R324)
  walks    : List (Nat × Nat × Nat)   -- publications accepted: die, team, operation (19 R358)
  walking  : SMap WalkList            -- walks that have traced and not yet marked, by operation (19 R356)
  rings    : List RingWait            -- oldest first
  heldTraps : List TrapRec            -- traps held in cores, in order of detection (11 R223)
  links    : SMap Nat                 -- retries of a die-to-die link's flit; 64 is down (17 R312)
  fabLinks : SMap Nat                 -- flits that a fabric link has replayed (24 R405)
  removed  : SMap Unit                -- fabric links removed from the routes (24 R418)
  remotes  : List RemoteTask          -- remote enqueues in flight or whose tasks live (24 R415)
  istore   : SMap StoreLine           -- shared instruction stores, by 2^41 × die + physical address ÷ 128 (17 R294)
  touched  : Nat                      -- accesses to caches so far, which orders their lines by recency (09 R183)
  hub      : Hub
deriving DecidableEq, Repr

/-- Why the machine stops with a fault. SAFE: the hardware goes on where the model stops. -/
inductive Fault where
  /-- Raised by a step whose packet lies in the code extent but on a page that is not mapped; the spec gives no trap for it. Safe. -/
  | codeUnmapped
deriving DecidableEq, Repr

/-- Why a row has no meaning. -/
inductive Refusal where
  /-- Raised by the dispatch for a row not modelled. Safe. -/
  | notModelled (mnemonic : String)
deriving DecidableEq, Repr

/-- The package right after reset. Values the spec does not give are named in logs 1 to 6. -/
def State.reset : State :=
  { agenda := [], cur := { team := 0, strm := .c, sid := none }, nonce := 0, clock := 0, lastTeam := 0, lastGrid := 0,
    lastOp := 0, lastTrap := 0, mem := [], memTags := [], poison := [], teams := [], cores := [], quads := [], ctxs := [], grids := [],
    l2 := [], gatedWays := [], sliceClk := [], walks := [], walking := [], rings := [], heldTraps := [], links := [], fabLinks := [], removed := [], remotes := [],
    istore := [], touched := 0, hub := Hub.reset }

end Sys2Proof.Machine
end

