-- ==== Sys2Proof/Machine/Ops.lean ====
section
/-! DEFINITION. The named operations over the state: teams, strands, masks, registers, memory, translation, the program counter,
taking a trap (11 R214 to R223) and the return from one (11 R225). -/

namespace Sys2Proof.Machine

/-- The answer of a step. -/
abbrev Out := Host.Outcome State Fault Refusal

/-- What a trap reports (11 Table 11-1). -/
structure TrapInfo where
  cause  : Nat
  detail : Nat
  code   : Nat
  mask   : Mask
  addr   : W64
deriving DecidableEq, Repr

/-- Why a word does not complete now: an interlock holds it before it issues, it has issued and blocks on a queue (01 R16, 16 R288), or it traps (a data comparator's trap may fire the
Shutter). -/
inductive Stop where
  | stall
  | block
  | trap (t : TrapInfo)
  | watch (fires : Bool) (t : TrapInfo)
deriving DecidableEq, Repr

/-- A trap with a cause and a mask alone. -/
def trapOf (cause : Nat) (mask : Mask) : TrapInfo := { cause := cause, detail := 0, code := 0, mask := mask, addr := 0 }

/-! Cause codes (11 Table 11-2). -/

def cZero : Nat := 0x01
def cIllegal : Nat := 0x02
def cChain : Nat := 0x03
def cTarget : Nat := 0x04
def cFetch : Nat := 0x05
def cTrap : Nat := 0x06
def cBkpt : Nat := 0x07
def cStep : Nat := 0x08
def cCompare : Nat := 0x09
def cDivergence : Nat := 0x10
def cJoin : Nat := 0x11
def cBarrier : Nat := 0x12
def cBound : Nat := 0x13
def cTag : Nat := 0x14
def cRefTag : Nat := 0x15
def cClosed : Nat := 0x16
def cConverge : Nat := 0x17
def cPolicy : Nat := 0x20
def cMisaligned : Nat := 0x21
def cSpad : Nat := 0x22
def cAccess : Nat := 0x23
def cPage : Nat := 0x24
def cCatalogue : Nat := 0x25
def cEscape : Nat := 0x26
def cLaunch : Nat := 0x28
def cUnlinked : Nat := 0x29
def cPattern : Nat := 0x30
def cNonInv : Nat := 0x31
def cSaveArea : Nat := 0x38
def cMachine : Nat := 0x3A
def cFabric : Nat := 0x3B
def cWalker : Nat := 0x3C

/-! Format tags (03 Table 3-5). -/

def tI32 : BitVec 4 := 0
def tF32 : BitVec 4 := 1
def tRef : BitVec 4 := 14
def tRaw : BitVec 4 := 15

/-! Parts of the state by name. -/

def State.team (s : State) (t : Nat) : Team := SMap.get Team.none s.teams t
def State.setTeam (s : State) (t : Nat) (T : Team) : State := { s with teams := SMap.set Team.none s.teams t T }
def State.core (s : State) (c : Nat) : Core := SMap.get Core.reset s.cores c
def State.setCore (s : State) (c : Nat) (C : Core) : State := { s with cores := SMap.set Core.reset s.cores c C }
def State.quad (s : State) (q : Nat) : Quad := SMap.get Quad.reset s.quads q
def State.setQuad (s : State) (q : Nat) (Q : Quad) : State := { s with quads := SMap.set Quad.reset s.quads q Q }
def State.ctx (s : State) (c : Nat) : Context := SMap.get Context.none s.ctxs c
def State.setCtx (s : State) (c : Nat) (C : Context) : State := { s with ctxs := SMap.set Context.none s.ctxs c C }
def State.grid (s : State) (g : Nat) : Grid := SMap.get Grid.none s.grids g
def State.setGrid (s : State) (g : Nat) (G : Grid) : State := { s with grids := SMap.set Grid.none s.grids g G }

/-- Changes one team. -/
def State.onTeam (s : State) (t : Nat) (f : Team → Team) : State := s.setTeam t (f (s.team t))
/-- Changes one core. -/
def State.onCore (s : State) (c : Nat) (f : Core → Core) : State := s.setCore c (f (s.core c))
/-- Changes one quad. -/
def State.onQuad (s : State) (q : Nat) (f : Quad → Quad) : State := s.setQuad q (f (s.quad q))
/-- Changes one context. -/
def State.onCtx (s : State) (c : Nat) (f : Context → Context) : State := s.setCtx c (f (s.ctx c))
/-- Changes one grid. -/
def State.onGrid (s : State) (g : Nat) (f : Grid → Grid) : State := s.setGrid g (f (s.grid g))

/-- A stream of a team. -/
def Team.stream (T : Team) (x : StreamId) : Stream :=
  match x with
  | .c => T.cs
  | .a => T.as

/-- Replaces a stream of a team. -/
def Team.setStream (T : Team) (x : StreamId) (m : Stream) : Team :=
  match x with
  | .c => { T with cs := m }
  | .a => { T with as := m }

/-- The other stream. -/
def otherStream (x : StreamId) : StreamId :=
  match x with
  | .c => .a
  | .a => .c

/-- A stream that is present and has not ended. -/
def Stream.lives (m : Stream) : Bool := m.present && !m.ended

/-- The quad of a core (13 R239): six on each die of 24 cores. -/
def quadOf (core : Nat) : Nat :=
  6 * (core / 24) + 3 * ((core % 24) / 6 / 2) + (core % 24) % 6 / 2

/-- The die of a core. -/
def dieOf (core : Nat) : Nat := core / 24

/-! Banks and strands (08 R155, 01 R19). -/

/-- Whether a bank holds a team. -/
def Bank.holds (b : Bank) (t : Nat) : Bool := b.slots.any (fun p => p.2 == t)

/-- The bank that holds a team: active, shadow, or in the save arena. -/
def State.bank (s : State) (t : Nat) : Bank :=
  match (s.team t).held with
  | .active => (s.core (s.team t).core).active
  | .shadow => (s.core (s.team t).core).shadow
  | .saved =>
    match (s.ctx (s.team t).ctx).saved.find? (fun b => b.bank.holds t) with
    | some b => b.bank
    | none => Bank.empty

/-- Replaces the bank that holds a team. -/
def State.setBank (s : State) (t : Nat) (b : Bank) : State :=
  match (s.team t).held with
  | .active => s.onCore (s.team t).core (fun c => { c with active := b })
  | .shadow => s.onCore (s.team t).core (fun c => { c with shadow := b })
  | .saved => s.onCtx (s.team t).ctx (fun c =>
      { c with saved := c.saved.map (fun e => if e.bank.holds t then { e with bank := b } else e) })

/-- A strand: the root in its stream's state, or a record of the split table (R19). -/
def State.strand (s : State) (r : StrandRef) : Strand :=
  match r.sid with
  | none => ((s.team r.team).stream r.strm).root
  | some i => SMap.get Strand.free (s.bank r.team).split i

/-- Replaces a strand. -/
def State.setStrand (s : State) (r : StrandRef) (x : Strand) : State :=
  match r.sid with
  | none => s.onTeam r.team (fun T => T.setStream r.strm { T.stream r.strm with root := x })
  | some i =>
    s.setBank r.team { s.bank r.team with split := SMap.set Strand.free (s.bank r.team).split i x }

/-- Changes a strand. -/
def State.onStrand (s : State) (r : StrandRef) (f : Strand → Strand) : State := s.setStrand r (f (s.strand r))

/-- The strand that a word acts for, its team, and its stream. -/
def State.me (s : State) : Strand := s.strand s.cur
def State.mine (s : State) : Team := s.team s.cur.team
def State.myStream (s : State) : Stream := s.mine.stream s.cur.strm
/-- Changes the team that a word acts for. -/
def State.onMine (s : State) (f : Team → Team) : State := s.onTeam s.cur.team f
/-- Changes the stream that a word acts for. -/
def State.onMyStream (s : State) (f : Stream → Stream) : State :=
  s.onMine (fun T => T.setStream s.cur.strm (f (T.stream s.cur.strm)))

/-- The identities of a stream's strands that are not FREE: the root first, then the records in rising order. -/
def State.strandsOf (s : State) (t : Nat) (x : StreamId) : List StrandRef :=
  let recs := (s.bank t).split.filter (fun p => decide (p.2.st ≠ .free) && p.2.team == t && decide (p.2.strm = x))
  let root : List StrandRef :=
    if decide (((s.team t).stream x).root.st ≠ .free) then [{ team := t, strm := x, sid := none }] else []
  root ++ recs.map (fun p => { team := t, strm := x, sid := some p.1 })

/-! Lanes, groups and masks (01 R9, R11, R28). -/

/-- Lanes of a group: 32, or 16 in legacy-width mode. -/
def Team.gw (T : Team) : Nat := if T.lw then 16 else 32
/-- The number of groups. -/
def Team.ngroups (T : Team) : Nat := ceilDiv T.lanes T.gw
/-- The mask of the first n lanes. -/
def firstLanes (n : Nat) : Mask := BitVec.ofNat 1024 (2 ^ n - 1)
/-- The mask of a group's lanes. -/
def Team.groupMask (T : Team) (g : Nat) : Mask := BitVec.ofNat 1024 ((2 ^ T.gw - 1) * 2 ^ (T.gw * g))
/-- The lanes of a mask, ascending. -/
def Team.lanesOf (T : Team) (m : Mask) : List Nat := indicesWhere T.lanes (fun l => m.getLsbD l)
/-- The groups with an active lane, ascending (R11). -/
def Team.groupsOf (T : Team) (m : Mask) : List Nat :=
  indicesWhere T.ngroups (fun g => decide (m &&& T.groupMask g ≠ 0))
/-- The mask of a list of lanes. -/
def maskOf (ls : List Nat) : Mask := ls.foldl (fun m l => m ||| BitVec.ofNat 1024 (2 ^ l)) 0
/-- The active lanes of a mask in some groups. -/
def Team.inGroups (T : Team) (m : Mask) (gs : List Nat) : Mask :=
  gs.foldl (fun acc g => acc ||| (m &&& T.groupMask g)) 0
/-- The lane word of a group, bits [31:16] zero in legacy-width mode. -/
def Team.laneWord (T : Team) (m : Mask) (g : Nat) : Nat := (m.toNat / 2 ^ (T.gw * g)) % 2 ^ T.gw
/-- The group bits of a mask. -/
def Team.groupBits (T : Team) (m : Mask) : Nat := (T.groupsOf m).foldl (fun acc g => acc + 2 ^ g) 0
/-- The lowest lane of a mask, or 0. -/
def Team.lowest (T : Team) (m : Mask) : Nat := (T.lanesOf m).headD 0
/-- The number of lanes in a mask. -/
def Team.count (T : Team) (m : Mask) : Nat := (T.lanesOf m).length

/-! Scalars, index registers, predicates (04 R77, R85). -/

def Stream.sreg (m : Stream) (i : BitVec 6) : W64 := SMap.get 0 m.sregs i.toNat
def Stream.sref (m : Stream) (i : BitVec 6) : Bool := SMap.has m.srefs i.toNat
/-- Writes a scalar with its REF tag. -/
def Stream.setSreg (m : Stream) (i : BitVec 6) (v : W64) (ref : Bool) : Stream :=
  { m with sregs := SMap.set 0 m.sregs i.toNat v, srefs := SMap.flag m.srefs i.toNat ref }
/-- A scalar of the issuing stream. -/
def State.sreg (s : State) (i : BitVec 6) : W64 := s.myStream.sreg i
/-- Writes a scalar of the issuing stream; its REF tag is cleared (R85). -/
def State.putSreg (s : State) (i : BitVec 6) (v : W64) : State := s.onMyStream (fun m => m.setSreg i v false)

def Stream.xreg (m : Stream) (i : Nat) : BitVec 16 := SMap.get 0 m.xregs i

/-- A predicate: p0 reads true in every lane (02 Table 2-3). -/
def Team.pred (T : Team) (p : BitVec 3) : Mask :=
  if p = 0 then firstLanes T.lanes else SMap.get 0 T.preds p.toNat
/-- Writes a predicate in the lanes of a mask; p0 discards the write. -/
def Team.setPred (T : Team) (p : BitVec 3) (m v : Mask) : Team :=
  if p = 0 then T else { T with preds := SMap.set 0 T.preds p.toNat ((T.pred p &&& ~~~m) ||| (v &&& m)) }

/-! Vector registers and their tags (04 R77 to R84). -/

def Team.vr (T : Team) (r l : Nat) : W32 := SMap.get 0 T.vregs (1024 * r + l)
def Team.vtag (T : Team) (r g : Nat) : BitVec 4 := SMap.get tRaw T.vtags (64 * r + g)
def Team.setVr (T : Team) (r l : Nat) (v : W32) : Team := { T with vregs := SMap.set 0 T.vregs (1024 * r + l) v }
def Team.setVtag (T : Team) (r g : Nat) (t : BitVec 4) : Team :=
  { T with vtags := SMap.set tRaw T.vtags (64 * r + g) t }

/-- The partner of a register in its even and odd pair (R84). -/
def partner (r : Nat) : Nat := if r % 2 = 0 then r + 1 else r - 1

/-- A word writes register r in a group: an LDREF still outstanding on the pair no longer finds it untouched there (19 R353). -/
def AccessOp.strike (a : AccessOp) (r g : Nat) : AccessOp :=
  match a.dest with
  | .refPair b held => if r = b ∨ r = b + 1 then { a with dest := .refPair b (held.filter (fun h => h ≠ g)) } else a
  | _ => a

/-- A pass sets the tag of register r in a group; a partner that holds REF turns RAW (R81, R84). -/
def Team.tagPass (T : Team) (r g : Nat) (t : BitVec 4) : Team :=
  let T0 := { T with accs := T.accs.map (fun (a : AccessOp) => a.strike r g) }
  let T1 := if T0.vtag (partner r) g = tRef then T0.setVtag (partner r) g tRaw else T0
  T1.setVtag r g t

/-- Writes values into lanes of a register. -/
def Team.putLanes (T : Team) (r : Nat) (vals : List (Nat × W32)) : Team :=
  vals.foldl (fun T p => T.setVr r p.1 p.2) T

/-- Every group pass of a mask writes register r with a tag that may differ by group (R81). -/
def Team.putVec (T : Team) (r : Nat) (m : Mask) (tag : Nat → BitVec 4) (vals : List (Nat × W32)) : Team :=
  ((T.groupsOf m).foldl (fun T g => T.tagPass r g (tag g)) T).putLanes r vals

/-! Memory: bytes, tags, poison (18 R314, R315). Byte order is decided here, once (00 R5). -/

/-- The canonical form of memory. -/
def Memory.wf (m : List Host.Cell) : Bool := SMap.wf (0 : Byte) m
/-- One byte of memory; an unlisted byte reads 0 (log 4). -/
def Memory.read (m : List Host.Cell) (pa : Nat) : Byte := SMap.get 0 m pa
/-- Writes one byte and keeps the canonical form. -/
def Memory.write (m : List Host.Cell) (pa : Nat) (b : Byte) : List Host.Cell := SMap.set 0 m pa b
/-- Consecutive bytes. -/
def Memory.readN (m : List Host.Cell) (pa : Nat) (n : Nat) : List Byte :=
  (List.range n).map (fun i => Memory.read m (pa + i))
/-- Writes consecutive bytes. -/
def Memory.writeN (m : List Host.Cell) (pa : Nat) (bs : List Byte) : List Host.Cell :=
  match bs with
  | [] => m
  | b :: rest => Memory.writeN (Memory.write m pa b) (pa + 1) rest

/-- A little-endian number in memory. -/
def State.memNat (s : State) (pa n : Nat) : Nat := natOfBytes (Memory.readN s.mem pa n)
def State.mem64 (s : State) (pa : Nat) : W64 := BitVec.ofNat 64 (s.memNat pa 8)

/-- Clears the reference tag of every 8-byte word that holds one of n bytes (19 R346). -/
def clearTags (tags : SMap Unit) (pa n : Nat) : SMap Unit :=
  if n = 0 then tags
  else (List.range ((pa + n - 1) / 8 - pa / 8 + 1)).foldl (fun t i => SMap.erase t (pa / 8 + i)) tags

/-- Writes bytes at a physical address and clears the tags of the words that hold them. -/
def State.store (s : State) (pa : Nat) (bs : List Byte) : State :=
  { s with mem := Memory.writeN s.mem pa bs, memTags := clearTags s.memTags pa bs.length }
/-- Writes a little-endian number. -/
def State.storeNat (s : State) (pa n v : Nat) : State := s.store pa (bytesOfNat n v)
/-- Whether a byte of a run lies in a poisoned sector (17 R311). -/
def State.poisoned (s : State) (pa n : Nat) : Bool :=
  (List.range n).any (fun i => SMap.has s.poison ((pa + i) / 128))

/-! Scratchpad windows (08 R170). -/

def Team.winByte (T : Team) (off : Nat) : Byte := SMap.get 0 T.win off
def Team.winBytes (T : Team) (off n : Nat) : List Byte := (List.range n).map (fun i => T.winByte (off + i))
def writeWin (w : SMap Byte) (off : Nat) (bs : List Byte) : SMap Byte :=
  match bs with
  | [] => w
  | b :: rest => writeWin (SMap.set 0 w off b) (off + 1) rest
/-- Writes bytes of a window and clears the tags of the words that hold them. -/
def Team.winStore (T : Team) (off : Nat) (bs : List Byte) : Team :=
  { T with win := writeWin T.win off bs, winTags := clearTags T.winTags off bs.length }

/-! Translation (09 R206 to R209). -/

/-- What a leaf entry of the page tables gives. -/
structure Leaf where
  at_   : Nat                         -- physical address of the entry
  pte   : W64
  level : Nat
deriving DecidableEq, Repr

/-- The size of a page of a level. -/
def pageSize (level : Nat) : Nat := 2 ^ (12 + 9 * level)

/-- The Sv48 walk from a table of level n - 1 (log 10). -/
def State.walkFrom (s : State) (va : Nat) : Nat → Nat → Option Leaf
  | 0, _ => none
  | n + 1, table =>
    let a := table + 8 * ((va / pageSize n) % 512)
    let p := s.mem64 a
    let ppn := (p.toNat / 1024) % 2 ^ 44
    if !p.getLsbD 0 then none
    else if p.getLsbD 1 || p.getLsbD 3 then
      if ppn % 2 ^ (9 * n) = 0 then some { at_ := a, pte := p, level := n } else none
    else if p.getLsbD 2 then none
    else s.walkFrom va n (ppn * 4096)

/-- The entries that a walk reads, from the root down. -/
def State.walkReads (s : State) (va : Nat) : Nat → Nat → List Nat
  | 0, _ => []
  | n + 1, table =>
    let a := table + 8 * ((va / pageSize n) % 512)
    let p := s.mem64 a
    if !p.getLsbD 0 || p.getLsbD 1 || p.getLsbD 2 || p.getLsbD 3 then [a]
    else a :: s.walkReads va n ((p.toNat / 1024) % 2 ^ 44 * 4096)

/-- The leaf that maps an address of a context. -/
def State.walk (s : State) (ctx : Nat) (va : Nat) : Option Leaf := s.walkFrom va 4 (s.ctx ctx).satpRoot

/-- The physical address that a leaf gives. -/
def Leaf.pa (l : Leaf) (va : Nat) : Nat := (l.pte.toNat / 1024) % 2 ^ 44 * 4096 / pageSize l.level * pageSize l.level + va % pageSize l.level

/-- What an access needs of a page. -/
structure Need where
  r : Bool
  w : Bool
deriving DecidableEq, Repr

/-- What translation answers: a physical address with the state that the walk leaves, or DETAIL of the page fault. -/
inductive Trans where
  | ok (pa : Nat) (s : State)
  | fail (detail : Nat)
deriving DecidableEq

/-- Whether an address is canonical (09 R180). -/
def canonical (e : W64) : Bool := decide (fld e 47 17 = 0) || decide (fld e 47 17 = BitVec.allOnes 17)
/-- The 48 bits that Sv48 translates. -/
def va48 (e : W64) : Nat := e.toNat % 2 ^ 48

/-- Whether the need is met by a leaf; 0 where it is, else DETAIL of Table 11-2. -/
def Need.lack (n : Need) (p : W64) (pa : Nat) : Nat :=
  let st := bit1 n.w
  if n.r && !p.getLsbD 1 then 2 + st
  else if n.w && !p.getLsbD 2 then (if Config.pteCow p then 4 + st else 2 + st)
  else if Config.hbmEnd ≤ pa then 2 + st
  else 0

/-- A TLB hit that grants the need (09 R206). -/
def TlbEntry.hits (e : TlbEntry) (ctx va : Nat) (n : Need) : Bool :=
  e.ctx == ctx && e.vpn == va / pageSize e.level && (!n.r || e.r) && (!n.w || (e.w && e.d))

/-- Enters a translation at the head of a TLB of 2,048 entries. -/
def tlbInsert (t : List TlbEntry) (e : TlbEntry) : List TlbEntry :=
  (e :: t.filter (fun x => !(x.ctx == e.ctx && x.vpn == e.vpn && x.level == e.level))).take 2048

/-- A walk that serves an access: A is set, and D for a store; the entry enters the TLB (09 R206). -/
def State.walkFor (s : State) (core ctx : Nat) (va : Nat) (n : Need) : Trans :=
  match s.walk ctx va with
  | none => .fail (bit1 n.w)
  | some l =>
    let pa := l.pa va
    let d := n.lack l.pte pa
    if d ≠ 0 then .fail d
    else
      let p := l.pte ||| 0x40 ||| (if n.w then 0x80 else 0)
      let s1 := if p = l.pte then s else { s with mem := Memory.writeN s.mem l.at_ (bytesOfNat 8 p.toNat) }
      let e : TlbEntry := { ctx := ctx, vpn := va / pageSize l.level, level := l.level, pa := pa - va % pageSize l.level,
                            r := p.getLsbD 1, w := p.getLsbD 2, d := p.getLsbD 7, contig := p.getLsbD 8 }
      .ok pa (s1.onCore core (fun c => { c with tlb := tlbInsert c.tlb e, tlbMisses := c.tlbMisses + 1 }))

/-- Translation through the TLB of a core, or by a walk. -/
def State.translate (s : State) (core ctx : Nat) (e : W64) (n : Need) : Trans :=
  let va := va48 e
  match (s.core core).tlb.find? (fun t => t.hits ctx va n) with
  | some t => .ok (t.pa + va % pageSize t.level) s
  | none => s.walkFor core ctx va n

/-- The extent of a team that grants an access (09 R180, R203, R204). -/
def Team.extentFor (T : Team) (va : Nat) (n : Need) : Option Extent :=
  T.extents.find? (fun x => x.valid && decide (x.va ≤ va) && decide (va < x.va + x.len) && (!n.r || x.r) && (!n.w || x.w))

/-- Translation for a team: its extents, then the TLB (09 R180). -/
def State.resolve (s : State) (t : Nat) (e : W64) (n : Need) : Trans :=
  let T := s.team t
  match T.extentFor (va48 e) n with
  | some x => .ok (x.pa + (va48 e - x.va)) s
  | none => s.translate T.core T.ctx e n

/-! The clock. -/

/-- Cycles since the package left reset. Holdoff cycles pass for CYCLE and TIME; no count of `clock` sees them (23 R402). -/
def State.now (s : State) : Nat := s.clock + s.hub.holdoff

/-- Cycles of a YIELD pass (05 R110). -/
def Strand.pass (x : Strand) (n : Nat) : Strand := { x with yieldLeft := x.yieldLeft - n }

/-- Condition D of the quota detector over one bank (04 R92). -/
def State.condD (s : State) (b : Bank) : Bool :=
  let ts := b.slots.map Prod.snd
  let strands := ts.flatMap (fun t => (s.strandsOf t .c).map s.strand)
  strands.all (fun x => decide (x.wait = .register) || decide (x.st = .waiting) || decide (x.st = .suspended))
  && strands.any (fun x => decide (x.wait = .register)) && ts.all (fun t => !(s.team t).retiring)

/-- The cycle since which condition D holds after n more cycles. A bank that is being exchanged, saved or loaded is being switched, and D
does not hold in it (04 R92). -/
def State.dAfter (s : State) (k : Core) (b : Bank) (away : Bool) (n : Nat) : Option Nat :=
  let from_ := max s.clock k.readyAt
  if s.condD b && !(away && (k.saving || !b.loaded)) && decide (from_ ≤ s.clock + n) then
    (match b.dSince with | some c => some c | none => some from_)
  else none

/-- n cycles pass: YIELD counts of teams in active banks, the waits of MRSV, and the quota detectors (04 R92, 05 R110, 13 R243). -/
def State.elapse (s : State) (n : Nat) : State :=
  let inBank (t : Nat) : Bool := decide ((s.team t).held = .active)
  { s with
    clock := s.clock + n
    teams := s.teams.map (fun p => if decide (p.2.held = .active) then
      (p.1, { p.2 with cs := { p.2.cs with root := p.2.cs.root.pass n }, as := { p.2.as with root := p.2.as.root.pass n } }) else p)
    cores := s.cores.map (fun p =>
      (p.1, { p.2 with active := { p.2.active with split := p.2.active.split.map (fun q => (q.1, q.2.pass n))
                                                   dSince := s.dAfter p.2 p.2.active false n }
                       shadow := { p.2.shadow with dSince := s.dAfter p.2 p.2.shadow true n } }))
    quads := s.quads.map (fun p =>
      (p.1, { p.2 with waits := p.2.waits.map (fun w => if inBank w.r.team then { w with waited := w.waited + n } else w) })) }

/-- One of several choices that the spec leaves open, drawn by the counter (log 2); the state counts the draw. -/
def drawFrom (nonce : Nat) (l : List Nat) : Nat := l.getD (Config.pick nonce % l.length) 0
def State.drew (s : State) (n : Nat) : State := { s with nonce := s.nonce + n }

/-- A strand becomes able to issue at this cycle. -/
def State.wake (s : State) (r : StrandRef) : State :=
  s.onStrand r (fun x => { x with st := .running, wait := .nothing, readyAt := s.clock, urgent := false })

/-! The program counter (02 R37, R39; 05 R102). -/

/-- The start of the packet that holds an address. -/
def packetOf (pc : W64) : W64 := pc - BitVec.ofNat 64 (pc.toNat % 12)
/-- The start of the next packet. -/
def nextPacket (pc : W64) : W64 := packetOf pc + 12

/-- The comparators that are suppressed for a strand's next execution of the word at an address (11 R225). -/
def Strand.suppressed (x : Strand) (pc : W64) : List Nat := (x.supp.filter (fun p => p.2 = pc)).map Prod.fst

/-- The end of one word of a strand: lookahead windows shrink, a comparator's suppression ends with its word. -/
def Strand.wordDone (x : Strand) (last : Bool) : Strand :=
  { x with windows := x.windows.map (fun w => (w.1, w.2 - 1))
           supp := x.supp.filter (fun p => p.2 ≠ x.pc)
           stepDue := x.step && last, after := none, wait := .nothing }

/-- The strand goes on at an address, in a new bundle. -/
def Strand.goto (x : Strand) (a : W64) : Strand :=
  { x.wordDone true with pc := a, checked := 0 }

/-- The strand goes on after the word at its pc: at the next word, or where an earlier issue had come to (09 R211). -/
def Strand.advance (x : Strand) : Strand :=
  match x.after with
  | some a => x.goto a
  | none => { x.wordDone (x.checked ≤ 1) with pc := x.pc + 4, checked := x.checked - 1 }

/-- A word that the windows do not count (02 R42). -/
def Strand.advanceNop (x : Strand) : Strand := { x.advance with windows := x.windows }

def State.advance (s : State) : State := s.onStrand s.cur Strand.advance
def State.goto (s : State) (a : W64) : State := s.onStrand s.cur (fun x => x.goto a)

/-- The words that end their packet (02 R37). -/
def endsPacket (i : Instr) : Bool :=
  match i with
  | .bra _ | .brc _ _ _ | .bri _ | .call _ | .ret | .divb _ _ _ | .loop _ _ _ | .endStrand => true
  | _ => false

/-! Taking a trap (11 R214 to R223). -/

/-- Whether an access of a stream, older than a bound, has been performed in every lane (11 R222). -/
def AccessOp.performed (a : AccessOp) : Bool :=
  a.lanes.all (fun l => match l.st with | .performed => true | .done => true | .failed _ _ => true | _ => false)

/-- Whether every access that a stream issued before an operation has been performed. -/
def Team.allPerformed (T : Team) (x : StreamId) (before : Nat) : Bool :=
  T.accs.all (fun a => decide (a.strm ≠ x) || decide (before ≤ a.id) || a.performed)

/-- The shape of a record's mask. -/
def TrapRec.shape (r : TrapRec) : Team := { Team.none with lanes := r.lanes, lw := r.lw }

/-- The 64 bytes of a record (11 Table 11-1). DESIGN CHOICE (log 65): CODE holds the low 16 bits of a register number e that exceeds 65,535
(04 R97). -/
def TrapRec.bytes (r : TrapRec) : List Byte :=
  let T := r.shape
  let w0 := r.cause + r.detail % 2 ^ 8 * 2 ^ 8 + r.code % 2 ^ 16 * 2 ^ 16 + bit1 (decide (r.strm = .a)) * 2 ^ 32 + bit1 r.defer * 2 ^ 33
            + bit1 r.lw * 2 ^ 35 + r.ctxid % 2 ^ 16 * 2 ^ 48
  let w2 := r.tidx.1 + r.tidx.2.1 * 2 ^ 21 + r.tidx.2.2 * 2 ^ 42
  let w3 := r.sid9 + dieOf r.core * 2 ^ 16 + (r.core % 24) * 2 ^ 24 + r.slot * 2 ^ 32 + (r.seq % 2 ^ 24) * 2 ^ 40
  let w6 := T.groupBits r.mask + T.laneWord r.mask ((T.groupsOf r.mask).headD 0) * 2 ^ 32
  [w0, r.gridid.toNat, w2, w3, r.pc.toNat, r.addr.toNat, w6, r.spc.toNat % 2 ^ 48].flatMap (bytesOfNat 8)

/-- The 128 bytes of a mask image (11 R218). -/
def TrapRec.image (r : TrapRec) : List Byte :=
  let T := r.shape
  (List.range 32).flatMap (fun g => bytesOfNat 4 (if g < T.ngroups then T.laneWord r.mask g else 0))

/-- Fires the Shutter from source 1 comparator, 2 trap or 3 FIRE (23 R400). -/
def State.shutter (s : State) (src : Nat) : State :=
  let h := s.hub
  if h.shLatched then { s with hub := { h with shMiss := min 255 (h.shMiss + 1) } }
  else match h.shPending with
    | some t =>
      if t = s.now then { s with hub := { h with shSrc := min h.shSrc src } }
      else { s with hub := { h with shMiss := min 255 (h.shMiss + 1) } }
    | none => { s with hub := { h with shSrc := src, shPending := some s.now } }

/-- Where a byte of a context's trap queue lies: its pages are pinned, and need not follow one another (11 R220). -/
def Context.trapqAt (c : Context) (off : Nat) : Nat :=
  let a := c.trapqVa.toNat % 4096 + off
  c.trapqPages.getD (a / 4096) 0 + a % 4096

/-- Writes bytes of a trap queue at a multiple of 64, piece by piece: no 64 of them lie in two pages. -/
def State.storeQueue (s : State) (c : Context) (off : Nat) : List (List Byte) → State
  | [] => s
  | bs :: rest => (s.store (c.trapqAt off) bs).storeQueue c (off + 64) rest

/-- CONS of a queue, a value beyond PROD counting as PROD (11 R223). -/
def State.trapRoom (s : State) (c : Context) : Bool :=
  let prod := s.mem64 (c.trapqAt 0)
  let cons := s.mem64 (c.trapqAt 8)
  decide (prod ≤ cons) || decide (prod.toNat - cons.toNat < c.trapqN)

/-- A record as it is when it is written: where its strand is now (R218). -/
def State.placed (s : State) (r : TrapRec) (n : Nat) : TrapRec :=
  let T := s.team r.team
  if T.live then { r with seq := n, sid9 := r.sid.getD 0x100, core := T.core, slot := T.slot } else { r with seq := n }

/-- Farder learns of a record, which it has not yet acted on. -/
def State.noticed (s : State) (r : TrapRec) : State :=
  let s4 := s.onCtx r.ctxid (fun c => { c with recs := c.recs ++ [r] })
  let s5 := { s4 with hub := { s4.hub with plic := s4.hub.plic ++ [((s.ctx r.ctxid).notifyHart, r.ctxid)] } }
  if s5.hub.shEtrap && (decide (s5.hub.shCause = 0) || decide (s5.hub.shCause.toNat = r.cause)) then s5.shutter 2 else s5

/-- Writes a record into its context's queue: PROD, record, image, and the notice to Farder (11 R221). A record of the handler grid goes
to Farder alone, under a number that no record of the queue bears (11 R224; log 22). -/
def State.writeRec (s : State) (r : TrapRec) : State :=
  if r.own then s.noticed (s.placed r (2 ^ 64 + r.rank))
  else
    let c := s.ctx r.ctxid
    let n := s.memNat (c.trapqAt 0) 8
    let r1 := s.placed r n
    let k := n % c.trapqN
    let s1 := s.storeNat (c.trapqAt 0) 8 (n + 1)
    let s2 := s1.store (c.trapqAt (64 + 64 * k)) r1.bytes
    (s2.storeQueue c (64 + 64 * c.trapqN + 128 * k) [r1.image.take 64, r1.image.drop 64]).noticed r1

/-- Whether a record can be written now: its stream's earlier accesses have been performed, and its queue has room (11 R222, R223). -/
def State.recReady (s : State) (r : TrapRec) : Bool :=
  (s.team r.team).allPerformed r.strm r.before && (r.own || s.trapRoom (s.ctx r.ctxid))

/-- Whether two records are written in the order in which one core detected them (R223). -/
def TrapRec.sameLine (h r : TrapRec) : Bool := h.ctxid == r.ctxid && h.core == r.core && h.own == r.own

/-- A trap is recorded at once when it can be; else the core holds it (11 R222, R223). The record waits for the accesses of its stream
before an operation. -/
def State.postAt (s : State) (r : TrapRec) (before : Nat) : State :=
  let r1 := { r with before := before, rank := if r.rank = 0 then s.lastTrap + 1 else r.rank, cycle := if r.rank = 0 then s.clock else r.cycle }
  let s1 := { s with lastTrap := s.lastTrap + 1 }
  if s.heldTraps.all (fun h => !h.sameLine r1) && s.recReady r1 then s1.writeRec r1
  else
    let full := !r1.own && !s.trapRoom (s.ctx r.ctxid)
    let s2 := { s1 with heldTraps := s1.heldTraps ++ [{ r1 with told := full }] }
    if full then { s2 with hub := { s2.hub with fired := s2.hub.fired ++ [s.clock] } } else s2

/-- Posts a precise trap's record: it waits for the accesses before the word (R222). -/
def State.postRec (s : State) (r : TrapRec) : State := s.postAt r (r.op.getD (s.lastOp + 1))

/-- The record of a trap of a strand. -/
def State.recOf (s : State) (r : StrandRef) (t : TrapInfo) (pc spc : W64) : TrapRec :=
  let T := s.team r.team
  { cause := t.cause, detail := t.detail, code := t.code, strm := r.strm, defer := false, lw := T.lw, ctxid := T.ctx,
    gridid := (s.grid T.grid).id, tidx := T.tidx, sid9 := r.sid.getD 0x100, core := T.core, slot := T.slot, seq := 0, pc := pc,
    spc := spc, addr := t.addr, mask := t.mask, team := r.team, sid := r.sid, op := none, lanes := T.lanes, rank := 0, before := 0, cycle := 0,
    own := decide ((s.ctx T.ctx).handler = some T.grid), todo := none }

/-- Takes a precise trap: the strand is PARKED at the word, and its record is posted (11 R214, R215). -/
def State.takeTrap (s : State) (r : StrandRef) (t : TrapInfo) (pc spc : W64) : State :=
  (s.onStrand r (fun x => { x with st := .parked, stepDue := false })).postRec (s.recOf r t pc spc)

/-- The trap of the word at the issuing strand's pc. A word that is issued again after others of its window keeps the place where
the strand had come to (09 R211). -/
def State.trapHere (s : State) (t : TrapInfo) : State :=
  let x := s.me
  (s.onStrand s.cur (fun x => { x with st := .parked, stepDue := false, checked := 0 })).postRec
    { s.recOf s.cur t x.pc x.pc with op := x.replay }

/-- Whether an earlier access of a strand has lanes still to be translated, or that have failed, or an engine word of it is not yet
accepted: the strand may yet stop at that word, so it neither traps nor changes its standing at a later one (11 R215; log 12). -/
def State.untranslated (s : State) (r : StrandRef) : Bool :=
  let x := s.strand r
  (s.team r.team).accs.any (fun a => decide (a.strm = r.strm) && a.sid == r.sid
    && (match x.replay with | none => true | some k => decide (a.id < k))
    && a.lanes.any (fun l => match l.st with | .toTranslate => true | .unfinished _ => true | .failed _ _ => true | _ => false))
  || (s.team r.team).engs.any (fun e => decide (e.strm = r.strm) && e.sid == r.sid && decide (e.stage = .issued))

/-- Ends a word: its new state, or the stop it met. -/
def finish (s : State) (r : Except Stop State) : Out :=
  match r with
  | .ok s' => .next s'
  | .error .stall => .next s
  | .error .block => .next (s.onStrand s.cur (fun x => { x with st := .blocked, wait := .again }))
  | .error (.trap t) => if s.untranslated s.cur then .next s else .next (s.trapHere t)
  | .error (.watch fires t) =>
    if s.untranslated s.cur then .next s
    else
      let s1 := s.drew 8
      .next ((if fires then s1.shutter 1 else s1).trapHere t)

/-- Illegal-instruction; DETAIL is the word's position in its packet (Table 11-2). -/
def State.illegal (s : State) : TrapInfo :=
  { cause := cIllegal, detail := s.me.pc.toNat % 12 / 4, code := 0, mask := s.me.mask, addr := 0 }

/-- A check of a word: nothing, or the stop. -/
def require (c : Bool) (e : Stop) : Except Stop Unit := if c then .ok () else .error e

/-! The return from a trap (11 R225). -/

/-- The strand of a record becomes RUNNING at an address; where an earlier issue had come to is kept (09 R211). -/
def Strand.resumeAt (x : Strand) (a : W64) (o : ResumeOpts) : Strand :=
  { x with st := .running, pc := a, checked := 0, step := o.step, freeze := o.freeze, stepDue := false,
           act := none, wait := .nothing, urgent := false }

end Sys2Proof.Machine
end

