-- ==== Sys2Proof/Machine/Flags.lean ====
section
/-! DEFINITION. FPMODE and FPFLAGS of a stream (03 R63 to R65). -/

namespace Sys2Proof.Machine

/-- DAZ of the issuing stream (03 Table 3-7). -/
def Stream.daz (m : Stream) : Bool := m.fpmode.getLsbD 0
/-- FTZ of the issuing stream. -/
def Stream.ftz (m : Stream) : Bool := m.fpmode.getLsbD 1
/-- ORs flags into a stream's FPFLAGS; hardware never clears them (R64). -/
def Stream.orFlags (m : Stream) (f : Flags) : Stream := { m with fpflags := m.fpflags ||| f }
/-- ORs flags into FPFLAGS of a stream of a team (R65). -/
def State.orFlagsOf (s : State) (t : Nat) (x : StreamId) (f : Flags) : State :=
  s.onTeam t (fun T => T.setStream x ((T.stream x).orFlags f))
/-- ORs flags into the issuing stream's FPFLAGS. -/
def State.orFlags (s : State) (f : Flags) : State := s.onMyStream (fun m => m.orFlags f)
/-- SWR of FPFLAGS replaces all five bits (R64). -/
def Stream.setFlags (m : Stream) (v : W64) : Stream := { m with fpflags := v.setWidth 5 }

end Sys2Proof.Machine
end

