-- ==== Sys2Proof/Machine/Operands.lean ====
section
/-! DEFINITION. The operand forms: vector fields with queue ports, tags and their checks, block bounds, and interlocks
(02 R41, Table 2-3; 04 R79 to R85; 08 R158 to R161). -/

namespace Sys2Proof.Machine

/-! Interlocks (02 R41). -/

/-- Whether every lane of an access is complete. -/
def AccessOp.complete (a : AccessOp) : Bool := a.lanes.all (fun l => decide (l.st = .done))

/-- Whether an access writes a vector register. -/
def AccessOp.writes (a : AccessOp) (r : Nat) : Bool :=
  match a.dest with
  | .regs b n _ => decide (b ≤ r) && decide (r < b + n)
  | .refPair b _ => r == b || r == b + 1
  | _ => false

/-- Whether an engine operation writes a vector register of its group (13 R258). -/
def EngOp.writes (e : EngOp) (r : Nat) : Bool :=
  match e.kind with
  | .mrd _ _ _ va _ => decide (va ≤ r) && decide (r < va + 16) && decide (e.stage ≠ .done)
  | _ => false

/-- Two masks have a group in common. -/
def Team.groupsMeet (T : Team) (a b : Mask) : Bool := (List.range T.ngroups).any (fun g =>
  decide (a &&& T.groupMask g ≠ 0) && decide (b &&& T.groupMask g ≠ 0))

/-- A register is still to be written by an issued word in some group of a mask (02 R41, 08 R176). -/
def Team.regBusy (T : Team) (r : Nat) (m : Mask) : Bool :=
  T.accs.any (fun a => a.writes r && T.groupsMeet (maskOf ((a.lanes.filter (fun l => decide (l.st ≠ .done))).map (fun l => l.lane))) m)
  || T.engs.any (fun e => e.writes r && T.groupsMeet e.mask m)

/-- A predicate of some lanes is still to be written (13 R263). -/
def Team.predBusy (T : Team) (p : BitVec 3) (m : Mask) : Bool :=
  T.engs.any (fun e => match e.kind with
    | .mpair _ _ _ _ pd _ _ _ => pd == p.toNat && decide (p ≠ 0) && decide (e.mask &&& m ≠ 0) && decide (e.stage ≠ .done)
    | _ => false)

/-- A scalar of a stream is still to be written. -/
def Team.scalarBusy (T : Team) (x : StreamId) (d : Nat) : Bool :=
  T.accs.any (fun a => decide (a.strm = x) && decide (a.dest = .scalar d))
  || T.engs.any (fun e => decide (e.strm = x) && match e.kind with | .epstat _ _ sd => sd == d && decide (e.stage ≠ .done) | _ => false)

/-- Holds a word until the scalars it names are written. -/
def needScalars (s : State) (l : List (BitVec 6)) : Except Stop Unit :=
  require (l.all (fun d => !s.mine.scalarBusy s.cur.strm d.toNat)) .stall

/-- Holds a word until the predicates it names are written. -/
def needPreds (s : State) (l : List (BitVec 3)) : Except Stop Unit :=
  require (l.all (fun p => !s.mine.predBusy p s.me.mask)) .stall

/-! Block bounds (04 R78, R79). -/

/-- Whether a register is outside the blocks that a strand maps. -/
def unmapped (cnt r : Nat) : Bool := decide (32 ≤ r) && (decide (119 < r) || decide (cnt ≤ (r - 32) / 8))

/-- The least of a list of numbers, or a default. -/
def leastOf (d : Nat) (l : List Nat) : Nat :=
  match l with
  | [] => d
  | x :: rest => rest.foldl min x

/-- The register-bound fault with CODE (Table 11-2). -/
def boundTrap (m : Mask) (code : Nat) : Stop := .trap { cause := cBound, detail := 0, code := code, mask := m, addr := 0 }

/-- The register-bound check of the registers that a word names (R79). -/
def checkBound (s : State) (regs : List Nat) : Except Stop Unit :=
  let bad := regs.filter (unmapped s.me.cnt)
  if bad.isEmpty then .ok () else .error (boundTrap s.me.mask (leastOf 0 bad))

/-! Queues (08 R158 to R161). -/

def isPort (f : Nat) : Bool := decide (120 ≤ f)
/-- The numbers of a list, each once, in order. -/
def nub (l : List Nat) : List Nat :=
  match l with
  | [] => []
  | x :: rest => x :: (nub rest).filter (fun y => y ≠ x)
/-- The queues that fields of a word name, each once. -/
def portsOf (fs : List Nat) : List Nat := nub ((fs.filter isPort).map (fun f => f - 120))

def Team.queue (T : Team) (q l : Nat) : List QEntry := SMap.get [] T.queues (8 * l + q)
def Team.setQueue (T : Team) (q l : Nat) (es : List QEntry) : Team := { T with queues := SMap.set [] T.queues (8 * l + q) es }
def Team.qtag (T : Team) (q : Nat) : BitVec 4 := SMap.get tRaw T.qtags q

/-- The head entry of a lane's queue, if it is filled. -/
def Team.headFilled (T : Team) (q l : Nat) : Bool :=
  match T.queue q l with
  | e :: _ => e.val.isSome
  | [] => false

/-- The value and the tag of the head entry. -/
def Team.headVal (T : Team) (q l : Nat) : W32 := match T.queue q l with | e :: _ => e.val.getD 0 | [] => 0
def Team.headTag (T : Team) (q l : Nat) : BitVec 4 := match T.queue q l with | e :: _ => e.tag | [] => tRaw

/-- Takes the head entry in every lane of a mask. -/
def Team.pop (T : Team) (q : Nat) (m : Mask) : Team :=
  (T.lanesOf m).foldl (fun T l => T.setQueue q l ((T.queue q l).tail)) T
/-- Pushes filled entries, which take the queue's tag (R160). -/
def Team.push (T : Team) (q : Nat) (vals : List (Nat × W32)) : Team :=
  vals.foldl (fun T p => T.setQueue q p.1 (T.queue q p.1 ++ [{ val := some p.2, tag := T.qtag q, op := 0, drop := false }])) T
/-- Reserves an entry in every lane of a mask for an access (R159). -/
def Team.reserve (T : Team) (q : Nat) (m : Mask) (op : Nat) : Team :=
  (T.lanesOf m).foldl (fun T l => T.setQueue q l (T.queue q l ++ [{ val := Option.none, tag := T.qtag q, op := op, drop := false }])) T

/-- Fills the entry that an access reserved; a drained one is discarded (R159, R164). -/
def fillEntry (es : List QEntry) (op : Nat) (v : W32) : List QEntry :=
  match es with
  | [] => []
  | e :: rest =>
    if e.op = op ∧ e.val = none then (if e.drop then rest else { e with val := some v } :: rest)
    else e :: fillEntry rest op v
def Team.fill (T : Team) (q l op : Nat) (v : W32) : Team := T.setQueue q l (fillEntry (T.queue q l) op v)

/-- The queue-closed trap (R161). -/
def closedTrap (m : Mask) (q : Nat) : Stop := .trap { cause := cClosed, detail := 0, code := q, mask := m, addr := 0 }

/-- Whether the stream at the other end of a queue has ended or does not exist. -/
def State.otherClosed (s : State) : Bool := !(s.mine.stream (otherStream s.cur.strm)).lives

/-- Entries that accesses have popped and may yet give back (09 R210): they keep their places in the queue. -/
def Team.heldPops (T : Team) (q l : Nat) : Nat :=
  (T.accs.flatMap (fun a => a.lanes.filter (fun x => x.lane == l && x.pops.any (fun p => p.1 == q)
    && (match x.st with | .toTranslate => true | _ => false)))).length

/-- The closed check of one popped queue: the mask of its empty lanes. -/
def checkPop (s : State) (q : Nat) : Except Stop Unit :=
  let empty := (s.mine.lanesOf s.me.mask).filter (fun l => (s.mine.queue q l).isEmpty)
  if s.otherClosed && !empty.isEmpty then .error (closedTrap (maskOf empty) q) else .ok ()

/-- The closed check of one pushed queue. -/
def checkPush (s : State) (q : Nat) : Except Stop Unit :=
  if s.otherClosed then .error (closedTrap s.me.mask q) else .ok ()

/-- Groups in which the popped entries of a queue carry different tags (R160). -/
def mixedGroups (T : Team) (m : Mask) (q : Nat) : List Nat :=
  (T.groupsOf m).filter (fun g =>
    let ls := T.lanesOf (m &&& T.groupMask g)
    !ls.all (fun l => T.headTag q l == T.headTag q (ls.headD 0)))

/-- Runs a check over a list. -/
def forAll (l : List Nat) (f : Nat → Except Stop Unit) : Except Stop Unit :=
  match l with
  | [] => .ok ()
  | x :: rest => do f x; forAll rest f

/-- A tag trap in some groups, or none. -/
def tagTrap (T : Team) (m : Mask) (cause : Nat) (gs : List Nat) : Except Stop Unit :=
  if gs.isEmpty then .ok () else .error (.trap (trapOf cause (T.inGroups m gs)))

/-- What every word with vector fields meets before its first pass: interlocks (R41), block bounds (R79), closed and
waiting queues (R159, R161), and mixed tags of popped entries (R160). DESIGN CHOICE (log 67): a word that meets several of these traps
takes the register-bound fault before the queue-closed trap, and that before a tag trap. -/
def beginVec (s : State) (srcs dsts : List Nat) : Except Stop Unit := do
  let T := s.mine
  let m := s.me.mask
  let regs := (srcs ++ dsts).filter (fun f => !isPort f)
  require (regs.all (fun r => !T.regBusy r m)) .stall
  checkBound s regs
  let pops := portsOf srcs
  let pushes := portsOf dsts
  forAll pops (checkPop s)
  forAll pushes (checkPush s)
  let ls := T.lanesOf m
  require (pops.all (fun q => ls.all (T.headFilled q))) .block
  require (pushes.all (fun q => ls.all (fun l => decide ((T.queue q l).length + T.heldPops q l < Config.queueDepth + bit1 (pops.contains q))))) .block
  forAll pops (fun q => tagTrap T m cTag (mixedGroups T m q))

/-- The value of a vector field in a lane. -/
def Team.field (T : Team) (f l : Nat) : W32 := if isPort f then T.headVal (f - 120) l else T.vr f l
/-- The tag of a vector field in a group: the register's, or that of the popped entries (R160). -/
def Team.fieldTag (T : Team) (m : Mask) (f g : Nat) : BitVec 4 :=
  if isPort f then T.headTag (f - 120) (T.lowest (m &&& T.groupMask g)) else T.vtag f g

/-- The groups of a mask in which a condition on the tags of some fields fails (R83). -/
def failGroups (T : Team) (m : Mask) (fs : List Nat) (ok : List (BitVec 4) → Bool) : List Nat :=
  (T.groupsOf m).filter (fun g => !ok (fs.map (fun f => T.fieldTag m f g)))

/-- A pushed result must carry the queue's tag or RAW (R160). -/
def checkResult (s : State) (d : Nat) (tag : Nat → BitVec 4) : Except Stop Unit :=
  if isPort d then
    tagTrap s.mine s.me.mask cTag ((s.mine.groupsOf s.me.mask).filter (fun g => tag g ≠ tRaw ∧ tag g ≠ s.mine.qtag (d - 120)))
  else .ok ()

/-- Writes results to a register or pushes them. -/
def Team.putField (T : Team) (d : Nat) (m : Mask) (tag : Nat → BitVec 4) (vals : List (Nat × W32)) : Team :=
  if isPort d then T.push (d - 120) vals else T.putVec d m tag vals

/-- Pops every queue that a word names as a source, once. -/
def Team.popAll (T : Team) (srcs : List Nat) (m : Mask) : Team := (portsOf srcs).foldl (fun T q => T.pop q m) T

/-- What a lane of a vector word produces: its value, its flags, and its generator's new state if it took steps. -/
structure LaneRes where
  v   : W32
  fl  : Flags
  gen : Option W64
deriving DecidableEq, Repr

/-- A value with no flags. -/
def plain (v : W32) : LaneRes := { v := v, fl := 0, gen := none }

/-- The generator of a lane; at team start (l + 1) × the seed (R66). -/
def Team.gen (T : Team) (l : Nat) : W64 := SMap.get 0 T.gens l

/-- The tag checks of a word in every group of the mask, before its first pass (R83). -/
def tagChecks (s : State) (srcs : List Nat) (rule : List (BitVec 4) → Except Nat (BitVec 4)) : Except Stop Unit := do
  let T := s.mine
  let m := s.me.mask
  let fails (c : Nat) := (T.groupsOf m).filter (fun g =>
    match rule (srcs.map (fun x => T.fieldTag m x g)) with | .error e => e == c | .ok _ => false)
  tagTrap T m cRefTag (fails cRefTag)
  tagTrap T m cTag (fails cTag)

/-- The result tag that a rule gives a group. -/
def Team.resTag (T : Team) (m : Mask) (srcs : List Nat) (rule : List (BitVec 4) → Except Nat (BitVec 4)) (g : Nat) : BitVec 4 :=
  match rule (srcs.map (fun x => T.fieldTag m x g)) with
  | .ok t => t
  | .error _ => tRaw

/-- What every active lane produces from its tags and operands. -/
def Team.laneOut (T : Team) (m : Mask) (srcs : List Nat) (f : Nat → List (BitVec 4) → List W32 → LaneRes) : List (Nat × LaneRes) :=
  (T.lanesOf m).map (fun l =>
    (l, f l (srcs.map (fun x => T.fieldTag m x (l / T.gw))) (srcs.map (fun x => T.field x l))))

/-- Generators that took steps keep their new states (03 R68). -/
def Team.putGens (T : Team) (out : List (Nat × LaneRes)) : Team :=
  out.foldl (fun T p => match p.2.gen with | .some x => { T with gens := SMap.set 0 T.gens p.1 x } | .none => T) T

/-- The flags of all lanes. -/
def allFlags (out : List (Nat × LaneRes)) : Flags := out.foldl (fun a p => a ||| p.2.fl) 0

/-- The checks of a per-lane vector word, before its first pass: what every vector word meets, the tag rule in every group (which
answers the result tag, or the cause of its trap), the result's tag. -/
def vecChecks (s : State) (srcs : List Nat) (d : Nat) (rule : List (BitVec 4) → Except Nat (BitVec 4)) : Except Stop Unit := do
  beginVec s srcs [d]
  tagChecks s srcs rule
  checkResult s d (s.mine.resTag s.me.mask srcs rule)

/-- What a per-lane vector word does to its team: pops, the write or push, generators. -/
def Team.vecTeam (T : Team) (m : Mask) (srcs : List Nat) (d : Nat) (rule : List (BitVec 4) → Except Nat (BitVec 4))
    (out : List (Nat × LaneRes)) : Team :=
  ((T.popAll srcs m).putField d m (T.resTag m srcs rule) (out.map (fun p => (p.1, p.2.v)))).putGens out

/-- The effect of a per-lane vector word: its team, the flags of all lanes, the strand's advance. -/
def State.vecEffect (s : State) (srcs : List Nat) (d : Nat) (rule : List (BitVec 4) → Except Nat (BitVec 4))
    (f : Nat → List (BitVec 4) → List W32 → LaneRes) : State :=
  let out := s.mine.laneOut s.me.mask srcs f
  ((s.onMine (fun T => T.vecTeam s.me.mask srcs d rule out)).orFlags (allFlags out)).advance

/-- A per-lane vector word. -/
def vecWord (s : State) (srcs : List Nat) (d : Nat) (rule : List (BitVec 4) → Except Nat (BitVec 4))
    (f : Nat → List (BitVec 4) → List W32 → LaneRes) : Except Stop State := do
  vecChecks s srcs d rule
  .ok (s.vecEffect srcs d rule f)

/-- The checks of a word that writes a predicate. -/
def predChecks (s : State) (srcs : List Nat) (rule : List (BitVec 4) → Except Nat (BitVec 4)) : Except Stop Unit := do
  beginVec s srcs []
  tagChecks s srcs rule

/-- A word that writes a predicate in its active lanes: `f` gives a lane's new bit from its old one. -/
def predWord (s : State) (srcs : List Nat) (pd : BitVec 3) (rule : List (BitVec 4) → Except Nat (BitVec 4))
    (f : Nat → List (BitVec 4) → List W32 → Bool × Flags) : Except Stop State := do
  predChecks s srcs rule
  let T := s.mine
  let m := s.me.mask
  let out := T.laneOut m srcs (fun l ts vs => { v := BitVec.ofNat 32 (bit1 (f l ts vs).1), fl := (f l ts vs).2, gen := none })
  let bits := maskOf ((out.filter (fun p => p.2.v ≠ 0)).map Prod.fst)
  .ok (((s.onMine (fun _ => (T.popAll srcs m).setPred pd m bits)).orFlags (allFlags out)).advance)

/-! Tag rules (04 Table 4-2). -/

/-- The typed class: one common tag, in the instruction's list. -/
def ruleTyped (ok : BitVec 4 → Bool) (ts : List (BitVec 4)) : Except Nat (BitVec 4) :=
  match ts with
  | [] => .error cTag
  | t :: rest => if rest.all (fun u => u == t) && ok t then .ok t else .error cTag

/-- The typed class with a result tag of its own. -/
def ruleTypedTo (ok : BitVec 4 → Bool) (out : BitVec 4) (ts : List (BitVec 4)) : Except Nat (BitVec 4) :=
  match ruleTyped ok ts with
  | .ok _ => .ok out
  | .error e => .error e

/-- The bitwise class: tags agree or one is RAW; REF gives RAW. -/
def ruleBitwise (ts : List (BitVec 4)) : Except Nat (BitVec 4) :=
  match ts with
  | [t] => .ok (if t = tRef then tRaw else t)
  | [t, u] =>
    if t = u then .ok (if t = tRef then tRaw else t)
    else if t = tRaw ∨ u = tRaw then .ok tRaw
    else .error cTag
  | _ => .error cTag

/-- The move class: the source's tag, REF giving RAW (R84). -/
def ruleMove (ts : List (BitVec 4)) : Except Nat (BitVec 4) :=
  match ts with
  | t :: _ => .ok (if t = tRef then tRaw else t)
  | [] => .error cTag

/-- The any class: every tag but REF, which is the reference-tag trap. -/
def ruleAny (out : BitVec 4) (ts : List (BitVec 4)) : Except Nat (BitVec 4) :=
  if ts.any (fun t => t == tRef) then .error cRefTag else .ok out

/-- No sources: the result tag alone. -/
def ruleConst (out : BitVec 4) (_ : List (BitVec 4)) : Except Nat (BitVec 4) := .ok out

end Sys2Proof.Machine
end

