-- ==== Sys2Proof/Machine/Caches.lean ====
section
/-! DEFINITION. The caches: homes and lines of the L2, the L1D of a core, and what a read or a write at a home slice does to them
(09 R183; 17 R289 to R293; 18 R316, R317). -/

namespace Sys2Proof.Machine

/-! Classes and homes. -/

/-- The eviction class of an address under a policy operand: 0 FIRST, 1 NORMAL, 2 RETAIN (09 R183). -/
def evictionClass (policy : W32) (e : W64) : Nat :=
  let a : W32 := (e >>> 7).setWidth 32
  let h := (fld (a * 0x2545F491#32) 24 8).toNat
  let t1 := (fld policy 24 8).toNat
  let t2 := if fld policy 16 8 = 0 then 256 else (fld policy 16 8).toNat
  if h < t1 then 0 else if t2 ≤ h then 2 else 1

/-- The HBM stack that holds a 4 KiB frame, and the compute die that the stack is attached to (18 R314). -/
def stackOf (pa : Nat) : Nat := (pa / 2 ^ 12 % 16) ^^^ (pa / 2 ^ 20 % 16)
def stackDie (pa : Nat) : Nat := stackOf pa / 2

/-- The fold of a hash to a slice (17 R292). -/
def foldHome (h : W32) : Nat := (h ^^^ (h >>> 15)).toNat % 384
/-- The home slice of a linear line. -/
def homeLinear (pa : Nat) : Nat :=
  let a := pa / 256
  foldHome ((BitVec.ofNat 32 a * 0x9E3779B1#32) ^^^ (BitVec.ofNat 32 (a / 2 ^ 32 % 2 ^ 8) * 0x85EBCA77#32))
/-- The home slice of a tile line. -/
def homeTile (ctx num row col : Nat) : Nat :=
  foldHome ((BitVec.ofNat 32 row * 0x9E3779B1#32) ^^^ (BitVec.ofNat 32 col * 0x85EBCA77#32)
            ^^^ (BitVec.ofNat 32 num * 0x2C1B3C6D#32) ^^^ (BitVec.ofNat 32 ctx * 0x27D4EB2F#32))

/-! L2 lines. They hold no bytes of their own: a byte is valid in one line at most (R291), so memory holds its value. -/

/-- The bytes that a line holds, as runs. -/
def L2Line.bytes (l : L2Line) : List (Nat × Nat) := if l.tile.isSome then l.runs else [(256 * l.line, 256)]
/-- Whether two runs share a byte. -/
def runsMeet (a b : List (Nat × Nat)) : Bool :=
  a.any (fun x => b.any (fun y => decide (x.1 < y.1 + y.2) && decide (y.1 < x.1 + x.2)))

/-- A way that may hold a new line of a slice: one of the sixteen that is neither gated nor waking (R293). -/
def State.openWays (s : State) (slice : Nat) : List Nat :=
  (List.range 16).filter (fun w => (s.gatedWays.find? (fun p => p.1 == 8 * slice + w / 2)).isNone)

/-- The set of its slice in which a line lies, one of 512 (R292; log 31). -/
def L2Line.set (l : L2Line) : Nat :=
  (match l.tile with
   | some t => Config.l2Set (1 + t.1) t.2.1 t.2.2.1 t.2.2.2
   | none => Config.l2Set 0 l.line 0 0) % 512

/-- The entry that goes first when a set must evict: the least recently used of the lowest class, FIRST before NORMAL before RETAIN
(R183). A key is a class and a place in the order of accesses. -/
def victim {α : Type} (key : α → Nat × Nat) (l : List α) : Option α :=
  match l with
  | [] => none
  | x :: rest => some (rest.foldl (fun b y =>
      if (key y).1 < (key b).1 ∨ ((key y).1 = (key b).1 ∧ (key y).2 < (key b).2) then y else b) x)

/-- A line enters its slice: lines that hold any of its bytes leave (R291), and it takes a free way of its set, or the way of the line that
the set evicts (R183, R292). Which free way it takes is open (log 2). -/
def placeLine (nonce : Nat) (ways : List Nat) (l2 : List L2Line) (new : L2Line) : List L2Line :=
  let kept := l2.filter (fun l => !runsMeet l.bytes new.bytes)
  let set := kept.filter (fun l => l.slice == new.slice && decide (l.set = new.set))
  let free := ways.filter (fun w => set.all (fun l => l.way ≠ w))
  if free.isEmpty then
    match victim (fun l => (l.cls, l.used)) (set.filter (fun l => ways.contains l.way)) with
    | some v => kept.filter (fun l => l ≠ v) ++ [{ new with way := v.way }]
    | none => kept
  else kept ++ [{ new with way := drawFrom nonce free }]

/-- A linear line is filled at its home, or takes the class of an access to it (R183, R289, R291). Whether the other sector comes with it
is open (log 2). -/
def State.fillLinear (s : State) (pa cls : Nat) : State :=
  let line := pa / 256
  let hi := decide (pa / 128 % 2 = 1)
  let here (l : L2Line) : Bool := l.tile.isNone && l.line == line
  if s.l2.any here then
    { s with touched := s.touched + 1
             l2 := s.l2.map (fun l => if here l then { l with cls := cls, sec0 := l.sec0 || !hi, sec1 := l.sec1 || hi, used := s.touched } else l) }
  else
    let both := decide (Config.pick (s.nonce + 1) % 2 = 0)
    let new : L2Line := { slice := homeLinear pa, tile := none, line := line, sec0 := both || !hi, sec1 := both || hi, cls := cls, way := 0,
                          runs := [], used := s.touched }
    { s with l2 := placeLine s.nonce (s.openWays new.slice) s.l2 new, nonce := s.nonce + 2, touched := s.touched + 1 }

/-- A tile line is filled, or takes the class of an access to it; the other lines that hold any of its bytes are written back and
invalidated (R291). -/
def State.fillTile (s : State) (ctx num row col cls : Nat) (runs : List (Nat × Nat)) : State :=
  let key := some (ctx, num, row, col)
  if s.l2.any (fun l => l.tile == key) then
    { s with touched := s.touched + 1
             l2 := s.l2.map (fun l => if l.tile == key then { l with cls := cls, used := s.touched } else l) }
  else
    let new : L2Line := { slice := homeTile ctx num row col, tile := key, line := 0, sec0 := true, sec1 := true, cls := cls, way := 0,
                          runs := runs, used := s.touched }
    { s with l2 := placeLine s.nonce (s.openWays new.slice) s.l2 new, nonce := s.nonce + 1, touched := s.touched + 1 }

/-- Lines that hold any byte of a run leave the L2. -/
def State.dropLines (s : State) (runs : List (Nat × Nat)) : State := { s with l2 := s.l2.filter (fun l => !runsMeet l.bytes runs) }

/-! L1D lines. -/

/-- The physical lines that a team's private objects lie in (19 R343). -/
def State.privatePhys (s : State) (t : Nat) : List Nat :=
  let T := s.team t
  T.spans.flatMap (fun p => (indicesWhere 2048 (fun i => p.priv.getLsbD i)).flatMap (fun i =>
    let va := va48 (p.base + BitVec.ofNat 64 (128 * i))
    match s.walk T.ctx va with | some l => [l.pa va / 128] | none => []))

/-- The physical lines that private objects of a core's teams lie in. -/
def State.privateAt (s : State) (core : Nat) : List Nat :=
  (s.teams.filter (fun p => p.2.live && p.2.core == core && !p.2.spans.isEmpty)).flatMap (fun p => s.privatePhys p.1)

/-- Invalidates the lines of a core's L1D that hold no private object (18 R317; 19 R345). -/
def State.dropL1 (s : State) (core : Nat) : State :=
  if (s.core core).l1d.isEmpty then s
  else s.onCore core (fun k => { k with l1d := k.l1d.filter (fun p => (s.privateAt core).contains p.1) })

/-- A line as its home holds it. -/
def State.homeLine (s : State) (line : Nat) : L1Line :=
  { data := BitVec.ofNat 1024 (s.memNat (128 * line) 128)
    tags := BitVec.ofNat 16 ((List.range 16).foldl (fun m i => m + bit1 (SMap.has s.memTags (16 * line + i)) * 2 ^ i) 0) }

/-- The line of an L1D, if it holds it. -/
def Core.l1 (k : Core) (line : Nat) : Option L1Line := (k.l1d.find? (fun p => p.1 == line)).map Prod.snd

/-- Bytes of a line as a number. -/
def L1Line.num (l : L1Line) (off n : Nat) : Nat := l.data.toNat / 2 ^ (8 * off) % 2 ^ (8 * n)
/-- The tag of a word of a line. -/
def L1Line.tag (l : L1Line) (off : Nat) : Bool := l.tags.getLsbD (off / 8)

/-- Rereads from the home the bytes of a run that an L1D holds: a core sees its own writes (R317). Lines keep their other bytes. -/
def L1Line.refresh (l h : L1Line) (off n : Nat) : L1Line :=
  let m : BitVec 1024 := BitVec.ofNat 1024 ((2 ^ (8 * n) - 1) * 2 ^ (8 * off))
  let tm : BitVec 16 := BitVec.ofNat 16 ((2 ^ ((off + n - 1) / 8 + 1) - 1) / 2 ^ (off / 8) * 2 ^ (off / 8))
  { l with data := (l.data &&& ~~~m) ||| (h.data &&& m), tags := (l.tags &&& ~~~tm) ||| (h.tags &&& tm) }

def State.refreshL1 (s : State) (core pa n : Nat) : State :=
  let line := pa / 128
  match (s.core core).l1 line with
  | none => s
  | some l => s.onCore core (fun k => { k with l1d := SMap.put k.l1d line (l.refresh (s.homeLine line) (pa % 128) n) })

/-- Sets of an L1D, and its ways: 2,048 lines in all, 256 KiB (08 R155; log 31). -/
def l1SetOf (line : Nat) : Nat := Config.l1Set line % (Config.l1Sets % 2048 + 1)
def l1Ways : Nat := 2048 / (Config.l1Sets % 2048 + 1)

/-- A line enters an L1D; a full set evicts first (R183). -/
def Core.fillL1 (k : Core) (line : Nat) (l : L1Line) : Core :=
  let set := k.l1d.filter (fun p => p.1 ≠ line && decide (l1SetOf p.1 = l1SetOf line))
  let kept := if set.length < l1Ways then k.l1d else
    match victim (fun p => (p.2.cls, p.2.used)) set with
    | some v => SMap.erase k.l1d v.1
    | none => k.l1d
  { k with l1d := SMap.put kept line l }

/-- A line of an L1D takes the class of an access to it (R183). -/
def State.hitL1 (s : State) (core pa cls : Nat) : State :=
  match (s.core core).l1 (pa / 128) with
  | none => s
  | some l =>
    { (s.onCore core (fun k => { k with l1d := SMap.put k.l1d (pa / 128) { l with cls := cls, used := s.touched } })) with touched := s.touched + 1 }

/-- What a read of n bytes within one line answers: the number, the tag of its first word, and the state. -/
structure Got where
  val : Nat
  tag : Bool
  st  : State

/-- Reads at the home slice. -/
def State.readHome (s : State) (pa n cls : Nat) : Got :=
  { val := s.memNat pa n, tag := SMap.has s.memTags (pa / 8), st := s.fillLinear pa cls }

/-- Reads through the L1D of a core: a line it holds, or one it fills from the home. -/
def State.readL1 (s : State) (core pa n cls : Nat) : Got :=
  let line := pa / 128
  match (s.core core).l1 line with
  | some l => { val := l.num (pa % 128) n, tag := l.tag (pa % 128), st := s.hitL1 core pa cls }
  | none =>
    let l : L1Line := { s.homeLine line with cls := cls, used := s.touched }
    { val := l.num (pa % 128) n, tag := l.tag (pa % 128)
      st := (s.fillLinear pa cls).onCore core (fun k => { k.fillL1 line l with l1dMisses := k.l1dMisses + 1 }) }

/-- Writes at the home slice, from a core: its own L1D sees the write. -/
def State.writeHome (s : State) (core pa : Nat) (bs : List Byte) (cls : Nat) : State :=
  (((s.store pa bs).fillLinear pa cls).refreshL1 core pa bs.length).hitL1 core pa cls

/-- Reads at the home slice for a core: a line that its L1D holds does not keep older bytes than these (18 R333). -/
def State.readFor (s : State) (core pa n cls : Nat) : Got :=
  let g := s.readHome pa n cls
  { g with st := g.st.refreshL1 core pa n }

/-- A write of a whole 128-byte sector clears its poison (17 R311). -/
def State.clearPoison (s : State) (pa : Nat) : State := { s with poison := SMap.erase s.poison (pa / 128) }

end Sys2Proof.Machine
end

