-- ==== Sys2Proof/Decode.lean ====
section
/-! DEFINITION. The decoder (02 R33, R43 to R48) and, after it, the encoder, both from the encoding tables of the spec. -/

namespace Sys2Proof

/-- Why bits are no instruction of the table (02 R39 checks 1 and 2, R44, R45). -/
inductive DecodeError where
  | truncated                      -- fewer than four bytes
  | zeroWord                       -- the word 0x0000_0000 (R39)
  | reservedOpcode (op : Nat)      -- an opcode Table 2-5 reserves
  | reservedFields (op : Nat)      -- a fixed field or a sub-function holds a reserved value
deriving DecidableEq, Repr

/-- The chain bit C of a word (02 R33). -/
def chainBit (w : W32) : Bool := w.getLsbD 31

/-- The instruction that an opcode and the payload of the 31 bits below the chain bit give, by format (02 R43, Table 2-5, Tables 2-6 to
2-8). -/
def decodeOp (op : Nat) (w : BitVec 31) : Except DecodeError Instr :=
  match op with
  | 1 => if fld w 0 24 = 0 then .ok .nop
      else .error (.reservedFields 1)
  | 2 => .ok (.bra (fld w 0 24))
  | 3 => .ok (.brc (fld w 18 6) (fld w 15 3) (fld w 0 15))
  | 4 => if fld w 0 12 = 0 ∧ fld w 18 6 = 0 then .ok (.bri (fld w 12 6))
      else .error (.reservedFields 4)
  | 5 => .ok (.call (fld w 0 24))
  | 6 => if fld w 0 24 = 0 then .ok .ret
      else .error (.reservedFields 6)
  | 7 => .ok (.divb (fld w 21 3) (fld w 20 1) (fld w 0 20))
  | 8 => if fld w 0 24 = 0 then .ok .join
      else .error (.reservedFields 8)
  | 9 => if fld w 0 24 = 0 then .ok .endStrand
      else .error (.reservedFields 9)
  | 10 => if fld w 16 8 = 0 then .ok (.yield (fld w 0 16))
      else .error (.reservedFields 10)
  | 11 => .ok (.loop (fld w 18 6) (fld w 15 3) (fld w 0 15))
  | 12 => if fld w 16 8 = 0 then .ok (.trap (fld w 0 16))
      else .error (.reservedFields 12)
  | 13 => if fld w 16 8 = 0 then .ok (.bkpt (fld w 0 16))
      else .error (.reservedFields 13)
  | 14 => if fld w 16 8 = 0 then .ok (.sysc (fld w 0 16))
      else .error (.reservedFields 14)
  | 16 => if fld w 0 6 = 0 then .ok (.sadd (fld w 18 6) (fld w 12 6) (fld w 6 6))
      else if fld w 0 6 = 1 then .ok (.ssub (fld w 18 6) (fld w 12 6) (fld w 6 6))
      else if fld w 0 6 = 2 then .ok (.smul (fld w 18 6) (fld w 12 6) (fld w 6 6))
      else if fld w 0 6 = 3 then .ok (.smulh (fld w 18 6) (fld w 12 6) (fld w 6 6))
      else if fld w 0 6 = 4 then .ok (.sand (fld w 18 6) (fld w 12 6) (fld w 6 6))
      else if fld w 0 6 = 5 then .ok (.sor (fld w 18 6) (fld w 12 6) (fld w 6 6))
      else if fld w 0 6 = 6 then .ok (.sxor (fld w 18 6) (fld w 12 6) (fld w 6 6))
      else if fld w 0 6 = 7 then .ok (.sshl (fld w 18 6) (fld w 12 6) (fld w 6 6))
      else if fld w 0 6 = 8 then .ok (.sshr (fld w 18 6) (fld w 12 6) (fld w 6 6))
      else if fld w 0 6 = 9 then .ok (.ssra (fld w 18 6) (fld w 12 6) (fld w 6 6))
      else if fld w 0 6 = 10 then .ok (.smin (fld w 18 6) (fld w 12 6) (fld w 6 6))
      else if fld w 0 6 = 11 then .ok (.smax (fld w 18 6) (fld w 12 6) (fld w 6 6))
      else if fld w 0 6 = 12 then .ok (.slt (fld w 18 6) (fld w 12 6) (fld w 6 6))
      else if fld w 0 6 = 13 then .ok (.sltn (fld w 18 6) (fld w 12 6) (fld w 6 6))
      else if fld w 0 6 = 14 then .ok (.ssel (fld w 18 6) (fld w 12 6) (fld w 6 6))
      else .error (.reservedFields 16)
  | 17 => .ok (.saddi (fld w 18 6) (fld w 12 6) (fld w 0 12))
  | 18 => .ok (.slui (fld w 18 6) (fld w 0 18))
  | 19 => if fld w 12 6 = 0 then .ok (.srd (fld w 18 6) (fld w 0 12))
      else .error (.reservedFields 19)
  | 20 => if fld w 18 6 = 0 then .ok (.swr (fld w 12 6) (fld w 0 12))
      else .error (.reservedFields 20)
  | 24 => if fld w 0 17 = 0 then .ok (.regacq (fld w 21 3) (fld w 17 4))
      else .error (.reservedFields 24)
  | 25 => if fld w 0 17 = 0 then .ok (.regrel (fld w 21 3) (fld w 17 4))
      else .error (.reservedFields 25)
  | 26 => if fld w 0 17 = 0 then .ok (.reggive (fld w 21 3) (fld w 17 4))
      else .error (.reservedFields 26)
  | 27 => if fld w 0 17 = 0 then .ok (.regclaim (fld w 21 3) (fld w 17 4))
      else .error (.reservedFields 27)
  | 28 => if fld w 20 4 = 0 then .ok (.vidx (fld w 18 2) (fld w 12 6) (fld w 0 12))
      else .error (.reservedFields 28)
  | 29 => if fld w 0 7 = 0 ∧ fld w 23 1 = 0 then .ok (.vrdx (fld w 21 2) (fld w 14 7) (fld w 7 7))
      else .error (.reservedFields 29)
  | 30 => if fld w 0 7 = 0 ∧ fld w 23 1 = 0 then .ok (.vwrx (fld w 21 2) (fld w 14 7) (fld w 7 7))
      else .error (.reservedFields 30)
  | 31 => if fld w 0 6 = 0 then .ok (.vtag (fld w 20 4) (fld w 13 7) (fld w 6 7))
      else .error (.reservedFields 31)
  | 32 => .ok (.vadd (fld w 21 3) (fld w 14 7) (fld w 7 7) (fld w 0 7))
  | 33 => .ok (.vsub (fld w 21 3) (fld w 14 7) (fld w 7 7) (fld w 0 7))
  | 34 => .ok (.vmul (fld w 21 3) (fld w 14 7) (fld w 7 7) (fld w 0 7))
  | 35 => .ok (.vfma (fld w 21 3) (fld w 14 7) (fld w 7 7) (fld w 0 7))
  | 36 => if fld w 21 3 = 0 then .ok (.vmin (fld w 14 7) (fld w 7 7) (fld w 0 7))
      else .error (.reservedFields 36)
  | 37 => if fld w 21 3 = 0 then .ok (.vmax (fld w 14 7) (fld w 7 7) (fld w 0 7))
      else .error (.reservedFields 37)
  | 38 => if fld w 0 7 = 0 then .ok (.vabs (fld w 21 3) (fld w 14 7) (fld w 7 7))
      else .error (.reservedFields 38)
  | 39 => if fld w 0 7 = 0 then .ok (.vneg (fld w 21 3) (fld w 14 7) (fld w 7 7))
      else .error (.reservedFields 39)
  | 40 => if fld w 21 3 = 0 then .ok (.vand (fld w 14 7) (fld w 7 7) (fld w 0 7))
      else .error (.reservedFields 40)
  | 41 => if fld w 21 3 = 0 then .ok (.vor (fld w 14 7) (fld w 7 7) (fld w 0 7))
      else .error (.reservedFields 41)
  | 42 => if fld w 21 3 = 0 then .ok (.vxor (fld w 14 7) (fld w 7 7) (fld w 0 7))
      else .error (.reservedFields 42)
  | 43 => if fld w 0 7 = 0 ∧ fld w 21 3 = 0 then .ok (.vnot (fld w 14 7) (fld w 7 7))
      else .error (.reservedFields 43)
  | 44 => if fld w 21 3 = 0 then .ok (.vshl (fld w 14 7) (fld w 7 7) (fld w 0 7))
      else .error (.reservedFields 44)
  | 45 => if fld w 21 3 = 0 then .ok (.vshr (fld w 14 7) (fld w 7 7) (fld w 0 7))
      else .error (.reservedFields 45)
  | 46 => if fld w 21 3 = 0 then .ok (.vsra (fld w 14 7) (fld w 7 7) (fld w 0 7))
      else .error (.reservedFields 46)
  | 47 => if fld w 0 7 = 0 ∧ fld w 21 3 = 0 then .ok (.vmov (fld w 14 7) (fld w 7 7))
      else .error (.reservedFields 47)
  | 48 => if fld w 10 7 = 0 then .ok (.vmovi (fld w 17 7) (fld w 0 10))
      else if fld w 10 7 = 1 then .ok (.viota (fld w 17 7) (fld w 0 10))
      else .error (.reservedFields 48)
  | 49 => if fld w 0 7 = 0 ∧ fld w 13 1 = 0 then .ok (.vmovs (fld w 21 3) (fld w 14 7) (fld w 7 6))
      else .error (.reservedFields 49)
  | 50 => .ok (.vaddi (fld w 17 7) (fld w 10 7) (fld w 0 10))
  | 51 => .ok (.vcmp (fld w 21 3) (fld w 18 3) (fld w 11 7) (fld w 4 7) (fld w 0 4))
  | 52 => .ok (.vsel (fld w 21 3) (fld w 14 7) (fld w 7 7) (fld w 0 7))
  | 53 => .ok (.vcvt (fld w 20 4) (fld w 13 7) (fld w 6 7) (fld w 3 3) (fld w 2 1) (fld w 0 2))
  | 54 => if fld w 3 3 = 0 then .ok (.vpack (fld w 20 4) (fld w 13 7) (fld w 6 7) (fld w 2 1) (fld w 0 2))
      else .error (.reservedFields 54)
  | 55 => if fld w 2 4 = 0 then .ok (.vunpk (fld w 20 4) (fld w 13 7) (fld w 6 7) (fld w 0 2))
      else .error (.reservedFields 55)
  | 56 => if fld w 21 3 = 0 then .ok (.vdot (fld w 14 7) (fld w 7 7) (fld w 0 7))
      else .error (.reservedFields 56)
  | 57 => if fld w 0 7 = 0 ∧ fld w 21 3 = 0 then .ok (.vpopc (fld w 14 7) (fld w 7 7))
      else .error (.reservedFields 57)
  | 58 => if fld w 0 7 = 0 ∧ fld w 21 3 = 0 then .ok (.vclz (fld w 14 7) (fld w 7 7))
      else .error (.reservedFields 58)
  | 59 => if fld w 0 4 = 0 ∧ fld w 7 4 = 0 ∧ fld w 14 7 = 0 then .ok (.pand (fld w 21 3) (fld w 11 3) (fld w 4 3))
      else if fld w 0 4 = 1 ∧ fld w 7 4 = 0 ∧ fld w 14 7 = 0 then .ok (.por (fld w 21 3) (fld w 11 3) (fld w 4 3))
      else if fld w 0 11 = 2 ∧ fld w 14 7 = 0 then .ok (.pnot (fld w 21 3) (fld w 11 3))
      else .error (.reservedFields 59)
  | 60 => if fld w 14 10 = 0 then .ok (.vseed (fld w 7 7) (fld w 0 7))
      else .error (.reservedFields 60)
  | 61 => if fld w 0 14 = 0 then .ok (.vrand (fld w 21 3) (fld w 14 7))
      else .error (.reservedFields 61)
  | 62 => if fld w 0 3 = 6 then .ok (.leal (fld w 20 4) (fld w 13 7) (fld w 6 7) (fld w 3 3))
      else .error (.reservedFields 62)
  | 64 => if fld w 0 7 = 0 ∧ fld w 21 3 = 0 then .ok (.vexpf (fld w 14 7) (fld w 7 7))
      else .error (.reservedFields 64)
  | 65 => if fld w 0 7 = 0 then .ok (.vrndi (fld w 21 3) (fld w 14 7) (fld w 7 7))
      else .error (.reservedFields 65)
  | 66 => if fld w 21 3 = 0 then .ok (.vsclb (fld w 14 7) (fld w 7 7) (fld w 0 7))
      else .error (.reservedFields 66)
  | 67 => if fld w 0 7 = 0 ∧ fld w 21 3 = 0 then .ok (.vexpx (fld w 14 7) (fld w 7 7))
      else if fld w 0 7 = 0 ∧ fld w 21 3 = 1 then .ok (.vexpxMant (fld w 14 7) (fld w 7 7))
      else .error (.reservedFields 67)
  | 68 => if fld w 0 7 = 0 ∧ fld w 21 3 = 0 then .ok (.vlogf (fld w 14 7) (fld w 7 7))
      else .error (.reservedFields 68)
  | 69 => if fld w 0 7 = 0 ∧ fld w 21 3 = 0 then .ok (.vrcp (fld w 14 7) (fld w 7 7))
      else .error (.reservedFields 69)
  | 70 => if fld w 0 7 = 0 ∧ fld w 21 3 = 0 then .ok (.vrsq (fld w 14 7) (fld w 7 7))
      else .error (.reservedFields 70)
  | 71 => if fld w 0 7 = 0 ∧ fld w 21 3 = 0 then .ok (.vsinp (fld w 14 7) (fld w 7 7))
      else .error (.reservedFields 71)
  | 72 => .ok (.vshfl (fld w 21 3) (fld w 14 7) (fld w 7 7) (fld w 0 7))
  | 73 => if fld w 21 3 = 0 then .ok (.vbcst (fld w 14 7) (fld w 7 7) (fld w 0 7))
      else .error (.reservedFields 73)
  | 74 => if fld w 0 7 = 0 then .ok (.vred (fld w 21 3) (fld w 14 7) (fld w 7 7))
      else .error (.reservedFields 74)
  | 75 => if fld w 0 7 = 0 then .ok (.vscan (fld w 21 3) (fld w 14 7) (fld w 7 7))
      else .error (.reservedFields 75)
  | 76 => if fld w 0 7 = 0 ∧ fld w 10 4 = 0 then .ok (.vbal (fld w 21 3) (fld w 14 7) (fld w 7 3))
      else .error (.reservedFields 76)
  | 77 => if fld w 0 7 = 0 then .ok (.vconf (fld w 21 3) (fld w 14 7) (fld w 7 7))
      else .error (.reservedFields 77)
  | 78 => .ok (.visect (fld w 21 3) (fld w 14 7) (fld w 7 7) (fld w 0 7))
  | 80 => .ok (.lds (fld w 20 4) (fld w 13 7) (fld w 6 7) (fld w 2 4) (fld w 0 2))
  | 81 => .ok (.sts (fld w 20 4) (fld w 13 7) (fld w 6 7) (fld w 2 4) (fld w 0 2))
  | 82 => .ok (.atoms (fld w 20 4) (fld w 13 7) (fld w 11 2) (fld w 6 5) (fld w 2 4) (fld w 0 2))
  | 83 => .ok (.cass (fld w 20 4) (fld w 13 7) (fld w 6 7) (fld w 2 4) (fld w 0 2))
  | 84 => if fld w 0 24 = 0 then .ok .waits
      else .error (.reservedFields 84)
  | 85 => if fld w 0 9 = 0 ∧ fld w 16 8 = 0 then .ok (.qcfg (fld w 13 3) (fld w 9 4))
      else .error (.reservedFields 85)
  | 86 => if fld w 3 15 = 0 then .ok (.qstat (fld w 18 6) (fld w 0 3))
      else .error (.reservedFields 86)
  | 87 => if fld w 0 13 = 0 ∧ fld w 16 8 = 0 then .ok (.qdrn (fld w 13 3))
      else .error (.reservedFields 87)
  | 88 => if fld w 4 20 = 0 then .ok (.tbar (fld w 0 4))
      else .error (.reservedFields 88)
  | 89 => if fld w 0 1 = 0 then .ok (.ldl (fld w 20 4) (fld w 13 7) (fld w 6 7) (fld w 3 3) (fld w 1 2))
      else .error (.reservedFields 89)
  | 90 => if fld w 0 1 = 0 then .ok (.stl (fld w 20 4) (fld w 13 7) (fld w 6 7) (fld w 3 3) (fld w 1 2))
      else .error (.reservedFields 90)
  | 91 => if fld w 0 1 = 0 then .ok (.atoml (fld w 20 4) (fld w 13 7) (fld w 11 2) (fld w 6 5) (fld w 3 3) (fld w 1 2))
      else .error (.reservedFields 91)
  | 92 => .ok (.ld (fld w 20 4) (fld w 13 7) (fld w 6 7) (fld w 2 4) (fld w 0 2))
  | 93 => .ok (.st (fld w 20 4) (fld w 13 7) (fld w 6 7) (fld w 2 4) (fld w 0 2))
  | 94 => .ok (.ldg (fld w 20 4) (fld w 13 7) (fld w 6 7) (fld w 2 4) (fld w 0 2))
  | 95 => .ok (.stg (fld w 20 4) (fld w 13 7) (fld w 6 7) (fld w 2 4) (fld w 0 2))
  | 96 => .ok (.atom (fld w 20 4) (fld w 13 7) (fld w 11 2) (fld w 6 5) (fld w 2 4) (fld w 0 2))
  | 97 => .ok (.cas (fld w 20 4) (fld w 13 7) (fld w 6 7) (fld w 2 4) (fld w 0 2))
  | 98 => if fld w 6 2 = 0 ∧ fld w 11 13 = 0 then .ok (.waitc (fld w 8 3) (fld w 0 6))
      else .error (.reservedFields 98)
  | 99 => if fld w 4 20 = 0 then .ok (.fence (fld w 0 4))
      else .error (.reservedFields 99)
  | 100 => if fld w 0 2 = 0 then .ok (.pref (fld w 20 4) (fld w 13 7) (fld w 6 7) (fld w 2 4))
      else .error (.reservedFields 100)
  | 101 => .ok (.xprb (fld w 20 4) (fld w 14 6) (fld w 8 6) (fld w 0 8))
  | 102 => if fld w 0 8 = 0 then .ok (.catset (fld w 20 4) (fld w 14 6) (fld w 8 6))
      else .error (.reservedFields 102)
  | 103 => if fld w 3 5 = 0 then .ok (.catget (fld w 20 4) (fld w 14 6) (fld w 8 6) (fld w 0 3))
      else .error (.reservedFields 103)
  | 104 => if fld w 14 6 = 0 then .ok (.catld (fld w 20 4) (fld w 8 6) (fld w 0 8))
      else .error (.reservedFields 104)
  | 105 => if fld w 0 8 = 0 ∧ fld w 14 6 = 0 then .ok (.catfree (fld w 20 4) (fld w 8 6))
      else .error (.reservedFields 105)
  | 106 => if fld w 0 2 = 3 then .ok (.ldref (fld w 20 4) (fld w 13 7) (fld w 6 7) (fld w 2 4))
      else if fld w 0 2 = 2 ∧ fld w 19 1 = 0 then .ok (.ldrefS (fld w 20 4) (fld w 13 6) (fld w 6 7) (fld w 2 4))
      else .error (.reservedFields 106)
  | 107 => if fld w 0 2 = 3 then .ok (.stref (fld w 20 4) (fld w 13 7) (fld w 6 7) (fld w 2 4))
      else if fld w 0 2 = 2 ∧ fld w 19 1 = 0 then .ok (.strefS (fld w 20 4) (fld w 13 6) (fld w 6 7) (fld w 2 4))
      else .error (.reservedFields 107)
  | 108 => if fld w 0 14 = 0 then .ok (.mrsv (fld w 21 3) (fld w 14 7))
      else .error (.reservedFields 108)
  | 109 => if fld w 0 24 = 0 then .ok .mrel
      else .error (.reservedFields 109)
  | 110 => if fld w 6 6 = 0 ∧ fld w 19 1 = 0 then .ok (.mzero (fld w 20 4) (fld w 12 7) (fld w 0 6))
      else .error (.reservedFields 110)
  | 111 => .ok (.mma (fld w 20 4) (fld w 19 1) (fld w 12 7) (fld w 6 6) (fld w 0 6))
  | 112 => .ok (.mmas (fld w 20 4) (fld w 19 1) (fld w 12 7) (fld w 6 6) (fld w 0 6))
  | 113 => if fld w 19 1 = 0 then .ok (.mrd (fld w 20 4) (fld w 12 7) (fld w 6 6) (fld w 0 6))
      else .error (.reservedFields 113)
  | 114 => if fld w 16 4 = 0 then .ok (.msta (fld w 20 4) (fld w 15 1) (fld w 12 3) (fld w 6 6) (fld w 0 6))
      else .error (.reservedFields 114)
  | 115 => if fld w 0 6 = 0 ∧ fld w 15 5 = 0 then .ok (.mqnt (fld w 20 4) (fld w 12 3) (fld w 6 6))
      else .error (.reservedFields 115)
  | 116 => if fld w 21 3 = 0 then .ok (.msal (fld w 14 7) (fld w 7 7) (fld w 0 7))
      else .error (.reservedFields 116)
  | 117 => if fld w 12 4 = 0 ∧ fld w 19 1 = 0 then .ok (.mpairSend (fld w 20 4) (fld w 16 3) (fld w 6 6) (fld w 0 6))
      else if fld w 12 4 = 1 ∧ fld w 19 1 = 0 then .ok (.mpairRecv (fld w 20 4) (fld w 16 3) (fld w 6 6) (fld w 0 6))
      else .error (.reservedFields 117)
  | 118 => if fld w 0 24 = 0 then .ok .cbar
      else .error (.reservedFields 118)
  | 119 => .ok (.ldsc (fld w 20 4) (fld w 13 7) (fld w 6 7) (fld w 2 4) (fld w 0 2))
  | 120 => .ok (.stsc (fld w 20 4) (fld w 13 7) (fld w 6 7) (fld w 2 4) (fld w 0 2))
  | 121 => if fld w 2 6 = 0 ∧ fld w 14 6 = 0 then .ok (.epld (fld w 20 4) (fld w 8 6) (fld w 0 2))
      else .error (.reservedFields 121)
  | 122 => if fld w 2 6 = 0 then .ok (.epgen (fld w 20 4) (fld w 14 6) (fld w 8 6) (fld w 0 2))
      else .error (.reservedFields 122)
  | 123 => if fld w 2 6 = 0 then .ok (.epinv (fld w 20 4) (fld w 14 6) (fld w 8 6) (fld w 0 2))
      else .error (.reservedFields 123)
  | 124 => if fld w 0 8 = 0 then .ok (.epctxAcq (fld w 20 4) (fld w 14 6) (fld w 8 6))
      else if fld w 0 20 = 1 then .ok (.epctxRel (fld w 20 4))
      else .error (.reservedFields 124)
  | 125 => if fld w 3 11 = 0 then .ok (.epstat (fld w 20 4) (fld w 14 6) (fld w 2 1) (fld w 0 2))
      else .error (.reservedFields 125)
  | 126 => if fld w 0 8 = 1 then .ok (.tpref (fld w 20 4) (fld w 14 6) (fld w 8 6))
      else if fld w 0 8 = 2 ∧ fld w 14 6 = 0 then .ok (.tflush (fld w 20 4) (fld w 8 6))
      else if fld w 0 8 = 3 then .ok (.cpy (fld w 20 4) (fld w 14 6) (fld w 8 6))
      else if fld w 0 8 = 4 then .ok (.cpyt (fld w 20 4) (fld w 14 6) (fld w 8 6))
      else if fld w 0 8 = 5 then .ok (.rclaim (fld w 20 4) (fld w 14 6) (fld w 8 6))
      else if fld w 0 8 = 6 then .ok (.rcommit (fld w 20 4) (fld w 14 6) (fld w 8 6))
      else if fld w 0 8 = 7 then .ok (.rawait (fld w 20 4) (fld w 14 6) (fld w 8 6))
      else if fld w 0 8 = 8 then .ok (.rretire (fld w 20 4) (fld w 14 6) (fld w 8 6))
      else if fld w 0 8 = 9 then .ok (.spawn (fld w 20 4) (fld w 14 6) (fld w 8 6))
      else if fld w 0 8 = 10 then .ok (.jobnew (fld w 20 4) (fld w 14 6) (fld w 8 6))
      else if fld w 0 8 = 11 then .ok (.jobwait (fld w 20 4) (fld w 14 6) (fld w 8 6))
      else if fld w 0 8 = 12 ∧ fld w 14 6 = 0 then .ok (.icinv (fld w 20 4) (fld w 8 6))
      else if fld w 0 8 = 16 then .ok (.objnew (fld w 20 4) (fld w 14 6) (fld w 8 6))
      else if fld w 0 8 = 17 ∧ fld w 14 6 = 0 then .ok (.publish (fld w 20 4) (fld w 8 6))
      else if fld w 0 8 = 18 then .ok (.objinfo (fld w 20 4) (fld w 14 6) (fld w 8 6))
      else if fld w 0 8 = 24 then .ok (.launch (fld w 20 4) (fld w 14 6) (fld w 8 6))
      else if fld w 0 14 = 25 then .ok (.waitch (fld w 20 4) (fld w 14 6))
      else if fld w 0 8 = 32 ∧ fld w 14 6 = 0 then .ok (.fput (fld w 20 4) (fld w 8 6))
      else if fld w 0 8 = 33 ∧ fld w 14 6 = 0 then .ok (.fget (fld w 20 4) (fld w 8 6))
      else if fld w 0 8 = 34 ∧ fld w 14 6 = 0 then .ok (.fatom (fld w 20 4) (fld w 8 6))
      else if fld w 0 8 = 35 ∧ fld w 14 6 = 0 then .ok (.renq (fld w 20 4) (fld w 8 6))
      else if fld w 0 8 = 36 ∧ fld w 14 6 = 0 then .ok (.coll (fld w 20 4) (fld w 8 6))
      else if fld w 0 8 = 37 ∧ fld w 14 6 = 0 then .ok (.fsig (fld w 20 4) (fld w 8 6))
      else .error (.reservedFields 126)
  | op => .error (.reservedOpcode op)

/-- The instruction in the 31 bits below the chain bit. -/
def decodeBody (w : BitVec 31) : Except DecodeError Instr := decodeOp (fld w 24 7).toNat w

/-- The instruction of a word, or why there is none (02 R39 checks 1 and 2). -/
def decodeWord (w : W32) : Except DecodeError Instr :=
  if w = 0 then .error .zeroWord else decodeBody (w.setWidth 31)

/-- The instruction at the head of a run of bytes, its chain bit and the bytes after it: words are little-endian (02 R33). -/
def decodeBytes (bs : List Byte) : Except DecodeError (Bool × Instr × List Byte) :=
  match bs with
  | b0 :: b1 :: b2 :: b3 :: rest =>
    let w : W32 := b3 ++ b2 ++ b1 ++ b0
    match decodeWord w with
    | .ok i => .ok (chainBit w, i, rest)
    | .error e => .error e
  | _ => .error .truncated

/-- What the decoder reads from an instruction whose bits are `w`, bit 0 the least significant bit of the word. -/
def decodeTableWord (nbits w : Nat) : Option Instr :=
  match decodeBytes (bytesOfNat (max 4 (nbits / 8)) w) with
  | .ok (_, i, _) => some i
  | .error _ => none

/-- The 31 bits below the chain bit of an instruction word; an event has none. -/
def encodeBody (i : Instr) : Option (BitVec 31) :=
  match i with
  | .nop => some (1#7 ++ 0#24)
  | .bra o => some (2#7 ++ o)
  | .brc a k o => some (3#7 ++ a ++ k ++ o)
  | .bri a => some (4#7 ++ 0#6 ++ a ++ 0#12)
  | .call o => some (5#7 ++ o)
  | .ret => some (6#7 ++ 0#24)
  | .divb p i o => some (7#7 ++ p ++ i ++ o)
  | .join => some (8#7 ++ 0#24)
  | .endStrand => some (9#7 ++ 0#24)
  | .yield n => some (10#7 ++ 0#8 ++ n)
  | .loop a k o => some (11#7 ++ a ++ k ++ o)
  | .trap n => some (12#7 ++ 0#8 ++ n)
  | .bkpt n => some (13#7 ++ 0#8 ++ n)
  | .sysc n => some (14#7 ++ 0#8 ++ n)
  | .sadd d a b => some (16#7 ++ d ++ a ++ b ++ 0#6)
  | .ssub d a b => some (16#7 ++ d ++ a ++ b ++ 1#6)
  | .smul d a b => some (16#7 ++ d ++ a ++ b ++ 2#6)
  | .smulh d a b => some (16#7 ++ d ++ a ++ b ++ 3#6)
  | .sand d a b => some (16#7 ++ d ++ a ++ b ++ 4#6)
  | .sor d a b => some (16#7 ++ d ++ a ++ b ++ 5#6)
  | .sxor d a b => some (16#7 ++ d ++ a ++ b ++ 6#6)
  | .sshl d a b => some (16#7 ++ d ++ a ++ b ++ 7#6)
  | .sshr d a b => some (16#7 ++ d ++ a ++ b ++ 8#6)
  | .ssra d a b => some (16#7 ++ d ++ a ++ b ++ 9#6)
  | .smin d a b => some (16#7 ++ d ++ a ++ b ++ 10#6)
  | .smax d a b => some (16#7 ++ d ++ a ++ b ++ 11#6)
  | .slt d a b => some (16#7 ++ d ++ a ++ b ++ 12#6)
  | .sltn d a b => some (16#7 ++ d ++ a ++ b ++ 13#6)
  | .ssel d a b => some (16#7 ++ d ++ a ++ b ++ 14#6)
  | .saddi d a i => some (17#7 ++ d ++ a ++ i)
  | .slui d i => some (18#7 ++ d ++ i)
  | .srd d n => some (19#7 ++ d ++ 0#6 ++ n)
  | .swr a n => some (20#7 ++ 0#6 ++ a ++ n)
  | .regacq p n => some (24#7 ++ p ++ n ++ 0#17)
  | .regrel p n => some (25#7 ++ p ++ n ++ 0#17)
  | .reggive p n => some (26#7 ++ p ++ n ++ 0#17)
  | .regclaim p n => some (27#7 ++ p ++ n ++ 0#17)
  | .vidx x a i => some (28#7 ++ 0#4 ++ x ++ a ++ i)
  | .vrdx x d a => some (29#7 ++ 0#1 ++ x ++ d ++ a ++ 0#7)
  | .vwrx x d a => some (30#7 ++ 0#1 ++ x ++ d ++ a ++ 0#7)
  | .vtag t d a => some (31#7 ++ t ++ d ++ a ++ 0#6)
  | .vadd m d a b => some (32#7 ++ m ++ d ++ a ++ b)
  | .vsub m d a b => some (33#7 ++ m ++ d ++ a ++ b)
  | .vmul m d a b => some (34#7 ++ m ++ d ++ a ++ b)
  | .vfma m d a b => some (35#7 ++ m ++ d ++ a ++ b)
  | .vmin d a b => some (36#7 ++ 0#3 ++ d ++ a ++ b)
  | .vmax d a b => some (37#7 ++ 0#3 ++ d ++ a ++ b)
  | .vabs m d a => some (38#7 ++ m ++ d ++ a ++ 0#7)
  | .vneg m d a => some (39#7 ++ m ++ d ++ a ++ 0#7)
  | .vand d a b => some (40#7 ++ 0#3 ++ d ++ a ++ b)
  | .vor d a b => some (41#7 ++ 0#3 ++ d ++ a ++ b)
  | .vxor d a b => some (42#7 ++ 0#3 ++ d ++ a ++ b)
  | .vnot d a => some (43#7 ++ 0#3 ++ d ++ a ++ 0#7)
  | .vshl d a b => some (44#7 ++ 0#3 ++ d ++ a ++ b)
  | .vshr d a b => some (45#7 ++ 0#3 ++ d ++ a ++ b)
  | .vsra d a b => some (46#7 ++ 0#3 ++ d ++ a ++ b)
  | .vmov d a => some (47#7 ++ 0#3 ++ d ++ a ++ 0#7)
  | .vmovi d i => some (48#7 ++ d ++ 0#7 ++ i)
  | .viota d i => some (48#7 ++ d ++ 1#7 ++ i)
  | .vmovs m d a => some (49#7 ++ m ++ d ++ 0#1 ++ a ++ 0#7)
  | .vaddi d a i => some (50#7 ++ d ++ a ++ i)
  | .vcmp p k a b f => some (51#7 ++ p ++ k ++ a ++ b ++ f)
  | .vsel m d a b => some (52#7 ++ m ++ d ++ a ++ b)
  | .vcvt t d a r s p => some (53#7 ++ t ++ d ++ a ++ r ++ s ++ p)
  | .vpack t d a s p => some (54#7 ++ t ++ d ++ a ++ 0#3 ++ s ++ p)
  | .vunpk t d a p => some (55#7 ++ t ++ d ++ a ++ 0#4 ++ p)
  | .vdot d a b => some (56#7 ++ 0#3 ++ d ++ a ++ b)
  | .vpopc d a => some (57#7 ++ 0#3 ++ d ++ a ++ 0#7)
  | .vclz d a => some (58#7 ++ 0#3 ++ d ++ a ++ 0#7)
  | .pand d a b => some (59#7 ++ d ++ 0#7 ++ a ++ 0#4 ++ b ++ 0#4)
  | .por d a b => some (59#7 ++ d ++ 0#7 ++ a ++ 0#4 ++ b ++ 1#4)
  | .pnot d a => some (59#7 ++ d ++ 0#7 ++ a ++ 2#11)
  | .vseed a b => some (60#7 ++ 0#10 ++ a ++ b)
  | .vrand m d => some (61#7 ++ m ++ d ++ 0#14)
  | .leal la v i e => some (62#7 ++ la ++ v ++ i ++ e ++ 6#3)
  | .vexpf d a => some (64#7 ++ 0#3 ++ d ++ a ++ 0#7)
  | .vrndi m d a => some (65#7 ++ m ++ d ++ a ++ 0#7)
  | .vsclb d a b => some (66#7 ++ 0#3 ++ d ++ a ++ b)
  | .vexpx d a => some (67#7 ++ 0#3 ++ d ++ a ++ 0#7)
  | .vexpxMant d a => some (67#7 ++ 1#3 ++ d ++ a ++ 0#7)
  | .vlogf d a => some (68#7 ++ 0#3 ++ d ++ a ++ 0#7)
  | .vrcp d a => some (69#7 ++ 0#3 ++ d ++ a ++ 0#7)
  | .vrsq d a => some (70#7 ++ 0#3 ++ d ++ a ++ 0#7)
  | .vsinp d a => some (71#7 ++ 0#3 ++ d ++ a ++ 0#7)
  | .vshfl m d a b => some (72#7 ++ m ++ d ++ a ++ b)
  | .vbcst d a b => some (73#7 ++ 0#3 ++ d ++ a ++ b)
  | .vred m d a => some (74#7 ++ m ++ d ++ a ++ 0#7)
  | .vscan m d a => some (75#7 ++ m ++ d ++ a ++ 0#7)
  | .vbal m d p => some (76#7 ++ m ++ d ++ 0#4 ++ p ++ 0#7)
  | .vconf m d a => some (77#7 ++ m ++ d ++ a ++ 0#7)
  | .visect m d a b => some (78#7 ++ m ++ d ++ a ++ b)
  | .lds la v i k z => some (80#7 ++ la ++ v ++ i ++ k ++ z)
  | .sts la v i k z => some (81#7 ++ la ++ v ++ i ++ k ++ z)
  | .atoms la v h i k g => some (82#7 ++ la ++ v ++ h ++ i ++ k ++ g)
  | .cass la v i k z => some (83#7 ++ la ++ v ++ i ++ k ++ z)
  | .waits => some (84#7 ++ 0#24)
  | .qcfg q t => some (85#7 ++ 0#8 ++ q ++ t ++ 0#9)
  | .qstat d q => some (86#7 ++ d ++ 0#15 ++ q)
  | .qdrn q => some (87#7 ++ 0#8 ++ q ++ 0#13)
  | .tbar n => some (88#7 ++ 0#20 ++ n)
  | .ldl la v i e z => some (89#7 ++ la ++ v ++ i ++ e ++ z ++ 0#1)
  | .stl la v i e z => some (90#7 ++ la ++ v ++ i ++ e ++ z ++ 0#1)
  | .atoml la v h i e g => some (91#7 ++ la ++ v ++ h ++ i ++ e ++ g ++ 0#1)
  | .ld la v i k z => some (92#7 ++ la ++ v ++ i ++ k ++ z)
  | .st la v i k z => some (93#7 ++ la ++ v ++ i ++ k ++ z)
  | .ldg la v i k z => some (94#7 ++ la ++ v ++ i ++ k ++ z)
  | .stg la v i k z => some (95#7 ++ la ++ v ++ i ++ k ++ z)
  | .atom la v h i k g => some (96#7 ++ la ++ v ++ h ++ i ++ k ++ g)
  | .cas la v i k z => some (97#7 ++ la ++ v ++ i ++ k ++ z)
  | .waitc k n => some (98#7 ++ 0#13 ++ k ++ 0#2 ++ n)
  | .fence s => some (99#7 ++ 0#20 ++ s)
  | .pref la v i k => some (100#7 ++ la ++ v ++ i ++ k ++ 0#2)
  | .xprb la d a f => some (101#7 ++ la ++ d ++ a ++ f)
  | .catset la d a => some (102#7 ++ la ++ d ++ a ++ 0#8)
  | .catget la d a w => some (103#7 ++ la ++ d ++ a ++ 0#5 ++ w)
  | .catld la a n => some (104#7 ++ la ++ 0#6 ++ a ++ n)
  | .catfree la a => some (105#7 ++ la ++ 0#6 ++ a ++ 0#8)
  | .ldref la v i k => some (106#7 ++ la ++ v ++ i ++ k ++ 3#2)
  | .ldrefS la v i k => some (106#7 ++ la ++ 0#1 ++ v ++ i ++ k ++ 2#2)
  | .stref la v i k => some (107#7 ++ la ++ v ++ i ++ k ++ 3#2)
  | .strefS la v i k => some (107#7 ++ la ++ 0#1 ++ v ++ i ++ k ++ 2#2)
  | .mrsv p n => some (108#7 ++ p ++ n ++ 0#14)
  | .mrel => some (109#7 ++ 0#24)
  | .mzero la k t => some (110#7 ++ la ++ 0#1 ++ k ++ 0#6 ++ t)
  | .mma la u a b t => some (111#7 ++ la ++ u ++ a ++ b ++ t)
  | .mmas la u a b t => some (112#7 ++ la ++ u ++ a ++ b ++ t)
  | .mrd la a b t => some (113#7 ++ la ++ 0#1 ++ a ++ b ++ t)
  | .msta la s r b t => some (114#7 ++ la ++ 0#4 ++ s ++ r ++ b ++ t)
  | .mqnt la r b => some (115#7 ++ la ++ 0#5 ++ r ++ b ++ 0#6)
  | .msal d a b => some (116#7 ++ 0#3 ++ d ++ a ++ b)
  | .mpairSend la p b t => some (117#7 ++ la ++ 0#1 ++ p ++ 0#4 ++ b ++ t)
  | .mpairRecv la p b t => some (117#7 ++ la ++ 0#1 ++ p ++ 1#4 ++ b ++ t)
  | .cbar => some (118#7 ++ 0#24)
  | .ldsc la v i k z => some (119#7 ++ la ++ v ++ i ++ k ++ z)
  | .stsc la v i k z => some (120#7 ++ la ++ v ++ i ++ k ++ z)
  | .epld la a x => some (121#7 ++ la ++ 0#6 ++ a ++ 0#6 ++ x)
  | .epgen la d a x => some (122#7 ++ la ++ d ++ a ++ 0#6 ++ x)
  | .epinv la d a x => some (123#7 ++ la ++ d ++ a ++ 0#6 ++ x)
  | .epctxAcq la d a => some (124#7 ++ la ++ d ++ a ++ 0#8)
  | .epctxRel la => some (124#7 ++ la ++ 1#20)
  | .epstat la d v x => some (125#7 ++ la ++ d ++ 0#11 ++ v ++ x)
  | .tpref la d a => some (126#7 ++ la ++ d ++ a ++ 1#8)
  | .tflush la a => some (126#7 ++ la ++ 0#6 ++ a ++ 2#8)
  | .cpy la d a => some (126#7 ++ la ++ d ++ a ++ 3#8)
  | .cpyt la d a => some (126#7 ++ la ++ d ++ a ++ 4#8)
  | .rclaim la d a => some (126#7 ++ la ++ d ++ a ++ 5#8)
  | .rcommit la d a => some (126#7 ++ la ++ d ++ a ++ 6#8)
  | .rawait la d a => some (126#7 ++ la ++ d ++ a ++ 7#8)
  | .rretire la d a => some (126#7 ++ la ++ d ++ a ++ 8#8)
  | .spawn la d a => some (126#7 ++ la ++ d ++ a ++ 9#8)
  | .jobnew la d a => some (126#7 ++ la ++ d ++ a ++ 10#8)
  | .jobwait la d a => some (126#7 ++ la ++ d ++ a ++ 11#8)
  | .icinv la a => some (126#7 ++ la ++ 0#6 ++ a ++ 12#8)
  | .objnew la d a => some (126#7 ++ la ++ d ++ a ++ 16#8)
  | .publish la a => some (126#7 ++ la ++ 0#6 ++ a ++ 17#8)
  | .objinfo la d a => some (126#7 ++ la ++ d ++ a ++ 18#8)
  | .launch la d a => some (126#7 ++ la ++ d ++ a ++ 24#8)
  | .waitch la d => some (126#7 ++ la ++ d ++ 25#14)
  | .fput la a => some (126#7 ++ la ++ 0#6 ++ a ++ 32#8)
  | .fget la a => some (126#7 ++ la ++ 0#6 ++ a ++ 33#8)
  | .fatom la a => some (126#7 ++ la ++ 0#6 ++ a ++ 34#8)
  | .renq la a => some (126#7 ++ la ++ 0#6 ++ a ++ 35#8)
  | .coll la a => some (126#7 ++ la ++ 0#6 ++ a ++ 36#8)
  | .fsig la a => some (126#7 ++ la ++ 0#6 ++ a ++ 37#8)
  | .candidateUrgent _ => none
  | .yieldExpiry _ => none
  | .quotaDenial _ => none
  | .registerRequestGrant _ _ => none
  | .loadComplete _ _ _ => none
  | .memoryAccessPerform _ _ _ _ => none
  | .translationWalkComplete _ _ _ => none
  | .pageFaultPark _ _ => none
  | .xPipeAccept _ _ => none
  | .matrixEngineGrant _ _ => none
  | .entryUrgent _ _ => none
  | .mrsvGrant _ => none
  | .mrsvTimeout _ _ => none
  | .pairMatch _ _ _ _ => none
  | .pairAbortTimeout _ _ => none
  | .copyOperationComplete _ _ => none
  | .ephemerisOperationComplete _ _ => none
  | .engineOperationRetire _ _ _ => none
  | .deferredTrap _ => none
  | .publicationWalk _ => none
  | .ringWaitGrant _ => none
  | .taskDispatch _ _ => none
  | .taskSteal _ _ => none
  | .taskRetire _ => none
  | .unitPlacement _ _ => none
  | .gridUrgent _ => none
  | .gridEnd _ => none
  | .trapQueueDrain _ => none
  | .resume _ _ _ => none
  | .resumePublish _ _ => none
  | .skip _ _ _ => none
  | .kill _ _ => none
  | .killteam _ _ => none
  | .bankSwitch _ => none
  | .spillSave _ => none
  | .shadowLoad _ _ _ _ => none
  | .windowRestore _ _ => none
  | .stripeWake _ _ => none
  | .wayGate _ _ => none
  | .wayWake _ _ => none
  | .comparatorWrite _ _ _ _ => none
  | .semaRead _ => none
  | .semaWrite _ => none
  | .registerWrite _ _ _ => none
  | .shctlFire _ _ => none
  | .shctlRearm _ _ => none
  | .shutterLatch => none
  | .heartbeat => none
  | .heartbeatTimeout => none
  | .packageReset => none
  | .imageDownload _ _ _ _ => none
  | .getVersion _ => none
  | .getCapabilities _ => none
  | .negotiateAlgorithms _ => none
  | .getDigests _ => none
  | .getCertificate _ => none
  | .challenge _ _ => none
  | .getMeasurements _ _ => none
  | .portLinkDown _ => none
  | .powerHoldoff _ => none
  | .thermalTrip => none
  | .l2EccError _ _ _ => none
  | .hbmEccError _ _ => none
  | .patrolScrub _ _ => none
  | .dieLinkCrcError _ _ => none
  | .fabricLinkRetryLimit _ => none
  | .remoteOperation _ => none
  | .remoteEnqueueRequest _ _ _ _ _ => none
  | .remoteTaskCompletion _ _ _ _ => none
  | .fabricOperationComplete _ _ _ => none
  | .collJoinTimeout _ _ => none
  | .rootLaunch _ _ => none
  | .contextCreate _ _ => none
  | .bundleLoad _ _ _ _ => none
  | .pageFaultService _ _ _ _ => none
  | .extentRevoke _ _ => none
  | .shootdown _ _ _ => none
  | .fabricGroupAttach _ _ => none
  | .fabricWindowRegister _ _ _ _ => none
  | .null _ => none
  | .log _ => none
  | .time _ => none
  | .map _ _ _ => none
  | .unmap _ _ => none
  | .protect _ _ => none
  | .handler _ => none
  | .resumerec _ => none
  | .setbypass _ => none
  | .notify _ => none
  | .exit _ => none
  | .scratchpadAccessPerform _ _ _ => none
  | .sramEccError _ _ _ => none
  | .fabricFlitCrcError _ => none
  | .portLinkUp _ _ _ => none
  | .fabricWindowRemove _ _ => none

/-- The word of an instruction with a given chain bit (02 R33). -/
def encode (chain : Bool) (i : Instr) : Option W32 :=
  match encodeBody i with
  | some b => some (BitVec.ofBool chain ++ b)
  | none => none

end Sys2Proof
end

