-- ==== Sys2Proof/Machine/Frames.lean ====
section
/-! DEFINITION. Frames, heap arenas and team records: their blocks, their headers, and their freeing (19 R342; 20 R363 to R365, R378). -/

namespace Sys2Proof.Machine

/-! Blocks of an arena: offsets with sizes. -/

/-- Whether a block of a size may stand at an offset. -/
def blockFits (blocks : SMap Nat) (cap off size : Nat) : Bool :=
  decide (off + size ≤ cap) && blocks.all (fun b => decide (off + size ≤ b.1) || decide (b.1 + b.2 ≤ off))

/-- Where a block goes: which address a frame or an arena receives is open (20 R364; log 16); a request that fits anywhere is supplied. -/
def placeBlock (blocks : SMap Nat) (cap size align nonce : Nat) : Option Nat :=
  let p := Config.pick nonce * align
  if blockFits blocks cap p size then some p
  else (0 :: blocks.map (fun b => roundUp (b.1 + b.2) align)).find? (fun o => blockFits blocks cap o size)

/-- The span size (19 R342). -/
def spanBytes : Nat := 262144

/-! The frame arena is pinned and lies in one run of physical memory (20 R364; log 17). -/

def Context.frameAt (c : Context) (va : W64) : Nat := c.framePa + (va.toNat - c.frameVa.toNat)

/-- Allocates a block of the frame arena. -/
def State.takeFrame (s : State) (ctx size : Nat) : Option (Nat × State) :=
  let c := s.ctx ctx
  match placeBlock c.frames c.frameSize size 64 s.nonce with
  | some o => some (o, (s.setCtx ctx { c with frames := SMap.put c.frames o size }).drew 1)
  | none => none

/-- Allocates spans of the heap region; none are asked for at HSPANS 0. -/
def State.takeSpans (s : State) (ctx n : Nat) : Option (W64 × State) :=
  let c := s.ctx ctx
  if n = 0 then some (0, s)
  else match placeBlock c.arenas c.heapSize (n * spanBytes) spanBytes s.nonce with
    | some o => some (c.heapVa + BitVec.ofNat 64 o, (s.setCtx ctx { c with arenas := SMap.put c.arenas o (n * spanBytes) }).drew 1)
    | none => none

/-! Frame headers (Table 20-1). -/

/-- A word of a header. -/
def State.frameWord (s : State) (ctx : Nat) (f : W64) (i : Nat) : W64 := s.mem64 ((s.ctx ctx).frameAt f + 8 * i)
/-- Writes a word of a header at its home slice. -/
def State.setFrameWord (s : State) (ctx : Nat) (f : W64) (i : Nat) (v : W64) : State :=
  s.storeNat ((s.ctx ctx).frameAt f + 8 * i) 8 v.toNat

def State.frameRefs (s : State) (ctx : Nat) (f : W64) : Nat := (fld (s.frameWord ctx f 1) 32 32).toNat
def State.frameLive (s : State) (ctx : Nat) (f : W64) : Bool := (s.frameWord ctx f 1).getLsbD 7

/-- Changes REFS. -/
def State.setRefs (s : State) (ctx : Nat) (f : W64) (n : Nat) : State :=
  s.setFrameWord ctx f 1 ((BitVec.ofNat 32 n) ++ fld (s.frameWord ctx f 1) 0 32)

/-- A new frame with its heap arena: the header written, the body zero, every tag clear (R364). -/
def State.makeFrame (s : State) (ctx level size spans : Nat) (parent gridid : W64) : Option (W64 × State) :=
  match s.takeFrame ctx (64 + size) with
  | none => none
  | some (o, s1) =>
    match s1.takeSpans ctx spans with
    | none => none
    | some (arena, s2) =>
      let c := s2.ctx ctx
      let f := c.frameVa + BitVec.ofNat 64 o
      let limit := if spans = 0 then 0 else arena.toNat + spans * spanBytes
      let hdr := [parent.toNat, level + 128 + size * 256, gridid.toNat, arena.toNat, arena.toNat, limit, 0, 0].flatMap (bytesOfNat 8)
      some (f, s2.store (c.framePa + o) (hdr ++ List.replicate size 0))

/-- Returns a block of the frame arena. -/
def State.freeFrame (s : State) (ctx off : Nat) : State := s.onCtx ctx (fun c => { c with frames := SMap.erase c.frames off })

/-- TRY-FREE (R365); parents lie at lower levels, so eight turns are enough. -/
def State.tryFree : Nat → State → Nat → W64 → State
  | 0, s, _, _ => s
  | fuel + 1, s, ctx, f =>
    if s.frameLive ctx f || decide (s.frameRefs ctx f ≠ 0) then s
    else
      let parent := s.frameWord ctx f 0
      let arena := s.frameWord ctx f 3
      let s1 := s.onCtx ctx (fun c =>
        { c with frames := SMap.erase c.frames (f.toNat - c.frameVa.toNat)
                 arenas := if arena = 0 then c.arenas else SMap.erase c.arenas (arena.toNat - c.heapVa.toNat) })
      if parent = 0 then s1
      else State.tryFree fuel (s1.setRefs ctx parent (s1.frameRefs ctx parent - 1)) ctx parent

/-- The end of a frame's grid: LIVE becomes 0 (R365). -/
def State.frameDies (s : State) (ctx : Nat) (f : W64) : State :=
  let s1 := s.setFrameWord ctx f 1 (s.frameWord ctx f 1 &&& ~~~(0x80#64))
  s1.tryFree 9 ctx f

/-! Team records (R378): CHILD and KILLED. -/

/-- The record of a team returns once the team is gone and CHILD reads 0. -/
def State.dropRecord (s : State) (ctx pa : Nat) : State :=
  if s.memNat pa 8 = 0 then s.freeFrame ctx (pa - (s.ctx ctx).framePa) else s

/-- A team is gone. -/
def State.dropTeam (s : State) (t : Nat) : State :=
  let T := s.team t
  (s.dropRecord T.ctx T.record).setTeam t Team.none

end Sys2Proof.Machine
end

