-- ==== Sys2Proof/Machine/Strands.lean ====
section
/-! DEFINITION. Strands: overflow entries, division, joining, ending, barriers, block accounting and retirement
(01 R19 to R29; 04 R87, R88; 08 R166 to R168; 13 R265). -/

namespace Sys2Proof.Machine

/-! Overflow entries (R20). -/

def OvfEntry.of (r : StrandRef) (e : OvfEntry) : Bool := e.owner == r.sid && decide (e.strm = r.strm)
/-- The owning entry of a strand: its most recently pushed one. -/
def Team.owning (T : Team) (r : StrandRef) : Option OvfEntry := T.ovf.find? (OvfEntry.of r)
/-- Removes the owning entry; the gap closes. -/
def dropOwning (r : StrandRef) (l : List OvfEntry) : List OvfEntry :=
  match l with
  | [] => []
  | e :: rest => if e.of r then rest else e :: dropOwning r rest
/-- Changes the owning entry. -/
def editOwning (r : StrandRef) (f : OvfEntry → OvfEntry) (l : List OvfEntry) : List OvfEntry :=
  match l with
  | [] => []
  | e :: rest => if e.of r then f e :: rest else e :: editOwning r f rest
def State.onOwning (s : State) (r : StrandRef) (f : OvfEntry → OvfEntry) : State :=
  s.onTeam r.team (fun T => { T with ovf := editOwning r f T.ovf })

/-! Barriers (08 R166 to R168, 13 R265): numbers 0 to 15 are TBAR, 16 is the cluster barrier. -/

def waitAt (n : Nat) : Wait := if n = 16 then .cbar else .tbar n
def Strand.at_ (x : Strand) (n : Nat) : Bool := decide (x.st = .blocked) && decide (x.wait = waitAt n)

/-- The live lanes of a stream. -/
def State.liveLanes (s : State) (t : Nat) (x : StreamId) : Mask :=
  let held := (s.strandsOf t x).foldl (fun m r => if decide ((s.strand r).st = .suspended) then m else m ||| (s.strand r).mask) 0
  (s.team t).ovf.foldl (fun m e => if decide (e.strm = x) then (if e.running then m ||| e.amask else m ||| e.dmask) else m) held

/-- The lanes of a stream arrived at a barrier. -/
def State.arrivedLanes (s : State) (t : Nat) (x : StreamId) (n : Nat) : Mask :=
  let held := (s.strandsOf t x).foldl (fun m r => if (s.strand r).at_ n then m ||| (s.strand r).mask else m) 0
  (s.team t).ovf.foldl (fun m e => if decide (e.strm = x) && !e.running && e.barr == some n then m ||| e.dmask else m) held

/-- A stream has arrived: every live lane, or the stream has ended or does not exist. -/
def State.arrived (s : State) (t : Nat) (x : StreamId) (n : Nat) : Bool :=
  !((s.team t).stream x).lives || decide (s.liveLanes t x &&& ~~~(s.arrivedLanes t x n) = 0)

/-- Every live lane of a stream is arrived at some barrier, but not all at one (R166). -/
def State.mismatched (s : State) (t : Nat) (x : StreamId) : Bool :=
  let all := (List.range 17).foldl (fun m n => m ||| s.arrivedLanes t x n) 0
  decide (s.liveLanes t x &&& ~~~all = 0) && (List.range 17).all (fun n => !s.arrived t x n)

/-- Whether an access is made at scratchpad banks in some lane. -/
def AccessOp.atBanks (a : AccessOp) : Bool := a.lanes.any (fun l => match l.at_ with | .window _ _ => true | .global => false)
/-- The scratchpad accesses of a team have completed, and the memory accesses of a stream have been performed (R167). -/
def Team.drained (T : Team) (x : StreamId) : Bool :=
  T.accs.all (fun a => if a.atBanks then a.complete else decide (a.strm ≠ x) || a.performed)

/-- Releases every strand blocked at a barrier of a stream, and clears the entries arrived at it. -/
def State.release (s : State) (t : Nat) (x : StreamId) (n : Nat) : State :=
  let s1 := (s.strandsOf t x).foldl (fun s r => if (s.strand r).at_ n then s.wake r else s) s
  s1.onTeam t (fun T => { T with ovf := T.ovf.map (fun e =>
    if decide (e.strm = x) && e.barr == some n then { e with barr := none } else e) })

/-- Completes a team barrier at which both streams have arrived. -/
def State.tryTbar (s : State) (t n : Nat) : State :=
  let any := [StreamId.c, StreamId.a].any (fun x => decide (s.arrivedLanes t x n ≠ 0))
  if any && s.arrived t .c n && s.arrived t .a n && (s.team t).drained .c && (s.team t).drained .a then
    (s.release t .c n).release t .a n
  else s

/-- Completes the cluster barrier at which every team has arrived or retired; memory is ordered as by FENCE.CLU. -/
def State.tryCbar (s : State) (t : Nat) : State :=
  let ts := t :: (s.team t).cluster.filter (fun u => u ≠ t)
  let at_ (u : Nat) : Bool := !(s.team u).live || (s.team u).retiring || (s.arrived u .c 16 && (s.team u).drained .c)
  if decide (s.arrivedLanes t .c 16 ≠ 0) && ts.all at_ then
    ts.foldl (fun s u => (s.release u .c 16).dropL1 (s.team u).core) s
  else s

/-- Looks at every barrier of a team again (R166: an end of lanes re-evaluates every barrier). -/
def State.reeval (s : State) (t : Nat) : State :=
  let s1 := (List.range 16).foldl (fun s n => s.tryTbar t n) s
  (t :: (s.team t).cluster.filter (fun u => u ≠ t)).foldl (fun s u => s.tryCbar u) s1

/-! Blocks (04 R87, R88). -/

/-- Blocks above a watermark return to the team pool. -/
def State.giveAbove (s : State) (r : StrandRef) (w : Nat) : State :=
  (s.onTeam r.team (fun T => { T with pool := T.pool + ((s.strand r).cnt - w) })).onStrand r (fun x => { x with cnt := min x.cnt w })

/-- Takes an entry off the stack; its lanes, blocks and watermark come back. -/
def State.removeEntry (s : State) (r : StrandRef) (e : OvfEntry) : State :=
  let s1 := s.giveAbove r e.wmark
  let s2 := s1.onTeam r.team (fun T => { T with ovf := dropOwning r T.ovf })
  let zero : Bool := r.sid.isNone && decide (r.strm = .c) && (s.team r.team).cs.wmZero && ((s2.team r.team).owning r).isNone
  let s3 := s2.onStrand r (fun x => { x with wm := if zero then 0 else e.pwm })
  if zero then s3.onTeam r.team (fun T => { T with cs := { T.cs with wmZero := false } }) else s3

/-- The strand switches onto the deferred lanes of its entry (R22, R23, 08 R168); WM returns to its value before the push (04 R88). -/
def State.switchTo (s : State) (r : StrandRef) (e : OvfEntry) : State :=
  let s1 := s.giveAbove r e.wmark
  let s2 := s1.onOwning r (fun e => { e with barr := none })
  s2.onStrand r (fun x =>
    let y := { x.goto e.pc with mask := e.dmask, wm := e.pwm }
    match e.barr with
    | some n => { y with st := .blocked, wait := waitAt n }
    | none => y)

/-! Stripes (08 R178). -/

/-- The teams whose windows stand in a core's scratchpad: the active bank's, those of retired teams that operations still use (01 R29),
and the shadow bank's until they are saved (11 R235). -/
def Core.residents (k : Core) : List Nat :=
  k.active.slots.map Prod.snd ++ k.leaving ++ (if k.saving then k.shadow.slots.map Prod.snd else [])

/-- Stripes that a window's rows lie in. -/
def stripesOf (base w : Nat) : List Nat := (List.range 8).filter (fun i => decide (2 ^ 20 * i < base + w) && decide (base < 2 ^ 20 * (i + 1)))

/-- Gated stripes under a window begin to wake. -/
def State.wakeStripes (s : State) (core base w : Nat) : State :=
  let gated := (stripesOf base w).filter (fun i => SMap.get 0 (s.core core).stripes i == 0)
  if w = 0 ∨ gated.isEmpty then s
  else s.onCore core (fun k => { k with stripes := gated.foldl (fun m i => SMap.put m i (s.clock + 2)) k.stripes })

/-- Stripes in which no row is allotted are gated. -/
def State.gateStripes (s : State) (core : Nat) : State :=
  let used := (s.core core).residents.flatMap (fun t => if (s.team t).w = 0 then [] else stripesOf (s.team t).spBase (s.team t).w)
  if (s.core core).stripes.all (fun p => used.contains p.1) then s
  else s.onCore core (fun k => { k with stripes := k.stripes.filter (fun p => used.contains p.1) })

/-! Private lines (19 R345). -/

/-- A core forgets a team's private lines. -/
def State.dropPrivate (s : State) (t : Nat) : State :=
  let ls := s.privatePhys t
  if ls.isEmpty then s else s.onCore (s.team t).core (fun k => { k with l1d := k.l1d.filter (fun p => !ls.contains p.1) })

/-! Retirement (01 R29). -/

/-- Drops the lanes of an access that have not been translated and cannot be: their strand is gone. -/
def AccessOp.abandon (a : AccessOp) : AccessOp :=
  { a with parked := false, lanes := a.lanes.map (fun l => match l.st with
      | .unfinished _ => { l with st := .done }
      | .failed _ _ => { l with st := .done }
      | _ => l) }

/-- Frees a team's matrix reservation and generator contexts (13 R244, 14 R278). -/
def State.freeEngines (s : State) (t : Nat) : State :=
  let T := s.team t
  let q := quadOf T.core
  let n := match T.resv with | some v => v.n | none => 0
  let s1 := if T.resv.isSome ∨ T.gcs ≠ [] then
      s.onQuad q (fun Q => { Q with tiles := Q.tiles + n, entries := Q.entries + bit1 T.resv.isSome,
                                    contexts := Q.contexts + T.gcs.length }) else s
  s1.onTeam t (fun T => { T with resv := none, gcs := [], acc := [] })

/-- Whether an operation names a generator context (14 R282). -/
def EngOp.names (e : EngOp) (uid : Nat) : Bool :=
  match e.kind with
  | .epld c _ _ => c == uid
  | .epgen _ c _ _ => c == uid
  | .epstat c _ _ => c == some uid
  | .mma true _ _ _ _ _ _ _ _ c _ => c == uid
  | _ => false

/-- Released contexts that no operation names any more are free in their unit (14 R269). -/
def State.freeReleased (s : State) (t : Nat) : State :=
  let T := s.team t
  let gone := T.gcs.filter (fun c => c.rel && T.engs.all (fun e => !e.names c.uid))
  if gone.isEmpty then s
  else (s.onQuad (quadOf T.core) (fun Q => { Q with contexts := Q.contexts + gone.length })).onTeam t
    (fun T => { T with gcs := T.gcs.filter (fun c => gone.all (fun d => d.uid ≠ c.uid)) })

/-- A retired team's window returns to its core. -/
def State.leave (s : State) (t : Nat) : State :=
  let c := (s.team t).core
  (s.onCore c (fun k => { k with leaving := k.leaving.filter (fun u => u ≠ t) })).gateStripes c

/-- A retiring team with nothing outstanding is gone; a task waits for TASK_RETIRE (17 R305). -/
def State.finishTeam (s : State) (t : Nat) : State :=
  let T := s.team t
  if T.retiring && T.accs.isEmpty && T.engs.isEmpty && T.deferred.isEmpty then
    let s1 := (s.freeEngines t).leave t
    if (s.grid T.grid).task then s1
    else (s1.onGrid T.grid (fun G => { G with retired := G.retired + 1, killed := G.killed || T.killed })).dropTeam t
  else s

/-- The team retires: both streams end, its records, entries, requests and blocks return to the core; it releases its generator contexts as
EPCTX.REL does (14 R269). DESIGN CHOICE (log 25): an engine word that it has issued and that its unit has not yet accepted is dropped. -/
def State.retireTeam (s : State) (t : Nat) : State :=
  let T := s.team t
  let s1 := (s.dropPrivate t).setBank t
    (let b := s.bank t
     { b with split := b.split.filter (fun p => p.2.team ≠ t), reqs := b.reqs.filter (fun q => q.r.team ≠ t),
              slots := b.slots.filter (fun p => p.2 ≠ t), pool := b.pool + T.heldBlocks * T.ngroups, dSince := none })
  let gone (m : Stream) : Stream := { m with ended := true, root := Strand.free, calls := [], wmZero := false }
  let s2 := s1.onTeam t (fun T =>
    { T with retiring := true, cs := gone T.cs, as := gone T.as, ovf := [], queues := [], heldBlocks := 0, pool := 0,
             spans := [], current := none, gcs := T.gcs.map (fun (g : GenCtx) => { g with rel := true }), accs := (T.accs.map AccessOp.abandon).filter (fun a => !a.complete),
             engs := T.engs.filter (fun e => decide (e.stage ≠ .issued)) })
  let s3 := { s2.onCore T.core (fun k => { k with leaving := t :: k.leaving }) with rings := s2.rings.filter (fun w => w.r.team ≠ t) }
  let s4 := if (s3.quad (quadOf T.core)).waits.any (fun w => w.r.team == t) then
      s3.onQuad (quadOf T.core) (fun Q => { Q with waits := Q.waits.filter (fun w => w.r.team ≠ t) }) else s3
  ((T.cluster.filter (fun u => u ≠ t)).foldl (fun s u => s.tryCbar u) ((s4.freeReleased t).gateStripes T.core)).finishTeam t

/-! Ending and fusing (R23, R24). -/

/-- The children of a strand. -/
def State.childrenOf (s : State) (p : StrandRef) : List StrandRef :=
  (s.strandsOf p.team p.strm).filter (fun r => r.sid.isSome && decide ((s.strand r).parent = p.sid))

/-- A strand's parent. -/
def State.parentOf (s : State) (r : StrandRef) : StrandRef := { r with sid := (s.strand r).parent }

/-- Frees a record. -/
def State.freeRecord (s : State) (r : StrandRef) : State := s.setStrand r Strand.free

/-- The stream of a root strand ends (R29; 04 R87). -/
def State.streamEnds (s : State) (r : StrandRef) : State :=
  match r.strm with
  | .c => s.retireTeam r.team
  | .a =>
    let s1 := s.onTeam r.team (fun T => { T with as := { T.as with ended := true, root := Strand.free } })
    let croot : StrandRef := { r with strm := .c }
    let whole : Bool := decide ((s1.strand croot).st ≠ .suspended) && ((s1.team r.team).owning croot).isNone
    let s2 := if whole then s1.onStrand croot (fun x => { x with wm := 0 })
              else s1.onTeam r.team (fun T => { T with cs := { T.cs with wmZero := true } })
    s2.reeval r.team

/-- Moves the unresolved records of fused children to their parent, which takes their stop (11 R216). -/
def State.adoptRecs (s : State) (kids : List StrandRef) (p : StrandRef) : State :=
  let mine (q : TrapRec) : Bool := q.team == p.team && decide (q.strm = p.strm) && kids.any (fun k => k.sid == q.sid)
  let c := (s.team p.team).ctx
  if (s.ctx c).recs.any mine || s.heldTraps.any mine then
    let move (q : TrapRec) : TrapRec := if mine q then { q with sid := p.sid } else q
    ({ (s.onCtx c (fun c => { c with recs := c.recs.map move })) with heldTraps := s.heldTraps.map move }).onStrand p
      (fun x => { x with st := .parked })
  else s

/-- What a fusion finds that an action on a waiting child's record has named (11 R216): KILL, and whether that record was a machine-check's
(17 R305). -/
structure KidKill where
  kill   : Bool
  mcheck : Bool
deriving DecidableEq, Repr

/-- The fusion of R24: the children's records are freed, the parent runs on after the JOIN at `j`, with the bits that an action on a
waiting child's record names (11 R216, R231). -/
def State.fuse (s : State) (kids : List StrandRef) (p : StrandRef) (j : W64) : State × KidKill :=
  let m := kids.foldl (fun m k => m ||| (s.strand k).mask) 0
  let kill : KidKill := { kill := kids.any (fun k => decide ((s.strand k).act = some .kill)), mcheck := kids.any (fun k => (s.strand k).mcheck) }
  let o : ResumeOpts := match kids.find? (fun k => decide ((s.strand k).act = some .resume)) with
    | some k => { step := (s.strand k).step, freeze := (s.strand k).freeze }
    | none => { step := (s.strand p).step, freeze := (s.strand p).freeze }
  let s2 := kids.foldl State.freeRecord s
  let zero : Bool := p.sid.isNone && decide (p.strm = .c) && (s2.team p.team).cs.wmZero && ((s2.team p.team).owning p).isNone
  let s3 := s2.onStrand p (fun x =>
    { x with pc := j + 4, checked := 0, mask := m, st := .running, readyAt := s.clock, urgent := false,
             wm := if zero then 0 else x.wm, step := o.step, freeze := o.freeze, stepDue := false })
  let s4 := if zero then s3.onTeam p.team (fun T => { T with cs := { T.cs with wmZero := false } }) else s3
  (s4.adoptRecs kids p, kill)

/-- A machine-check's KILL is about to end lanes of a team: it counts as killed where its END retires the team (17 R305; 20 R377). -/
def State.markKilled (s : State) (t : Nat) (m : Bool) : State := if m then s.onTeam t (fun T => { T with killed := true }) else s
/-- The team lives on: the mark goes. -/
def State.unmarkKilled (s : State) (t : Nat) (was : Bool) : State :=
  if (s.team t).live && !(s.team t).retiring then s.onTeam t (fun T => { T with killed := was }) else s

/-- END of a strand, with the fusion that follows; `fuel` bounds its loop and the climb to parents (R23, R24). -/
def State.endOf : Nat → State → StrandRef → State
  | 0, s, _ => s
  | fuel + 1, s, r =>
    match (s.team r.team).owning r with
    | some e =>
      if e.running then
        let s1 := s.removeEntry r e
        if e.amask ≠ 0 then s1.onStrand r (fun x => { x.goto (e.join.getD 0 + 4) with mask := e.amask, st := .running })
        else State.endOf fuel s1 r
      else
        (s.onOwning r (fun e => { e with running := true, amask := 0 })).switchTo r e
    | none =>
      match r.sid with
      | none => s.streamEnds r
      | some _ =>
        let p := s.parentOf r
        let s1 := (s.giveAbove r (s.strand r).wm).freeRecord r
        let kids := s1.childrenOf p
        if kids.isEmpty then State.endOf fuel (s1.onStrand p (fun x => { x with st := .running })) p
        else
          let j := (s1.strand (kids.headD p)).jpc
          if kids.all (fun k => decide ((s1.strand k).st = .waiting) && decide ((s1.strand k).jpc = j)) then
            let f := s1.fuse kids p j
            if f.2.kill then (State.endOf fuel (f.1.markKilled p.team f.2.mcheck) p).unmarkKilled p.team (s.team p.team).killed else f.1
          else s1

/-- Enough steps for any END: every overflow entry and every record at most once each. -/
def State.endFuel (s : State) (t : Nat) : Nat := (s.team t).ovf.length + 2 * Config.splitRecords + 2

/-- END (R23), after which every barrier of the team is looked at again. -/
def State.endStrandOf (s : State) (r : StrandRef) : State :=
  (State.endOf (s.endFuel r.team) s r).reeval r.team

/-- JOIN of the issuing strand at its pc (R22, R24). -/
def State.joinHere (s : State) : Except Stop State :=
  let r := s.cur
  let x := s.me
  let mismatch (a : W64) : Except Stop State := .error (.trap { cause := cJoin, detail := 0, code := 0, mask := x.mask, addr := a })
  match s.mine.owning r with
  | some e =>
    if e.running then
      if e.join.getD x.pc = x.pc then
        .ok ((s.removeEntry r e).onStrand r (fun y => { y.advance with mask := e.amask ||| x.mask }))
      else mismatch (e.join.getD 0)
    else .ok ((s.onOwning r (fun e => { e with running := true, amask := x.mask, join := some x.pc })).switchTo r e)
  | none =>
    match r.sid with
    | none => .ok s.advance
    | some _ =>
      let p := s.parentOf r
      let others := (s.childrenOf p).filter (fun k => k ≠ r)
      let allWait := others.all (fun k => decide ((s.strand k).st = .waiting))
      let s1 := (s.giveAbove r x.wm).onStrand r (fun y => { y.wordDone false with st := .waiting, jpc := x.pc, checked := 0 })
      if allWait then
        match others.find? (fun k => decide ((s.strand k).jpc ≠ x.pc)) with
        | some k => mismatch (s.strand k).jpc
        | none =>
          let f := s1.fuse (s1.childrenOf p) p x.pc
          .ok (if f.2.kill then (State.endOf (s.endFuel r.team) (f.1.markKilled p.team f.2.mcheck) p).unmarkKilled p.team s.mine.killed else f.1)
      else .ok s1

/-- DIVB of the issuing strand towards a checked target (R21, R88). Which FREE records are
drawn is open (log 2). -/
def State.divideHere (s : State) (t f : Mask) (target next : W64) : Except Stop State :=
  let r := s.cur
  let x := s.me
  let b := s.bank r.team
  let free := (List.range Config.splitRecords).filter (fun i => decide ((SMap.get Strand.free b.split i).st = .free))
  if 2 ≤ free.length then
    let i := drawFrom s.nonce free
    let j := drawFrom (s.nonce + 1) (free.filter (fun k => k ≠ i))
    let child (m : Mask) (pc : W64) : Strand :=
      { Strand.free with st := .running, team := r.team, strm := r.strm, parent := r.sid, pc := pc, mask := m, cnt := x.cnt,
                         wm := x.cnt, step := x.step, freeze := x.freeze, readyAt := s.clock, windows := (x.goto pc).windows }
    -- S keeps its pc and its mask (R21)
    let s1 := s.setStrand r { x.goto x.pc with st := .suspended, stepDue := false, windows := [] }
    .ok ((s1.setStrand { r with sid := some i } (child t target)).setStrand { r with sid := some j } (child f next) |>.drew 2)
  else if s.mine.ovf.length < Config.overflowEntries then
    let e : OvfEntry := { owner := r.sid, strm := r.strm, running := false, pc := next, dmask := f, amask := 0, join := none,
                          wmark := x.cnt, pwm := x.wm, barr := none }
    .ok ((s.onMine (fun T => { T with ovf := e :: T.ovf })).onStrand r (fun y => { y.goto target with mask := t, wm := y.cnt }))
  else .error (.trap (trapOf cDivergence x.mask))

/-- A strand arrives at a barrier (08 R166, R168; 13 R265). -/
def State.arriveHere (s : State) (n : Nat) : Except Stop State :=
  let r := s.cur
  let x := s.me
  let blocked : State := s.onStrand r (fun y => { y.advance with st := .blocked, wait := waitAt n })
  match s.mine.owning r with
  | some e =>
    if !e.running && e.barr.isNone then
      let next := x.advance.pc
      let s1 := s.onOwning r (fun e => { e with pc := next, dmask := x.mask, barr := some n })
      let s2 := s1.onStrand r (fun y => { y.goto e.pc with mask := e.dmask })
      if s2.mismatched r.team r.strm then .error (.trap { cause := cBarrier, detail := 0, code := n, mask := x.mask, addr := 0 })
      else .ok (s2.reeval r.team)
    else if blocked.mismatched r.team r.strm then
      .error (.trap { cause := cBarrier, detail := 0, code := n, mask := x.mask, addr := 0 })
    else .ok (blocked.reeval r.team)
  | none =>
    if blocked.mismatched r.team r.strm then
      .error (.trap { cause := cBarrier, detail := 0, code := n, mask := x.mask, addr := 0 })
    else .ok (blocked.reeval r.team)

end Sys2Proof.Machine
end

