-- ==== Sys2Proof/Machine/Debug.lean ====
section
/-! DEFINITION. Debug comparators (11 R227 to R230). -/

namespace Sys2Proof.Machine

/-- The settings that a write has replaced less than eight cycles ago. -/
def Comparator.late (c : Comparator) (clock : Nat) : List CmpRegs := (c.olds.filter (fun p => decide (clock < p.2 + 8))).map Prod.fst

/-- The setting a word meets: inside the eight cycles after a write, the old one or the new one (R230; a free choice, log 2). -/
def Comparator.setting (c : Comparator) (clock nonce : Nat) : CmpRegs :=
  match c.late clock with
  | [] => c.regs
  | old => (c.regs :: old).getD (Config.pick nonce % (old.length + 1)) c.regs

/-- Whether a comparator's choice is open at this cycle. -/
def Comparator.open_ (c : Comparator) (clock : Nat) : Bool := !(c.late clock).isEmpty

def CmpRegs.kind (c : CmpRegs) : Nat := (fld c.ctl 1 3).toNat
def CmpRegs.halt (c : CmpRegs) : Bool := c.ctl.getLsbD 14
def CmpRegs.shut (c : CmpRegs) : Bool := c.ctl.getLsbD 15

/-- Enabled, with HALT or SHUT, for the strand's context and stream (R227, R228). -/
def CmpRegs.watches (c : CmpRegs) (T : Team) (x : StreamId) : Bool :=
  c.ctl.getLsbD 0 && decide (fld c.ctl 16 32 = 0) && decide (fld c.ctl 9 3 = 0) && decide (fld c.ctl 4 4 = 0)
  && (c.halt || c.shut) && (fld c.ctl 48 16).toNat == T.ctx % 65536
  && (match x with | .c => c.ctl.getLsbD 13 | .a => c.ctl.getLsbD 12)

/-- The lanes that qualify (R227). -/
def CmpRegs.qualifies (c : CmpRegs) (T : Team) (l : Nat) : Bool := c.qual.getLsbD (32 + l / T.gw) && c.qual.getLsbD (l % T.gw)

/-- The lanes of a strand that a PC comparator matches at an address. -/
def CmpRegs.pcLanes (c : CmpRegs) (T : Team) (x : StreamId) (m : Mask) (pc : W64) : List Nat :=
  if c.watches T x && c.kind == 0 && decide (c.lo ≤ pc) && decide (pc ≤ c.hi) then (T.lanesOf m).filter (c.qualifies T) else []

/-- The lanes that a data comparator matches: addresses with their sizes, for loads and stores; a range whose bounds are the wrong way round
holds nothing (R228). -/
def CmpRegs.dataLanes (c : CmpRegs) (T : Team) (x : StreamId) (isLoad isStore spad : Bool) (size : Nat) (es : List (Nat × W64)) : List Nat :=
  if c.watches T x && ((c.kind == 1 && isLoad) || (c.kind == 2 && isStore) || c.kind == 3) && (!spad || c.ctl.getLsbD 8) && decide (c.lo ≤ c.hi) then
    (es.filter (fun p => c.qualifies T p.1 && decide (c.lo.toNat ≤ p.2.toNat + size - 1) && decide (p.2.toNat ≤ c.hi.toNat))).map Prod.fst
  else []

/-- What comparators do to a word: whether the Shutter fires, and the lowest one that halts, with its lanes. -/
structure CmpHit where
  fires : Bool
  halt  : Option (Nat × List Nat)
deriving DecidableEq, Repr

/-- Looks at comparators 0 to 7 of a core with a test of one setting; a suppressed comparator does not halt. -/
def State.compare (s : State) (core : Nat) (supp : List Nat) (test : CmpRegs → List Nat) : CmpHit :=
  (List.range 8).foldl (fun h i =>
    let c := (SMap.get Comparator.reset (s.core core).cmps i).setting s.clock (s.nonce + i)
    let ls := test c
    if ls.isEmpty then h
    else { fires := h.fires || (c.shut && s.hub.shEcmp)
           halt := if h.halt.isNone && c.halt && !supp.contains i then some (i, ls) else h.halt }) { fires := false, halt := none }

/-- Draws the choices of R230 where some comparator of the core was written less than eight cycles ago. -/
def State.drewCmp (s : State) (core : Nat) : State :=
  if (s.core core).cmps.any (fun p => p.2.open_ s.clock) then s.drew 8 else s

/-- The comparator trap (R229): the lowest matching lane's address, or the word's. -/
def cmpTrap (i : Nat) (data : Bool) (m : Mask) (addr : W64) : TrapInfo :=
  { cause := cCompare, detail := bit1 data, code := i, mask := m, addr := addr }

end Sys2Proof.Machine
end

