-- ==== Sys2Proof/Machine/InstructionStore.lean ====
section
/-! DEFINITION. The instruction stores: a core's L1I, its die's shared store, and the packets that a fetch takes from them
(02 R34; 17 R294, R310, R311). -/

namespace Sys2Proof.Machine

/-- Packets that an L1I of 128 KiB holds, and lines of a shared store of 4 MiB, which has lines of 128 bytes here (R294; log 31). -/
def l1iPackets : Nat := 131072 / 12
def storeLines : Nat := 4194304 / 128

/-- Key of a packet in an L1I, and of a line in the shared stores. -/
def l1iKey (ctx : Nat) (packet : W64) : Nat := ctx * 2 ^ 48 + va48 packet
def storeKey (die line : Nat) : Nat := 2 ^ 41 * die + line

/-- A line of a die's shared store, if it holds it. -/
def State.storeLine (s : State) (die line : Nat) : Option StoreLine :=
  (s.istore.find? (fun p => p.1 == storeKey die line)).map Prod.snd

/-- A line leaves a die's shared store, and the packets that hold a part of it leave the L1Is of the cores that it names: the store is
inclusive. -/
def State.dropStore (s : State) (die line : Nat) : State :=
  match s.storeLine die line with
  | none => s
  | some l =>
    { s with istore := SMap.erase s.istore (storeKey die line)
             cores := s.cores.map (fun p => if l.cores.contains p.1
               then (p.1, { p.2 with l1i := p.2.l1i.filter (fun e => !e.2.lines.contains line) }) else p) }

/-- Makes room in a die's shared store, but keeps some lines; which line goes is open (log 31). -/
def State.storeRoom (s : State) (die : Nat) (keep : List Nat) : State :=
  let ls := (s.istore.filter (fun p => p.1 / 2 ^ 41 == die)).map (fun p => p.1 % 2 ^ 41)
  if ls.length < storeLines then s
  else match ls.filter (fun l => !keep.contains l) with
    | [] => s
    | l => { (s.dropStore die (drawFrom s.nonce l)) with nonce := s.nonce + 1 }

/-- The line of an address comes into the shared store of a core's die, from the L2 and memory, without pushing out the lines of the
same packet; the store records the core. -/
def State.fillStore (s : State) (core : Nat) (keep : List Nat) (pa : Nat) : State :=
  let die := dieOf core
  match s.storeLine die (pa / 128) with
  | some l => if l.cores.contains core then s
              else { s with istore := SMap.put s.istore (storeKey die (pa / 128)) { l with cores := core :: l.cores } }
  | none =>
    let s1 := (s.storeRoom die keep).fillLinear pa 1
    { s1 with istore := SMap.put s1.istore (storeKey die (pa / 128)) { data := (s.homeLine (pa / 128)).data, cores := [core] } }

/-- The word at an address, as a die's shared store holds it. -/
def State.storeWord (s : State) (die pa : Nat) : W32 :=
  match s.storeLine die (pa / 128) with
  | some l => BitVec.ofNat 32 (l.data.toNat / 2 ^ (8 * (pa % 128)))
  | none => 0

/-- The three words of a packet. -/
def packetWords (bits : BitVec 96) : List W32 := [fld bits 0 32, fld bits 32 32, fld bits 64 32]

/-- A packet comes into a core's L1I. Which packet a full L1I gives up is open (log 31). -/
def State.fillPacket (s : State) (core key : Nat) (p : PacketLine) : State :=
  let l := (s.core core).l1i
  if l.length < l1iPackets then s.onCore core (fun k => { k with l1i := SMap.put k.l1i key p })
  else { (s.onCore core (fun k => { k with l1i := SMap.put (SMap.erase k.l1i (drawFrom s.nonce (l.map Prod.fst))) key p }))
           with nonce := s.nonce + 1 }

/-- Where the words at some addresses lie, each by its own translation: a packet may cross into the next page. -/
def State.wordPlaces (s : State) (core ctx : Nat) : List W64 → Option (List Nat × State)
  | [] => some ([], s)
  | e :: rest =>
    match s.translate core ctx e { r := false, w := false } with
    | .fail _ => none
    | .ok pa s1 =>
      match s1.wordPlaces core ctx rest with
      | some (l, s2) => some (pa :: l, s2)
      | none => none

/-- What a fetch answers. -/
inductive Fetched where
  | ok (words : List W32) (s : State)
  | outside
  | unmapped
  | poisoned (pa : Nat) (s : State)
deriving DecidableEq

/-- Fetches the packet that holds an address: from the core's L1I, or through the shared store of its die, which fetches from the L2 and
memory the lines that it does not hold; a poisoned byte is not fetched (R294, R311). -/
def State.fetch (s : State) (t : Nat) (pc : W64) : Fetched :=
  let T := s.team t
  let p := packetOf pc
  if !(decide (T.cb ≤ p) && decide (p < T.ce)) then .outside
  else
    let key := l1iKey T.ctx p
    match (s.core T.core).l1i.find? (fun e => e.1 == key) with
    | some e => .ok (packetWords e.2.bits) s
    | none =>
      match s.wordPlaces T.core T.ctx [p, p + 4, p + 8] with
      | none => .unmapped
      | some (pas, s1) =>
        match pas.find? (fun a => (s1.storeLine (dieOf T.core) (a / 128)).isNone && s1.poisoned a 4) with
        | some a => .poisoned a s1
        | none =>
          let s2 := pas.foldl (fun s a => s.fillStore T.core (pas.map (fun a => a / 128)) a) s1
          let ws := pas.map (s2.storeWord (dieOf T.core))
          let bits : BitVec 96 := BitVec.ofNat 96 (natOfBytes (ws.flatMap (fun w => bytesOfNat 4 w.toNat)))
          .ok ws (s2.fillPacket T.core key { bits := bits, lines := (pas.map (fun a => a / 128)).eraseDups })

/-- The physical runs that a range of a context's addresses covers; pages that are not mapped are passed over (R310). -/
def State.codeRuns (s : State) (ctx lo n : Nat) : List (Nat × Nat) :=
  (List.range (n / 4096 + 2)).filterMap (fun i =>
    let page := lo / 4096 * 4096 + 4096 * i
    let a := max lo page
    let b := min (lo + n) (page + 4096)
    if a < b then (s.walk ctx a).map (fun l => (l.pa a, b - a)) else none)

/-- Code of a context's range leaves the instruction stores: its packets every L1I, and its lines every shared store, with the packets that
hold a part of them (R310). -/
def State.dropCode (s : State) (ctx lo n : Nat) : State :=
  let hit (k : Nat) : Bool := k / 2 ^ 48 == ctx && decide (k % 2 ^ 48 < lo + n) && decide (lo < k % 2 ^ 48 + 12)
  let runs := s.codeRuns ctx lo n
  let ks := (s.istore.filter (fun p => runs.any (fun r => decide (r.1 < 128 * (p.1 % 2 ^ 41) + 128) && decide (128 * (p.1 % 2 ^ 41) < r.1 + r.2)))).map Prod.fst
  let s1 := ks.foldl (fun s k => s.dropStore (k / 2 ^ 41) (k % 2 ^ 41)) s
  { s1 with cores := s1.cores.map (fun p => (p.1, { p.2 with l1i := p.2.l1i.filter (fun e => !hit e.1) })) }

end Sys2Proof.Machine
end

