-- ==== Sys2Proof/WellFormed.lean ====
section
/-! DEFINITION. Well-formed instructions: the values of operand fields that Tables 2-3 to 2-8 and the instructions'
own descriptions define (02 R44). A word whose fields are not well formed raises illegal-instruction by check 2 of R39. -/

namespace Sys2Proof

/-- A vector field that names a register, not a queue port (02 Table 2-3). -/
def isReg {n : Nat} (v : BitVec n) : Bool := decide (v.toNat < 120)

/-- An even register or scalar number. -/
def even {n : Nat} (v : BitVec n) : Bool := decide (v.toNat % 2 = 0)

/-- The conditions of the C format (05 Table 5-1). -/
def condOk (k : BitVec 3) : Bool := decide (k.toNat ≤ 5)

/-- The block counts of the Q format (04 R90). -/
def blocksOk (n : BitVec 4) : Bool := decide (1 ≤ n.toNat) && decide (n.toNat ≤ 11)

/-- The rounding modes (03 R59). -/
def rndOk (r : BitVec 3) : Bool := decide (r.toNat ≤ 5)

/-- m of VADD, VSUB, VMUL and VFMA: SAT and SR (06 R118). -/
def satSrOk (m : BitVec 3) : Bool := !m.getLsbD 2

/-- m of VABS and VNEG: SAT alone (06 R118). -/
def satOk (m : BitVec 3) : Bool := !m.getLsbD 2 && !m.getLsbD 1

/-- The data operand of a load or store: a pair is even, a queue port takes 32 bits only (08 R173, 09 R185, 20 R368). -/
def dataOk (v : BitVec 7) (z : BitVec 2) : Bool :=
  if isReg v then decide (z.toNat = 3 → v.toNat % 2 = 0) else decide (z.toNat = 2)

/-- The sub-functions of ATOMS and ATOML (02 Table 2-8, 20 R368). -/
def atomFnOk (f : BitVec 4) : Bool := decide (f.toNat ≤ 9)

/-- The sub-functions of ATOM; the 64-bit ones name an even pair (09 R189). -/
def atomGFnOk (v : BitVec 7) (f : BitVec 4) : Bool :=
  decide (f.toNat ≤ 9) || (decide (f.toNat ≤ 11) && even v)

/-- The operands of a compare and swap (08 R175). -/
def casOk (v : BitVec 7) (z : BitVec 2) : Bool :=
  (decide (z.toNat = 2) && decide (v.toNat % 2 = 0)) || (decide (z.toNat = 3) && decide (v.toNat % 4 = 0))

/-- An operand block of `n` scalars that ends at or before s63 (17 R296). -/
def blockOk (a : BitVec 6) (n : Nat) : Bool := decide (a.toNat + n ≤ 64)

/-- The special-register numbers that Table 5-4 assigns (05 R113, R114). -/
def srAssigned (n : BitVec 12) : Bool :=
  let k := n.toNat
  decide (k ≤ 0x00C) || decide (0x010 ≤ k ∧ k ≤ 0x012) || decide (0x018 ≤ k ∧ k ≤ 0x019) || decide (0x020 ≤ k ∧ k ≤ 0x027)

/-- No operand field of the instruction holds a reserved value (02 R44). Events have no encoding. -/
def Instr.wf (i : Instr) : Bool :=
  match i with
  | .nop => true
  | .bra _ => true
  | .brc _ k _ => condOk k
  | .bri _ => true
  | .call _ => true
  | .ret => true
  | .divb _ _ _ => true
  | .join => true
  | .endStrand => true
  | .yield _ => true
  | .loop _ k _ => condOk k
  | .trap _ => true
  | .bkpt _ => true
  | .sysc _ => true
  | .sadd _ _ _ => true
  | .ssub _ _ _ => true
  | .smul _ _ _ => true
  | .smulh _ _ _ => true
  | .sand _ _ _ => true
  | .sor _ _ _ => true
  | .sxor _ _ _ => true
  | .sshl _ _ _ => true
  | .sshr _ _ _ => true
  | .ssra _ _ _ => true
  | .smin _ _ _ => true
  | .smax _ _ _ => true
  | .slt _ _ _ => true
  | .sltn _ _ _ => true
  | .ssel _ _ _ => true
  | .saddi _ _ _ => true
  | .slui _ _ => true
  | .srd _ n => srAssigned n
  | .swr _ n => srAssigned n
  | .regacq _ n => blocksOk n
  | .regrel _ n => blocksOk n
  | .reggive _ n => blocksOk n
  | .regclaim _ n => blocksOk n
  | .vidx _ _ _ => true
  | .vrdx _ _ a => isReg a
  | .vwrx _ d _ => isReg d
  | .vtag _ _ _ => true
  | .vadd m _ _ _ => satSrOk m
  | .vsub m _ _ _ => satSrOk m
  | .vmul m _ _ _ => satSrOk m
  | .vfma m d _ _ => satSrOk m && isReg d
  | .vmin _ _ _ => true
  | .vmax _ _ _ => true
  | .vabs m _ _ => satOk m
  | .vneg m _ _ => satOk m
  | .vand _ _ _ => true
  | .vor _ _ _ => true
  | .vxor _ _ _ => true
  | .vnot _ _ => true
  | .vshl _ _ _ => true
  | .vshr _ _ _ => true
  | .vsra _ _ _ => true
  | .vmov _ _ => true
  | .vmovi _ _ => true
  | .viota _ _ => true
  | .vmovs m _ _ => decide (m.toNat ≤ 3)
  | .vaddi _ _ _ => true
  | .vcmp _ k _ _ f => decide (k.toNat ≤ 6) && decide (f.toNat ≤ 2)
  | .vsel _ _ _ _ => true
  | .vcvt _ _ _ r _ _ => rndOk r
  | .vpack _ _ _ _ _ => true
  | .vunpk _ _ _ _ => true
  | .vdot d _ _ => isReg d
  | .vpopc _ _ => true
  | .vclz _ _ => true
  | .pand _ _ _ => true
  | .por _ _ _ => true
  | .pnot _ _ => true
  | .vseed _ _ => true
  | .vrand m _ => decide (m.toNat ≤ 1)
  | .leal _ v i _ => isReg v && even v && isReg i
  | .vexpf _ _ => true
  | .vrndi m _ _ => rndOk m
  | .vsclb _ _ _ => true
  | .vexpx _ _ => true
  | .vexpxMant _ _ => true
  | .vlogf _ _ => true
  | .vrcp _ _ => true
  | .vrsq _ _ => true
  | .vsinp _ _ => true
  | .vshfl m d a b => decide (m.toNat ≤ 1) && isReg d && isReg a && isReg b
  | .vbcst d a b => isReg d && isReg a && isReg b
  | .vred m d a => decide (m.toNat ≤ 5) && isReg d && isReg a
  | .vscan _ d a => isReg d && isReg a
  | .vbal m d _ => decide (m.toNat ≤ 1) && isReg d
  | .vconf m d a => decide (m.toNat ≤ 1) && isReg d && isReg a
  | .visect m d a b => decide (m.toNat ≤ 1) && isReg d && isReg a && isReg b
  | .lds _ v i _ z => isReg i && dataOk v z
  | .sts _ v i _ z => isReg i && dataOk v z
  | .atoms _ v h _ _ g => isReg v && atomFnOk (h ++ g)
  | .cass _ v i _ z => isReg v && isReg i && casOk v z
  | .waits => true
  | .qcfg _ _ => true
  | .qstat _ _ => true
  | .qdrn _ => true
  | .tbar _ => true
  | .ldl _ v i _ z => isReg i && dataOk v z
  | .stl _ v i _ z => isReg i && dataOk v z
  | .atoml _ v h _ _ g => isReg v && atomFnOk (h ++ g)
  | .ld _ v _ _ z => dataOk v z
  | .st _ v _ _ z => dataOk v z
  | .ldg _ v _ _ z => dataOk v z
  | .stg _ v _ _ z => dataOk v z
  | .atom _ v h _ _ g => isReg v && atomGFnOk v (h ++ g)
  | .cas _ v i _ z => isReg v && isReg i && casOk v z
  | .waitc k _ => decide (k.toNat ≤ 4)
  | .fence s => decide (s.toNat ≤ 5)
  | .pref _ v i _ => decide (v.toNat ≤ 1) && isReg i
  | .xprb _ _ _ f => decide (f.toNat ≤ 2)
  | .catset _ _ _ => true
  | .catget _ _ _ _ => true
  | .catld _ _ _ => true
  | .catfree _ _ => true
  | .ldref _ v i _ => isReg v && even v && isReg i
  | .ldrefS _ _ _ _ => true
  | .stref _ v i _ => isReg v && even v && isReg i
  | .strefS _ _ _ _ => true
  | .mrsv _ n => decide (1 ≤ n.toNat) && decide (n.toNat ≤ 64)
  | .mrel => true
  | .mzero _ k _ => decide (k.toNat ≤ 2)
  | .mma _ _ a b _ => isReg a && even b
  | .mmas _ _ a b _ => isReg a && even b
  | .mrd _ a _ _ => isReg a
  | .msta _ _ r b _ => even b && rndOk r
  | .mqnt _ r b => decide (b.toNat % 4 = 0) && decide (r.toNat ≤ 4)
  | .msal d a b => isReg d && isReg a && isReg b
  | .mpairSend _ _ _ _ => true
  | .mpairRecv _ _ _ _ => true
  | .cbar => true
  | .ldsc _ v i _ z => isReg i && dataOk v z
  | .stsc _ v i _ z => isReg i && dataOk v z
  | .epld _ _ _ => true
  | .epgen _ _ _ _ => true
  | .epinv _ _ _ _ => true
  | .epctxAcq _ _ _ => true
  | .epctxRel _ => true
  | .epstat _ _ _ _ => true
  | .tpref _ _ a => blockOk a 3
  | .tflush _ a => blockOk a 3
  | .cpy _ _ a => blockOk a 3
  | .cpyt _ _ a => blockOk a 5
  | .rclaim _ _ a => blockOk a 2
  | .rcommit _ _ a => blockOk a 3
  | .rawait _ _ a => blockOk a 2
  | .rretire _ _ a => blockOk a 3
  | .spawn _ _ a => blockOk a 2
  | .jobnew _ _ _ => true
  | .jobwait _ _ _ => true
  | .icinv _ a => blockOk a 2
  | .objnew _ _ _ => true
  | .publish _ a => blockOk a 2
  | .objinfo _ _ _ => true
  | .launch _ _ _ => true
  | .waitch _ _ => true
  | .fput _ a => blockOk a 3
  | .fget _ a => blockOk a 3
  | .fatom _ a => blockOk a 5
  | .renq _ a => blockOk a 4
  | .coll _ _ => true
  | .fsig _ a => blockOk a 3
  | .candidateUrgent _ => true
  | .yieldExpiry _ => true
  | .quotaDenial _ => true
  | .registerRequestGrant _ _ => true
  | .loadComplete _ _ _ => true
  | .memoryAccessPerform _ _ _ _ => true
  | .translationWalkComplete _ _ _ => true
  | .pageFaultPark _ _ => true
  | .xPipeAccept _ _ => true
  | .matrixEngineGrant _ _ => true
  | .entryUrgent _ _ => true
  | .mrsvGrant _ => true
  | .mrsvTimeout _ _ => true
  | .pairMatch _ _ _ _ => true
  | .pairAbortTimeout _ _ => true
  | .copyOperationComplete _ _ => true
  | .ephemerisOperationComplete _ _ => true
  | .engineOperationRetire _ _ _ => true
  | .deferredTrap _ => true
  | .publicationWalk _ => true
  | .ringWaitGrant _ => true
  | .taskDispatch _ _ => true
  | .taskSteal _ _ => true
  | .taskRetire _ => true
  | .unitPlacement _ _ => true
  | .gridUrgent _ => true
  | .gridEnd _ => true
  | .trapQueueDrain _ => true
  | .resume _ _ _ => true
  | .resumePublish _ _ => true
  | .skip _ _ _ => true
  | .kill _ _ => true
  | .killteam _ _ => true
  | .bankSwitch _ => true
  | .spillSave _ => true
  | .shadowLoad _ _ _ _ => true
  | .windowRestore _ _ => true
  | .stripeWake _ _ => true
  | .wayGate _ _ => true
  | .wayWake _ _ => true
  | .comparatorWrite _ _ _ _ => true
  | .semaRead _ => true
  | .semaWrite _ => true
  | .registerWrite _ _ _ => true
  | .shctlFire _ _ => true
  | .shctlRearm _ _ => true
  | .shutterLatch => true
  | .heartbeat => true
  | .heartbeatTimeout => true
  | .packageReset => true
  | .imageDownload _ _ _ _ => true
  | .getVersion _ => true
  | .getCapabilities _ => true
  | .negotiateAlgorithms _ => true
  | .getDigests _ => true
  | .getCertificate _ => true
  | .challenge _ _ => true
  | .getMeasurements _ _ => true
  | .portLinkDown _ => true
  | .powerHoldoff _ => true
  | .thermalTrip => true
  | .l2EccError _ _ _ => true
  | .hbmEccError _ _ => true
  | .patrolScrub _ _ => true
  | .dieLinkCrcError _ _ => true
  | .fabricLinkRetryLimit _ => true
  | .remoteOperation _ => true
  | .remoteEnqueueRequest _ _ _ _ _ => true
  | .remoteTaskCompletion _ _ _ _ => true
  | .fabricOperationComplete _ _ _ => true
  | .collJoinTimeout _ _ => true
  | .rootLaunch _ _ => true
  | .contextCreate _ _ => true
  | .bundleLoad _ _ _ _ => true
  | .pageFaultService _ _ _ _ => true
  | .extentRevoke _ _ => true
  | .shootdown _ _ _ => true
  | .fabricGroupAttach _ _ => true
  | .fabricWindowRegister _ _ _ _ => true
  | .null _ => true
  | .log _ => true
  | .time _ => true
  | .map _ _ _ => true
  | .unmap _ _ => true
  | .protect _ _ => true
  | .handler _ => true
  | .resumerec _ => true
  | .setbypass _ => true
  | .notify _ => true
  | .exit _ => true
  | .scratchpadAccessPerform _ _ _ => true
  | .sramEccError _ _ _ => true
  | .fabricFlitCrcError _ => true
  | .portLinkUp _ _ _ => true
  | .fabricWindowRemove _ _ => true

end Sys2Proof
end

