-- ==== Sys2Proof/Machine/Frontend.lean ====
section
/-! DEFINITION. The front end: the checks of a bundle, readiness, and what surrounds a word (02 R34 to R44; 05 R105 to R107;
08 R156; 11 R229 to R232; 17 R294). -/

namespace Sys2Proof.Machine

/-- The six pipes (02 R36). -/
inductive Pipe where
  | none | s | v | f | m | x
deriving DecidableEq, Repr

/-- The pipe of an instruction (02 Table 2-5). -/
def pipeOf (i : Instr) : Pipe :=
  match i with
  | .nop => .none
  | .bra _ | .brc _ _ _ | .bri _ | .call _ | .ret | .divb _ _ _ | .join | .endStrand | .yield _ | .loop _ _ _ | .trap _ | .bkpt _
  | .sysc _ | .sadd _ _ _ | .ssub _ _ _ | .smul _ _ _ | .smulh _ _ _ | .sand _ _ _ | .sor _ _ _ | .sxor _ _ _ | .sshl _ _ _
  | .sshr _ _ _ | .ssra _ _ _ | .smin _ _ _ | .smax _ _ _ | .slt _ _ _ | .sltn _ _ _ | .ssel _ _ _ | .saddi _ _ _ | .slui _ _
  | .srd _ _ | .swr _ _ | .regacq _ _ | .regrel _ _ | .reggive _ _ | .regclaim _ _ | .vidx _ _ _ => .s
  | .vexpf _ _ | .vrndi _ _ _ | .vsclb _ _ _ | .vexpx _ _ | .vexpxMant _ _ | .vlogf _ _ | .vrcp _ _ | .vrsq _ _ | .vsinp _ _
  | .vshfl _ _ _ _ | .vbcst _ _ _ | .vred _ _ _ | .vscan _ _ _ | .vbal _ _ _ | .vconf _ _ _ | .visect _ _ _ _ | .msal _ _ _ => .f
  | .leal _ _ _ _ | .lds _ _ _ _ _ | .sts _ _ _ _ _ | .atoms _ _ _ _ _ _ | .cass _ _ _ _ _ | .waits | .qcfg _ _ | .qstat _ _
  | .qdrn _ | .tbar _ | .ldl _ _ _ _ _ | .stl _ _ _ _ _ | .atoml _ _ _ _ _ _ | .ld _ _ _ _ _ | .st _ _ _ _ _ | .ldg _ _ _ _ _
  | .stg _ _ _ _ _ | .atom _ _ _ _ _ _ | .cas _ _ _ _ _ | .fence _ | .pref _ _ _ _ | .ldref _ _ _ _ | .ldrefS _ _ _ _
  | .stref _ _ _ _ | .strefS _ _ _ _ | .ldsc _ _ _ _ _ | .stsc _ _ _ _ _ => .m
  | .waitc _ _ | .xprb _ _ _ _ | .catset _ _ _ | .catget _ _ _ _ | .catld _ _ _ | .catfree _ _ | .mrsv _ _ | .mrel | .mzero _ _ _
  | .mma _ _ _ _ _ | .mmas _ _ _ _ _ | .mrd _ _ _ _ | .msta _ _ _ _ _ | .mqnt _ _ _ | .mpairSend _ _ _ _ | .mpairRecv _ _ _ _
  | .cbar | .epld _ _ _ | .epgen _ _ _ _ | .epinv _ _ _ _ | .epctxAcq _ _ _ | .epctxRel _ | .epstat _ _ _ _ | .tpref _ _ _
  | .tflush _ _ | .cpy _ _ _ | .cpyt _ _ _ | .rclaim _ _ _ | .rcommit _ _ _ | .rawait _ _ _ | .rretire _ _ _ | .spawn _ _ _
  | .jobnew _ _ _ | .jobwait _ _ _ | .icinv _ _ | .objnew _ _ _ | .publish _ _ | .objinfo _ _ _ | .launch _ _ _ | .waitch _ _
  | .fput _ _ | .fget _ _ | .fatom _ _ | .renq _ _ | .coll _ _ | .fsig _ _ => .x
  | _ => .v

/-- Words that only the A-stream may issue (08 R156). -/
def onlyA (i : Instr) : Bool := match i with | .ldg _ _ _ _ _ | .stg _ _ _ _ _ => true | _ => false

/-- Words that only the C-stream may issue (08 R156): the quota words, STREF, MSAL, LDSC, STSC, and the X pipe but for WAITC and
eight sub-functions of XCMD. -/
def onlyC (i : Instr) : Bool :=
  match i with
  | .regacq _ _ | .regrel _ _ | .reggive _ _ | .regclaim _ _ | .stref _ _ _ _ | .strefS _ _ _ _ | .msal _ _ _ | .ldsc _ _ _ _ _
  | .stsc _ _ _ _ _ => true
  | .waitc _ _ | .tpref _ _ _ | .tflush _ _ | .cpy _ _ _ | .cpyt _ _ _ | .rclaim _ _ _ | .rcommit _ _ _ | .rawait _ _ _
  | .rretire _ _ _ => false
  | i => decide (pipeOf i = .x)

/-- Words that are illegal in legacy-width mode (01 R28). -/
def notLw (i : Instr) : Bool :=
  match i with
  | .mrsv _ _ | .mrel | .mzero _ _ _ | .mma _ _ _ _ _ | .mmas _ _ _ _ _ | .mrd _ _ _ _ | .msta _ _ _ _ _ | .mqnt _ _ _
  | .msal _ _ _ | .mpairSend _ _ _ _ | .mpairRecv _ _ _ _ => true
  | _ => false

/-- The vector fields that a word reads, and those it writes: what its queue ports pop and push. -/
def vecFields (i : Instr) : List Nat × List Nat :=
  match i with
  | .vrdx _ d _ | .vmovi d _ | .viota d _ | .vmovs _ d _ | .vbal _ d _ | .vrand _ d => ([], [d.toNat])
  | .vwrx _ _ a => ([a.toNat], [])
  | .vtag _ d a | .vabs _ d a | .vneg _ d a | .vnot d a | .vmov d a | .vaddi d a _ | .vcvt _ d a _ _ _ | .vpack _ d a _ _
  | .vunpk _ d a _ | .vpopc d a | .vclz d a | .vexpf d a | .vrndi _ d a | .vexpx d a | .vexpxMant d a | .vlogf d a | .vrcp d a
  | .vrsq d a | .vsinp d a | .vred _ d a | .vscan _ d a | .vconf _ d a => ([a.toNat], [d.toNat])
  | .vadd _ d a b | .vsub _ d a b | .vmul _ d a b | .vfma _ d a b | .vsel _ d a b | .vshfl _ d a b | .visect _ d a b => ([a.toNat, b.toNat], [d.toNat])
  | .vmin d a b | .vmax d a b | .vand d a b | .vor d a b | .vxor d a b | .vshl d a b | .vshr d a b | .vsra d a b | .vdot d a b
  | .vsclb d a b | .vbcst d a b => ([a.toNat, b.toNat], [d.toNat])
  | .vcmp _ _ a b _ | .vseed a b => ([a.toNat, b.toNat], [])
  | .lds _ v _ _ _ | .ldl _ v _ _ _ | .ld _ v _ _ _ | .ldsc _ v _ _ _ => ([], [v.toNat])
  | .sts _ v _ _ _ | .stl _ v _ _ _ | .st _ v _ _ _ | .stsc _ v _ _ _ => ([v.toNat], [])
  | .ldg _ v i _ _ => ([i.toNat], [v.toNat])
  | .stg _ v i _ _ => ([v.toNat, i.toNat], [])
  | _ => ([], [])

/-- Queue ports named in their direction (08 R158): q0 to q5 from A to C, q6 and q7 from C to A. -/
def portsOk (i : Instr) (x : StreamId) : Bool :=
  let cPops (f : Nat) : Bool := decide (f < 126)
  let ok (pop : Bool) (f : Nat) : Bool := !isPort f || ((cPops f == pop) == decide (x = .c))
  (vecFields i).1.all (ok true) && (vecFields i).2.all (ok false)

/-- Check 5 of R39: the word's stream, its queue directions, legacy-width mode. -/
def placeOk (T : Team) (x : StreamId) (i : Instr) : Bool :=
  (match x with | .c => !onlyA i | .a => !onlyC i) && portsOk i x && (!T.lw || !notLw i)

/-! The checks of a bundle (02 R39). -/

/-- What the checks of a bundle give: whether a Shutter trigger fired, the first trap with its word, or the number of words. -/
structure Checked where
  fires : Bool
  trap  : Option (TrapInfo × W64)
  count : Nat
deriving DecidableEq, Repr

/-- Whether one more word may hold its pipe after the words `used` of its bundle (02 R36). -/
def pipeFree (used : List Pipe) (p : Pipe) : Bool :=
  match p with
  | .none => true
  | .v => decide ((used.filter (fun q => q = .v)).length < 2)
  | p => decide (p ∉ used)

/-- The checks of R39, word by word from position k of the packet; `skip` names a word that has no effect (11 R225). -/
def checkWords (s : State) (T : Team) (r : StrandRef) (x : Strand) : List W32 → Nat → List Pipe → Checked → Checked
  | [], _, _, acc => acc
  | w :: rest, k, used, acc =>
    let pc := packetOf x.pc + BitVec.ofNat 64 (4 * k)
    let acc1 := { acc with count := acc.count + 1 }
    let goOn (ends : Bool) (used : List Pipe) (acc : Checked) : Checked :=
      if chainBit w && !ends && decide (k < 2) then checkWords s T r x rest (k + 1) used acc else acc
    if x.skipAt = some pc then goOn (match decodeWord w with | .ok i => endsPacket i | .error _ => false) used acc1
    else
      let supp := x.suppressed pc
      let hit := s.compare T.core supp (fun c => c.pcLanes T r.strm x.mask pc)
      let acc2 := { acc1 with fires := acc.fires || hit.fires }
      let bad (cause : Nat) : Checked :=
        { acc2 with trap := some ({ cause := cause, detail := if cause = cZero then 0 else k, code := 0, mask := x.mask, addr := 0 }, pc) }
      match hit.halt with
      | some (i, ls) => { acc2 with trap := some (cmpTrap i false (maskOf ls) pc, pc) }
      | none =>
        if w = 0 then bad cZero
        else match decodeWord w with
          | .error _ => bad cIllegal
          | .ok i =>
            if !i.wf then bad cIllegal
            else if k = 2 ∧ chainBit w then bad cChain
            else if !pipeFree used (pipeOf i) then bad cChain
            else if !placeOk T r.strm i then bad cIllegal
            else goOn (endsPacket i) (pipeOf i :: used) acc2

/-- The checks of the bundle at a strand's pc, whose packet's words are given. -/
def checkBundle (s : State) (T : Team) (r : StrandRef) (x : Strand) (ws : List W32) : Checked :=
  let k := x.pc.toNat % 12 / 4
  checkWords s T r x (ws.drop k) k [] { fires := false, trap := none, count := 0 }

/-! Readiness (01 R16, R17; 02 R42; 11 R232). -/

/-- An operation of a lookahead window is at its completion point: a load when its registers are written, a store when its lanes are
translated, an engine word when its unit has accepted it (02 R42; log 11). -/
def Team.opClosed (T : Team) (op : Nat) : Bool :=
  (T.accs.all (fun a => decide (a.id ≠ op) ||
    (match a.dest with
     | .regs _ _ _ => a.complete
     | .refPair _ _ => a.complete
     | .scalar _ => a.complete
     | _ => a.lanes.all (fun l => match l.st with
         | .toTranslate => false | .unfinished _ => false | .failed _ _ => false | _ => true))))
  && T.engs.all (fun e => decide (e.id ≠ op) || (match e.kind with
     | .mrd _ _ _ _ _ | .epstat _ _ _ | .mpair _ _ _ _ _ _ _ _ => decide (e.stage = .done)
     | _ => decide (e.stage ≠ .issued)))

/-- A strand of the team steps with FREEZE (11 R232). -/
def State.frozen (s : State) (t : Nat) : Bool :=
  (s.strandsOf t .c ++ s.strandsOf t .a).any (fun r => (s.strand r).step && (s.strand r).freeze)

/-- The strand that a deferred trap stops: the holder of the lowest lane of the issuing mask, else of the lowest live lane (11 R216).
A lane of an overflow entry is held by its owner. -/
def State.holderOf (s : State) (t : Nat) (x : StreamId) (lane : Nat) : Option StrandRef :=
  match (s.strandsOf t x).find? (fun r => decide ((s.strand r).st ≠ .suspended) && (s.strand r).mask.getLsbD lane) with
  | some r => some r
  | none =>
    match (s.team t).ovf.find? (fun e => decide (e.strm = x) && (if e.running then e.amask else e.dmask).getLsbD lane) with
    | some e => some { team := t, strm := x, sid := e.owner }
    | none => none

def State.stoppedBy (s : State) (t : Nat) (d : DeferredTrap) : Option StrandRef :=
  if !((s.team t).stream d.strm).lives then none
  else match s.holderOf t d.strm ((s.team t).lowest d.mask) with
    | some r => some r
    | none => s.holderOf t d.strm ((s.team t).lowest (s.liveLanes t d.strm))

/-- The waits whose word is tried again at the strand's turns. -/
def Wait.retries (w : Wait) : Bool := match w with
  | .again | .drain _ | .fence _ | .push _ | .job _ _ => true
  | _ => false

/-- Whether the other teams of a team's cluster are in active banks: until every one is, none issues (13 R241). -/
def State.clusterActive (s : State) (t : Nat) : Bool :=
  (s.team t).cluster.all (fun u => !(s.team u).live || (s.team u).retiring || decide ((s.team u).held = .active))

/-- Whether a strand stands where it may issue, but for the interlocks of its next word and the choice of its front end (01 R16). A word
that has issued, in part or whole, goes on before a deferred trap stops its strand (16 R288). -/
def State.candidate (s : State) (r : StrandRef) : Bool :=
  let T := s.team r.team
  let x := s.strand r
  T.live && decide (T.held = .active) && s.clusterActive r.team && s.hub.railsOn && decide ((s.core T.core).readyAt ≤ s.clock)
  && (decide (x.st = .running) || (decide (x.st = .blocked) && x.wait.retries)) && decide (x.yieldLeft = 0) && decide (x.wait ≠ .yield)
  && (x.replay.isSome || x.windows.all (fun w => decide (0 < w.2) || T.opClosed w.1))
  && (x.step || !s.frozen r.team)
  && (decide (x.st = .blocked) || !x.early.isEmpty || T.deferred.all (fun d => decide (s.stoppedBy r.team d ≠ some r)))

/-- The strands of one stream kind in a core's active bank. -/
def State.frontEnd (s : State) (core : Nat) (x : StreamId) : List StrandRef :=
  ((s.core core).active.slots.map Prod.snd).flatMap (fun t => s.strandsOf t x)

/-! What surrounds a word. -/

/-- The step trap at the end of a bundle (11 R231). -/
def State.stepStop (s : State) (r : StrandRef) : State :=
  let x := s.strand r
  s.takeTrap r (trapOf cStep x.mask) x.bundlePc x.pc

/-- After a word: the strand's readiness starts anew, the quota detector of its bank sees a running strand, and a finished bundle
under STEP stops, once its accesses are translated: one that faults reports its own trap instead (11 R231). -/
def State.settle (s : State) (r : StrandRef) : State :=
  let x := s.strand r
  if x.st = .running then
    let s1 := s.onStrand r (fun x => { x with readyAt := s.clock, urgent := false,
                                              windows := x.windows.filter (fun w => !(s.team r.team).opClosed w.1) })
    let s2 := match r.strm with
      | .c => s1.setBank r.team { s1.bank r.team with dSince := none }
      | .a => s1
    if x.stepDue && !s.untranslated r then s2.stepStop r else s2
  else s

/-- The strand passes a word that has no effect (11 R225 SKIP): the next word, or the next packet after a packet-ending word. DESIGN
CHOICE (log 68): after a word that fails decoding, whatever its opcode, the strand goes on at the next word; the spec does not say. -/
def State.passWord (s : State) (r : StrandRef) (w : W32) : State :=
  let ends : Bool := match decodeWord w with | .ok i => endsPacket i | .error _ => false
  s.onStrand r (fun x => { (if ends then x.goto (nextPacket x.pc) else x.advance) with skipAt := none })

/-- Words that divide, join, end or block their strand. -/
def steers (i : Instr) : Bool :=
  match i with
  | .divb _ _ _ | .join | .endStrand | .trap _ | .bkpt _ | .sysc _ | .regacq _ _ | .regclaim _ _ | .tbar _ | .cbar | .mrsv _ _
  | .rclaim _ _ _ | .rcommit _ _ _ | .rawait _ _ _ | .rretire _ _ _ => true
  | _ => false

/-- Whether the front end would trap the word at a strand's pc, or the word steers its strand: such a word waits until the strand's
earlier accesses are translated (log 12). -/
def State.steersNext (s : State) (r : StrandRef) : Bool :=
  let x := s.strand r
  match s.fetch r.team x.pc with
  | .outside => true
  | .unmapped => false
  | .poisoned _ _ => true
  | .ok ws _ =>
    let w := ws.getD (x.pc.toNat % 12 / 4) 0
    (x.checked = 0 && (checkBundle s (s.team r.team) r x ws).trap.isSome)
    || (match decodeWord w with | .ok i => steers i | .error _ => decide (x.skipAt ≠ some x.pc))

/-- The trap of a word that no longer decodes when its strand reaches it: its packet was fetched again after its bundle had been checked
(05 R107; log 69). -/
def badWord (x : Strand) (w : W32) : TrapInfo :=
  { cause := if w = 0 then cZero else cIllegal, detail := if w = 0 then 0 else x.pc.toNat % 12 / 4, code := 0, mask := x.mask, addr := 0 }

/-- What the front end does with a strand's turn before a word executes: nothing, a trap or another end of the turn, or a decoded word
with the state in which it executes. -/
inductive Front where
  | done (o : Out)
  | word (i : Instr) (s : State)

/-- The turn of a strand up to the execution of its word. -/
def State.front (s : State) (r : StrandRef) : Front :=
  let s0 := { s with cur := r }
  if !s0.candidate r then .done (.next s0)
  else if s0.untranslated r && ((s0.strand r).stepDue || s0.steersNext r) then .done (.next s0)
  else if (s0.strand r).stepDue then .done (.next (s0.stepStop r))
  else
    let s1 := s0.onStrand r (fun x => { x with st := .running })
    let x := s1.strand r
    match s1.fetch r.team x.pc with
    | .outside =>
      .done (.next (s1.takeTrap r { cause := cFetch, detail := 0, code := 0, mask := x.mask, addr := x.pc } x.pc x.pc))
    | .unmapped => .done (.fault .codeUnmapped)
    | .poisoned pa s2 =>
      .done (.next (s2.takeTrap r { cause := cMachine, detail := 0, code := 0, mask := x.mask, addr := BitVec.ofNat 64 pa } x.pc x.pc))
    | .ok ws s2 =>
      let w := ws.getD (x.pc.toNat % 12 / 4) 0
      if x.checked = 0 then
        let c := checkBundle s2 (s2.team r.team) r x ws
        let s3 := s2.drewCmp (s2.team r.team).core
        let s4 := if c.fires then s3.shutter 1 else s3
        match c.trap with
        | some (t, pc) => .done (.next (s4.takeTrap r t pc x.pc))
        | none =>
          let s5 := s4.onStrand r (fun x => { x with checked := c.count, bundlePc := x.pc })
          if x.skipAt = some x.pc then .done (.next ((s5.passWord r w).settle r))
          else match decodeWord w with
            | .ok i => .word i s5
            | .error _ => .done (.next s5)
      else if x.skipAt = some x.pc then .done (.next ((s2.passWord r w).settle r))
      else match decodeWord w with
        | .ok i => if i.wf then .word i s2 else .done (.next (s2.takeTrap r (badWord x w) x.pc x.pc))
        | .error _ => .done (.next (s2.takeTrap r (badWord x w) x.pc x.pc))

/-- The outcome of a word's execution, settled. -/
def settled (r : StrandRef) (o : Out) : Out :=
  match o with
  | .next s => .next (s.settle r)
  | .fault f => .fault f
  | .refused e => .refused e

end Sys2Proof.Machine
end

