-- ==== Sys2Proof/Machine/Access.lean ====
section
/-! DEFINITION. Accesses: where an address lies, the checks at issue, issuing, and what each lane does when it is performed
(08 R171 to R177; 09 R180 to R189, R209 to R212; 18 R316 to R326; 19 R353). -/

namespace Sys2Proof.Machine

/-! Scratchpad addresses (08 Table 8-3). -/

def aperture (e : W64) : Bool := decide (fld e 40 24 = 0xFFFFFE)
def addrRank (e : W64) : Nat := (fld e 32 4).toNat
def addrOff (e : W64) : Nat := (fld e 0 23).toNat
/-- The bits that must be zero below bit 40. -/
def addrPlain (e : W64) : Bool := decide (fld e 36 4 = 0) && decide (fld e 23 9 = 0)

/-- The team of a cluster rank, by its name in the model; 15 is the team itself. -/
def Team.rankTeam (T : Team) (self rank : Nat) : Option Nat :=
  if rank = 15 ∨ rank = T.crank then some self else if rank ≤ 11 then T.cluster[rank]? else .none

/-- A place in a team's window, if the team is there and the whole run lies inside. -/
def State.inWindow (s : State) (u off n : Nat) : Option (Nat × Nat) :=
  let T := s.team u
  if T.live && !T.retiring && decide (off + n ≤ T.w) then some (u, off) else none

/-- The place that an aperture address names, any rank of the cluster accepted (09 R180, R186 check 6). -/
def State.aperturePlace (s : State) (t : Nat) (e : W64) (n : Nat) : Option (Nat × Nat) :=
  if aperture e && addrPlain e then
    match (s.team t).rankTeam t (addrRank e) with
    | some u => s.inWindow u (addrOff e) n
    | none => none
  else none

/-- The place that an address of LDS, STS, ATOMS or CASS names: an offset, or an aperture address of the team itself (08 R172). -/
def State.ownPlace (s : State) (t : Nat) (e : W64) (n : Nat) : Option (Nat × Nat) :=
  if aperture e then
    if addrRank e = 15 ∨ addrRank e = (s.team t).crank then s.aperturePlace t e n else none
  else s.inWindow t e.toNat n

/-- The place that a cluster address names (13 R266). -/
def State.clusterPlace (s : State) (t : Nat) (e : W64) (n : Nat) : Option (Nat × Nat) :=
  if decide (fld e 40 24 = 0) && addrPlain e then
    match (s.team t).rankTeam t (addrRank e) with
    | some u => s.inWindow u (addrOff e) n
    | none => none
  else none

/-! Checks at issue (08 R172, 09 R186). -/

/-- The addresses of a word's active lanes; a scalar form has one, that stands for its strand (19 R352). -/
structure Addrs where
  es  : List (Nat × W64)
  one : Bool

/-- Scalars of a base pair (02 Table 2-3). -/
def baseOf (k : BitVec 4) : BitVec 6 := BitVec.ofNat 6 (2 * k.toNat)
def polOf (k : BitVec 4) : BitVec 6 := BitVec.ofNat 6 (2 * k.toNat + 1)
/-- The policy operand of a pair (09 R182). -/
def policyAt (s : State) (k : BitVec 4) : W32 := lo32 (s.sreg (polOf k))
def polOrd (p : W32) : Nat := (fld p 8 4).toNat
def polScope (p : W32) : Nat := (fld p 12 4).toNat
/-- The policy operand keeps R182 and R184 for the orderings that a word admits. -/
def policyOk (p : W32) (ords : List Nat) : Bool := decide (fld p 0 8 = 0) && decide (polScope p ≤ 5) && ords.contains (polOrd p)

/-- A check over every lane: the trap's mask holds the failing lanes, its address is e of the lowest. -/
def failAt (s : State) (q : Addrs) (cause code : Nat) (bad : Nat → W64 → Bool) : Except Stop Unit :=
  match q.es.filter (fun p => bad p.1 p.2) with
  | [] => .ok ()
  | p :: rest =>
    .error (.trap { cause := cause, detail := 0, code := code, mask := if q.one then s.me.mask else maskOf (p.1 :: rest.map Prod.fst), addr := p.2 })

/-- A check of a tag in every group; the lanes of the failing groups fail. -/
def failTag (s : State) (q : Addrs) (cause : Nat) (fs : List Nat) (ok : BitVec 4 → Bool) : Except Stop Unit :=
  let T := s.mine
  failAt s q cause 0 (fun l _ => fs.any (fun f => !ok (T.fieldTag s.me.mask f (l / T.gw))))

/-- Checks 4 to 7 of R186. -/
def checkGlobal (s : State) (q : Addrs) (size : Nat) (p : W32) (ords : List Nat) : Except Stop Unit := do
  failAt s q cPolicy 0 (fun _ _ => !policyOk p ords)
  failAt s q cPolicy 0 (fun _ e => decide (polOrd p ≠ 0) && aperture e)
  failAt s q cMisaligned 0 (fun _ e => decide (e.toNat % size ≠ 0))
  failAt s q cSpad 0 (fun _ e => aperture e && (s.aperturePlace s.cur.team e size).isNone)
  failAt s q cAccess 0 (fun _ e => !aperture e && !canonical e)

/-- Checks 3 to 5 of R172, for a form of address. -/
def checkSpad (s : State) (q : Addrs) (size : Nat) (p : W32) (place : W64 → Option (Nat × Nat)) : Except Stop Unit := do
  failAt s q cPolicy 0 (fun _ _ => decide (fld p 0 12 ≠ 0))
  failAt s q cMisaligned 0 (fun _ e => decide (e.toNat % size ≠ 0))
  failAt s q cSpad 0 (fun _ e => (place e).isNone)

/-- Data comparators look at a word that has passed its checks (11 R228, R229): whether the Shutter fires, or the stop. -/
def watchData (s : State) (q : Addrs) (isLoad isStore spad : Bool) (size : Nat) : Except Stop Bool :=
  let T := s.mine
  let es := if q.one then (T.lanesOf s.me.mask).map (fun l => (l, ((q.es.headD (0, 0)).2))) else q.es
  let supp := s.me.suppressed s.me.pc
  let hit := s.compare T.core supp (fun c => c.dataLanes T s.cur.strm isLoad isStore spad size es)
  match hit.halt with
  | some (i, ls) =>
    let e := match es.find? (fun p => p.1 == ls.headD 0) with | some p => p.2 | none => 0
    .error (.watch hit.fires (cmpTrap i true (maskOf ls) e))
  | none => .ok hit.fires

/-! Issuing. -/

/-- The lanes that a second execution takes (09 R210). -/
def AccessOp.unfinished (a : AccessOp) : Mask :=
  maskOf ((a.lanes.filter (fun l => match l.st with | .unfinished _ => true | _ => false)).map (fun l => l.lane))

/-- A lane that a second execution takes stands at the start again. -/
def LaneAcc.again (l : LaneAcc) : LaneAcc := match l.st with | .unfinished _ => { l with st := .toTranslate, pa := none } | _ => l

/-- The second execution of a parked access (09 R210): its unfinished lanes are to be translated again with the addresses and operands that
they read at first, which no word of the window may have changed (02 R41, 09 R211; log 15); they pop their queue entries again. -/
def State.issueAgain (s : State) (fires : Bool) (a : AccessOp) : State :=
  let part := if a.one then s.me.mask else a.unfinished
  let ports := nub ((a.lanes.flatMap (fun l => l.pops)).map Prod.fst)
  let s0 := if fires then s.shutter 1 else s
  let s1 := s0.onMine (fun T => { ports.foldl (fun T q => T.pop q part) T with
    accs := T.accs.map (fun o => if o.id = a.id then { o with parked := false, lanes := o.lanes.map LaneAcc.again } else o) })
  s1.advance.onStrand s.cur (fun x => { x with replay := none, windows := (a.id, a.la) :: x.windows.filter (fun w => w.1 ≠ a.id) })

/-- Runs an access word: as it stands, or again for the lanes that its parked access left unfinished (09 R210). -/
def access (s : State) (f : State → Except Stop State) : Out :=
  match s.me.replay with
  | none => finish s (f s)
  | some id =>
    match s.mine.accs.find? (fun a => a.id == id) with
    | none => finish s (f (s.onStrand s.cur (fun x => { x with replay := none })))
    | some a => finish s do
      let q : Addrs := { es := (a.lanes.filter (fun l => match l.st with | .unfinished _ => true | _ => false)).map (fun l => (l.lane, l.e)), one := a.one }
      let fires ← watchData s q (match a.kind with | .store => false | .storeRef => false | _ => true)
        (match a.kind with | .load => false | .loadRef => false | _ => true) a.spad a.size
      .ok (s.issueAgain fires a)

/-- A lane as it issues. -/
def laneAt (s : State) (srcs : List Nat) (place : W64 → Option (Nat × Nat)) (l : Nat) (e data cmp : W64) : LaneAcc :=
  { lane := l, e := e, data := data, cmp := cmp, res := 0, tag := false
    at_ := match place e with | some (u, off) => .window u off | none => .global
    st := match place e with | some (_, off) => .ready off | none => .toTranslate
    pops := (portsOf srcs).map (fun q => (q, (s.mine.queue q l).headD { val := none, tag := tRaw, op := 0, drop := false })) }

/-- Issues an access: pops, reservations, the operation at the young end, the strand's advance, the window. -/
def State.issue (s : State) (la : BitVec 4) (srcs : List Nat) (fires : Bool) (a : AccessOp) : State :=
  let m := s.me.mask
  let x := s.me
  let id := s.lastOp + 1
  let s0 := if fires then s.shutter 1 else s
  let s1 := s0.onMine (fun T => T.popAll srcs m)
  let s' := s1.onMine (fun T =>
    let T1 := match a.dest with | .queue q => T.reserve q m id | _ => T
    { T1 with accs := T1.accs ++ [{ a with id := id, strm := s.cur.strm, sid := s.cur.sid, pc := x.pc, mask := m, la := la.toNat }] })
  let s2 := { s' with lastOp := id }
  s2.advance.onStrand s.cur (fun x => { x with windows := (id, la.toNat) :: x.windows.filter (fun w => w.1 ≠ id) })

/-- The access of a word, but for what `issue` fills in. -/
def accessOf (kind : AccKind) (size : Nat) (p : W32) (dest : Dest) (lanes : List LaneAcc) : AccessOp :=
  { id := 0, strm := .c, sid := none, pc := 0, mask := 0, kind := kind, size := size, ord := polOrd p, scope := polScope p, policy := p,
    dest := dest, coal := false, once := false, one := false, parked := false, lanes := lanes }

/-! Ordering (09 R184, R192; 18 R316, R317, R324). -/

/-- Loads of LDREF and plain loads: what reads and writes nothing. -/
def AccKind.reads (k : AccKind) : Bool := match k with | .load => true | .loadRef => true | _ => false
def AccKind.writes (k : AccKind) : Bool := match k with | .store => true | .storeRef => true | _ => false
/-- The kinds of word that read each distinct address once (R188); stores have no read, and each lane of an atomic reads for itself. -/
def AccKind.oneRead (k : AccKind) : Bool := match k with | .atomic _ => false | _ => true

def AccessOp.acquires (a : AccessOp) : Bool := a.ord == 1 || a.ord == 3 || (a.ord == 4 && !a.kind.writes)
def AccessOp.releases (a : AccessOp) : Bool := a.ord == 2 || a.ord == 3 || (a.ord == 4 && !a.kind.reads)

def LaneAcc.settled (l : LaneAcc) : Bool := match l.st with | .performed => true | .done => true | .failed _ _ => true | _ => false
def LaneAcc.faulted (l : LaneAcc) : Bool := match l.st with | .unfinished _ => true | _ => false

/-- Whether two lanes touch a common byte: of one window, or of memory by their virtual or their physical addresses. -/
def LaneAcc.meets (a b : LaneAcc) (sa sb : Nat) : Bool :=
  let near (x y : Nat) : Bool := decide (x < y + sb) && decide (y < x + sa)
  match a.at_, b.at_ with
  | .global, .global => near a.e.toNat b.e.toNat || (match a.pa, b.pa with | some x, some y => near x y | _, _ => false)
  | .window t x, .window u y => t == u && near x y
  | _, _ => false

/-- The lanes that are performed together with a lane, as one event: a coalesced line, whatever its ORD, or the equal addresses that one
read serves (R188, R323). The other lanes of an SC word go one by one (R184). -/
def AccessOp.together (a : AccessOp) (T : Team) (l : LaneAcc) : List LaneAcc :=
  let g := l.lane / T.gw
  if a.coal && decide (a.mask &&& T.groupMask g = T.groupMask g) then
    a.lanes.filter (fun k => k.lane / T.gw == g && k.e.toNat / 128 == l.e.toNat / 128)
  else if a.once && !a.kind.writes then a.lanes.filter (fun k => k.e == l.e && !k.settled)
  else [l]

/-- A ring word of a stream still waits that acquires as it ends, RCLAIM or RAWAIT, and that an operation follows (17 R302). -/
def State.ringHolds (s : State) (t : Nat) (x : StreamId) (id : Nat) : Bool :=
  s.rings.any (fun w => w.r.team == t && decide (w.r.strm = x) && (w.fn == 5 || w.fn == 7) && decide (w.before ≤ id))

/-- What every access of a stream waits for before it is performed: fences it follows, older acquires, those of waiting ring words among
them, and its own release. -/
def State.ordered (s : State) (t : Nat) (a : AccessOp) : Bool :=
  let T := s.team t
  !s.ringHolds t a.strm a.id
  && (s.strandsOf t a.strm).all (fun r => match (s.strand r).wait with | .fence n => decide (a.id < n) | _ => true)
  && T.accs.all (fun b => decide (a.id ≤ b.id) || decide (b.strm ≠ a.strm) || !b.acquires || b.performed)
  && (!a.releases || T.allPerformed a.strm a.id)

/-- Older accesses to a lane's bytes: of its stream in memory, of its whole team in a window (08 R176). -/
def Team.clear (T : Team) (a : AccessOp) (l : LaneAcc) : Bool :=
  T.accs.all (fun b => decide (a.id ≤ b.id) || b.lanes.all (fun k =>
    k.settled || !k.meets l b.size a.size || (decide (l.at_ = .global) && decide (b.strm ≠ a.strm))))

/-- The lanes of a word that go first: lower ones of an SC word, or of one address of an atomic (R184, R189); and a store's higher lane whose
page is not yet known waits to be, since it may name the same bytes under another address (R187). -/
def AccessOp.inTurn (a : AccessOp) (l : LaneAcc) : Bool :=
  (!a.kind.writes || a.lanes.all (fun k => decide (k.lane ≤ l.lane) || decide (k.st ≠ .toTranslate)
    || decide (a.size ≤ (k.e.toNat + 4096 - l.e.toNat % 4096) % 4096 ∧ a.size ≤ (l.e.toNat + 4096 - k.e.toNat % 4096) % 4096)))
  && a.lanes.all (fun k => decide (l.lane ≤ k.lane) || k.settled || k.faulted
    || !(a.ord == 4 || ((match a.kind with | .atomic _ => true | .cas => !(a.once && k.e == l.e) | _ => false) && k.meets l a.size a.size)))

/-- An SC operation is sent when the reply of the stream's previous one has arrived (18 R324). -/
def Team.scTurn (T : Team) (a : AccessOp) : Bool :=
  decide (a.ord ≠ 4) || T.accs.all (fun b => decide (a.id ≤ b.id) || decide (b.strm ≠ a.strm) || decide (b.ord ≠ 4)
    || b.lanes.all (fun k => k.settled || k.faulted))

/-! Values. -/

/-- The operations of atomics (08 R174, 09 R189): the new value and its flags. -/
def atomFn (fn : Nat) (old x : Nat) : Nat × Flags :=
  let i (v : Nat) : Int := (BitVec.ofNat 32 v).toInt
  match fn with
  | 0 => ((old + x) % 2 ^ 32, 0)
  | 1 => (if i old ≤ i x then old else x, 0)
  | 2 => (if i old ≤ i x then x else old, 0)
  | 3 => (min old x, 0)
  | 4 => (max old x, 0)
  | 5 => (Nat.land old x, 0)
  | 6 => (Nat.lor old x, 0)
  | 7 => (Nat.xor old x, 0)
  | 8 => (x, 0)
  | 9 =>
    let y := Val.add false (fp32.decode old) (fp32.decode x)
    let z := fp32.rnd 0 false 0 y.1
    (z.1, y.2 ||| z.2)
  | 10 => ((old + x) % 2 ^ 64, 0)
  | _ => (x, 0)

/-- The tags that an atomic accepts (08 R174, 09 R189). -/
def atomTagOk (fn : Nat) (t : BitVec 4) : Bool :=
  if fn ≤ 4 then decide (t = tI32)
  else if fn = 9 then decide (t = tF32)
  else if fn = 10 then decide (t = tI32) || decide (t = tRaw)
  else decide (t = tI32) || decide (t = tF32) || decide (t = tRaw)

/-- Whether an address lies in a private line of a team (19 R343). -/
def Team.privateLine (T : Team) (va : W64) : Bool :=
  T.spans.any (fun p => decide (p.base ≠ 0) && decide (p.base.toNat / 2 ^ 18 = va.toNat / 2 ^ 18)
    && p.priv.getLsbD (va.toNat % 2 ^ 18 / 128))

/-- The bytes that a lane reads where it lies. A plain load, or an acquire no wider than CLUSTER, may be served by the L1D, and is where
the line is held (18 R316, R317). -/
def State.readLane (s : State) (core : Nat) (a : AccessOp) (l : LaneAcc) (viaL1 : Bool) : Got :=
  match l.at_, l.st with
  | .window u off, _ => { val := natOfBytes ((s.team u).winBytes off a.size), tag := SMap.has (s.team u).winTags (off / 8), st := s }
  | .global, .ready pa =>
    let cls := evictionClass a.policy l.e
    let mayL1 := a.kind.reads && decide (a.ord ≠ 4) && (decide (a.ord = 0) || decide (a.scope ≤ 2))
    if mayL1 && (viaL1 || ((s.core core).l1 (pa / 128)).isSome) then s.readL1 core pa a.size cls else s.readFor core pa a.size cls
  | .global, _ => { val := 0, tag := false, st := s }

/-- Writes a lane's bytes where it lies; their tags are cleared, or set for a reference (19 R347). -/
def State.writeLane (s : State) (core : Nat) (a : AccessOp) (l : LaneAcc) (v : Nat) (ref : Bool) : State :=
  let bs := bytesOfNat a.size v
  match l.at_, l.st with
  | .window u off, _ =>
    s.onTeam u (fun U => let U1 := U.winStore off bs
                         if ref then { U1 with winTags := SMap.flag U1.winTags (off / 8) true } else U1)
  | .global, .ready pa =>
    let s1 := s.store pa bs
    let s2 := if ref then { s1 with memTags := SMap.flag s1.memTags (pa / 8) true } else s1
    ((s2.fillLinear pa (evictionClass a.policy l.e)).refreshL1 core pa a.size).hitL1 core pa (evictionClass a.policy l.e)
  | .global, _ => s

/-- A higher lane of a word stores to the same bytes: only its store is performed (08 R173, 09 R187). -/
def AccessOp.superseded (a : AccessOp) (l : LaneAcc) : Bool :=
  a.kind.writes && a.lanes.any (fun k => decide (l.lane < k.lane) && k.meets l a.size a.size && !k.faulted)

/-- A lane reads a byte that an error has poisoned (17 R311). -/
def State.readsPoison (s : State) (a : AccessOp) (l : LaneAcc) : Bool :=
  !a.kind.writes && (match l.at_, l.st with | .global, .ready pa => s.poisoned pa a.size | _, _ => false)

/-- One lane's effect: its result and the state. `first` is what the one read of its address gave before. -/
def State.perform1 (s : State) (t : Nat) (a : AccessOp) (l : LaneAcc) (first : Option (Nat × Bool)) (viaL1 : Bool) : LaneAcc × State :=
  let core := (s.team t).core
  let done (v : Nat) (tag : Bool) : LaneAcc := { l with st := .performed, res := BitVec.ofNat 64 v, tag := tag }
  let got : Got := match first with
    | some p => { val := p.1, tag := p.2, st := s }
    | none => s.readLane core a l viaL1
  if s.readsPoison a l then
    ({ l with st := .failed cMachine (match l.st with | .ready pa => BitVec.ofNat 64 pa | _ => 0) }, s)
  else match a.kind with
  | .load => (done got.val false, got.st)
  | .store => ({ l with st := .done }, if a.superseded l then s else s.writeLane core a l l.data.toNat false)
  | .atomic fn =>
    let g := s.readLane core a l false
    let y := atomFn fn g.val (l.data.toNat % 2 ^ (8 * a.size))
    (done g.val false, (g.st.writeLane core a l y.1 false).orFlagsOf t a.strm y.2)
  | .cas =>
    (done got.val false, if got.val = l.cmp.toNat % 2 ^ (8 * a.size) then got.st.writeLane core a l l.data.toNat false else got.st)
  | .loadRef =>
    let v : W64 := BitVec.ofNat 64 got.val
    -- another team's window never yields a reference to its private objects (19 R354)
    let bad := match l.at_ with | .window u _ => decide (u ≠ t) && got.tag && (s.team u).privateLine v | .global => false
    (if bad then { l with st := .failed cEscape l.e, res := v, tag := got.tag } else done got.val got.tag, got.st)
  | .storeRef => ({ l with st := .done }, if a.superseded l then s else s.writeLane core a l l.data.toNat true)

/-- Lanes performed together, in ascending order; equal addresses are read once (R188). -/
def State.performAll (s : State) (t : Nat) (a : AccessOp) (viaL1 : Bool) (prev : Option LaneAcc) : List LaneAcc → List LaneAcc × State
  | [] => ([], s)
  | l :: rest =>
    let first := match prev with
      | some k => if a.once && k.e == l.e && decide (k.st = .performed) then some (k.res.toNat, k.tag) else none
      | none => none
    let p := s.perform1 t a l first viaL1
    let q := State.performAll p.2 t a viaL1 (some p.1) rest
    (p.1 :: q.1, q.2)

/-- Replaces lanes of an access, and takes a complete access away. -/
def Team.putAcc (T : Team) (id : Nat) (ls : List LaneAcc) : Team :=
  let put (o : AccessOp) : AccessOp :=
    if o.id = id then { o with lanes := o.lanes.map (fun l => (ls.find? (fun k => k.lane == l.lane)).getD l) } else o
  { T with accs := (T.accs.map put).filter (fun o => decide (o.id ≠ id) || !o.complete) }

/-- The issuing strand waits in a word that is tried again. -/
def State.waitIn (s : State) (w : Wait) : State := s.onStrand s.cur (fun x => { x with st := .blocked, wait := w })

/-- After an access has moved on: barriers are looked at again, and a retiring team may be gone. -/
def State.accMoved (s : State) (t : Nat) : State := (s.reeval t).finishTeam t

def Team.acc? (T : Team) (id : Nat) : Option AccessOp := T.accs.find? (fun a => a.id == id)
def AccessOp.lane? (a : AccessOp) (l : Nat) : Option LaneAcc := a.lanes.find? (fun k => k.lane == l)

/-- The larger of two unsigned values. -/
def umax (a b : W64) : W64 := if a.ult b then b else a

/-- The clock that a stream sends an SC operation with (18 R324). -/
def State.scClock (s : State) (t : Nat) (a : AccessOp) : W64 := umax (s.core (s.team t).core).lclock ((s.team t).stream a.strm).last

/-- The stamp of an SC operation that is performed at a place, sent with a clock (18 R324; log 14). -/
def State.stampSc (s : State) (t : Nat) (a : AccessOp) (pa : Nat) (c : W64) : State :=
  let T := s.team t
  let slice := homeLinear pa
  let stamp := umax (SMap.get 0 s.sliceClk slice) c + 1
  let s1 := { s with sliceClk := SMap.set 0 s.sliceClk slice stamp }
  let s2 := s1.onCore T.core (fun k => { k with lclock := umax k.lclock stamp })
  s2.onTeam t (fun T => T.setStream a.strm { T.stream a.strm with last := stamp })

end Sys2Proof.Machine
end

