-- ==== Sys2Proof/Machine/Engines.lean ====
section
/-! DEFINITION. What the words of the X pipe share: runs of bytes and their checks (09 R429), release and acquire (17 R302), engine
operations and their counters (09 R193 to R196), and how a faulting operation retires (11 R216). -/

namespace Sys2Proof.Machine

/-! Traps of a whole strand. -/

/-- A precise trap with the strand's mask. -/
def strandTrap (s : State) (cause : Nat) (addr : W64) : Stop :=
  .trap { cause := cause, detail := 0, code := 0, mask := s.me.mask, addr := addr }
/-- The same with DETAIL and CODE. -/
def strandTrapOf (s : State) (cause detail code : Nat) (addr : W64) : Stop :=
  .trap { cause := cause, detail := detail, code := code, mask := s.me.mask, addr := addr }

/-! Runs of bytes (09 R429). -/

/-- Checks 5 to 7 of R186 over every byte of a run; the address is that of the lowest byte that fails. -/
def checkRun (s : State) (e : W64) (n align : Nat) : Except Stop Unit := do
  require (decide (e.toNat % align = 0)) (strandTrap s cMisaligned e)
  if n = 0 then .ok ()
  else if aperture e then
    match s.aperturePlace s.cur.team e 1 with
    | none => .error (strandTrap s cSpad e)
    | some (u, off) =>
      require (decide (off + n ≤ (s.team u).w)) (strandTrap s cSpad (e + BitVec.ofNat 64 ((s.team u).w - off)))
  else do
    require (canonical e) (strandTrap s cAccess e)
    require (decide (2 ^ 47 ≤ e.toNat) || decide (e.toNat + n ≤ 2 ^ 47)) (strandTrap s cAccess (BitVec.ofNat 64 (2 ^ 47)))

/-- Where a run lies: in a window, or in memory page by page. -/
inductive Spot where
  | window (team off : Nat)
  | mem (parts : List (Nat × Nat))
deriving DecidableEq, Repr

/-- What translating a run answers. -/
inductive SpotRes where
  | ok (p : Spot) (s : State)
  | fail (addr : W64) (detail : Nat)

/-- A run cut at the pages' ends; `fuel` bounds its pages. -/
def pageParts : Nat → W64 → Nat → List (W64 × Nat)
  | 0, _, _ => []
  | fuel + 1, e, n =>
    let k := min n (4096 - e.toNat % 4096)
    if n = 0 then [] else (e, k) :: pageParts fuel (e + BitVec.ofNat 64 k) (n - k)

/-- Translates the parts of a run in memory. -/
def State.spotParts (s : State) (t : Nat) (need : Need) (acc : List (Nat × Nat)) : List (W64 × Nat) → SpotRes
  | [] => .ok (.mem acc) s
  | (e, n) :: rest =>
    match s.resolve t e need with
    | .fail d => .fail e d
    | .ok pa s1 => State.spotParts s1 t need (acc ++ [(pa, n)]) rest

/-- Translates a run for a team (09 R180). -/
def State.spot (s : State) (t : Nat) (e : W64) (n : Nat) (need : Need) : SpotRes :=
  match s.aperturePlace t e 0 with
  | some (u, off) => .ok (.window u off) s
  | none => s.spotParts t need [] (pageParts (n / 4096 + 2) e n)

/-- The bytes of a run. -/
def State.getSpot (s : State) (p : Spot) (n : Nat) : List Byte :=
  match p with
  | .window u off => (s.team u).winBytes off n
  | .mem parts => parts.flatMap (fun q => Memory.readN s.mem q.1 q.2)

/-- Writes bytes over the parts of a run in memory. -/
def State.putParts (s : State) : List (Nat × Nat) → List Byte → State
  | [], _ => s
  | (pa, n) :: rest, bs => State.putParts (s.store pa (bs.take n)) rest (bs.drop n)

/-- Writes the bytes of a run at its banks, or at its home slices and through no L1D (18 R317). -/
def State.putSpot (s : State) (p : Spot) (bs : List Byte) : State :=
  match p with
  | .window u off => if (s.team u).live then s.onTeam u (fun U => U.winStore off bs) else s
  | .mem parts => s.putParts parts bs

/-- The lowest poisoned physical address of a run (17 R311). -/
def State.spotPoison (s : State) (p : Spot) : Option Nat :=
  match p with
  | .window _ _ => none
  | .mem parts =>
    match parts.filter (fun q => s.poisoned q.1 q.2) with
    | [] => none
    | q :: _ => some (if s.poisoned q.1 1 then q.1 else (q.1 / 128 + ((List.range (q.2 / 128 + 2)).find?
        (fun i => SMap.has s.poison (q.1 / 128 + i))).getD 0) * 128)

/-- Whether no access that the issuing stream has issued, or in a window its team, still has to be performed on a byte of a run (08 R176;
17 R296: the words read as loads of the stream). -/
def State.runClear (s : State) (e : W64) (n : Nat) : Bool :=
  let place := s.aperturePlace s.cur.team e 0
  let run : LaneAcc :=
    { lane := 0, e := e, at_ := match place with | some (u, off) => .window u off | none => .global, st := .toTranslate, data := 0, cmp := 0,
      res := 0, tag := false, pops := [] }
  s.mine.accs.all (fun a => (place.isNone && decide (a.strm ≠ s.cur.strm)) || a.lanes.all (fun l => l.settled || !l.meets run a.size n))
  -- and nothing that its stream's accesses must follow is outstanding: an acquire, a FENCE, a ring word that acquires (09 R184, R192; R302)
  && s.mine.accs.all (fun a => decide (a.strm ≠ s.cur.strm) || !a.acquires || a.performed)
  && (s.strandsOf s.cur.team s.cur.strm).all (fun r => r == s.cur || (match (s.strand r).wait with | .fence _ => false | _ => true))
  && !s.ringHolds s.cur.team s.cur.strm (s.lastOp + 1)

/-- Whether a window has been restored as a whole (11 R235), and its stripes are awake (08 R178). -/
def State.spotReady (s : State) (p : Spot) : Bool :=
  match p with
  | .window u _ => (s.team u).unrestored.isEmpty
    && (stripesOf (s.team u).spBase (s.team u).w).all (fun i => SMap.get 0 (s.core (s.team u).core).stripes i == 1)
  | .mem _ => true

/-- A word that translates and reads a run before it has any effect (R212, 17 R311). -/
def spotHere (s : State) (e : W64) (n : Nat) (need : Need) : Except Stop (Spot × State) := do
  require (s.runClear e n) .stall
  match s.spot s.cur.team e n need with
  | .fail a d => .error (strandTrapOf s cPage d 0 a)
  | .ok p s1 =>
    match (if need.r then s1.spotPoison p else none) with
    | some pa => .error (strandTrap s cMachine (BitVec.ofNat 64 pa))
    | none => if s.spotReady p then .ok (p, s1) else .error .stall

/-- Field of n bits of a little-endian record. -/
def recField (bs : List Byte) (lo n : Nat) : Nat := natOfBytes bs / 2 ^ lo % 2 ^ n

/-! Release and acquire of a stream (17 R302). -/

/-- Every access that a stream issued before an operation has been performed, and its scratchpad accesses have completed. -/
def Team.releasedBefore (T : Team) (x : StreamId) (n : Nat) : Bool :=
  T.accs.all (fun a => decide (n ≤ a.id) || decide (a.strm ≠ x) || (if a.atBanks then a.complete else a.performed))

/-- A word that first releases: it waits until the stream's earlier accesses are performed. -/
def afterRelease (s : State) (f : State → Except Stop State) : Except Stop State :=
  let n := match s.me.wait with | .drain n => n | _ => s.lastOp + 1
  if s.mine.releasedBefore s.cur.strm n then f s else .ok (s.waitIn (.drain n))

/-! Engine operations (09 R193). -/

def Stream.counter (m : Stream) (cls : Nat) : Nat := SMap.get 0 m.counters cls
def Stream.count (m : Stream) (cls : Nat) (n : Nat) : Stream := { m with counters := SMap.set 0 m.counters cls n }

/-- Issues an engine word: the operation waits for its unit (R193). -/
def State.post (s : State) (la : BitVec 4) (cls : Nat) (k : EngKind) : State :=
  let id := s.lastOp + 1
  let x := s.me
  let e : EngOp := { id := id, strm := s.cur.strm, sid := s.cur.sid, pc := x.pc, mask := x.mask, cls := cls, kind := k, stage := .issued,
                     since := 0, cats := [], fault := none, buffer := none }
  let s1 := { s.onMine (fun T => { T with engs := T.engs ++ [e] }) with lastOp := id }
  s1.advance.onStrand s.cur (fun x => { x with windows := (id, la.toNat) :: x.windows })

def Team.eng? (T : Team) (id : Nat) : Option EngOp := T.engs.find? (fun e => e.id == id)
def Team.putEng (T : Team) (e : EngOp) : Team := { T with engs := T.engs.map (fun o => if o.id = e.id then e else o) }
def Team.dropEng (T : Team) (id : Nat) : Team := { T with engs := T.engs.filter (fun o => o.id ≠ id) }

/-- The operation is complete; its flags are ORed into its stream's (03 R65). -/
def State.engDone (s : State) (t : Nat) (e : EngOp) (fl : Flags) : State :=
  (s.onTeam t (fun T => T.putEng { e with stage := .done })).orFlagsOf t e.strm fl
/-- The operation is complete with a deferred fault (11 R216). -/
def State.engFault (s : State) (t : Nat) (e : EngOp) (f : UnitFault) : State :=
  s.onTeam t (fun T => T.putEng { e with stage := .done, fault := some f })

/-- A fault of a unit. -/
def faultOf (cause detail : Nat) (addr : W64) : UnitFault := { cause := cause, detail := detail, code := 0, addr := addr }

/-- WAITC (R195): an operation of the class that has issued and is not yet accepted is waited for. Engine effects are not in the L1D
(18 R317). -/
def execWaitc (k : BitVec 3) (n : BitVec 6) (s : State) : Out :=
  let T := s.mine
  let pending := T.engs.any (fun e => decide (e.strm = s.cur.strm) && e.cls == k.toNat && decide (e.stage = .issued))
  if !pending && decide (s.myStream.counter k.toNat ≤ n.toNat) then .next ((s.dropL1 T.core).advance)
  else .next (s.onStrand s.cur (fun x => { x with st := .blocked, wait := .again }))

/-- ENGINE_OPERATION_RETIRE (R193, R194; 11 R216): the oldest operation of its class of a stream retires once it is complete; its counter
falls, and its fault, if any, is to stop a strand. -/
def execEngineOperationRetire (team : Nat) (strm : StreamId) (cls : Nat) (s : State) : Out :=
  match (s.team team).engs.find? (fun e => decide (e.strm = strm) && e.cls == cls) with
  | none => .next s
  | some e =>
    if e.stage ≠ .done then .next s
    else
      let s1 := s.onTeam team (fun T =>
        let m := T.stream strm
        let T1 := (T.dropEng e.id).setStream strm (if cls ≤ 4 then m.count cls (m.counter cls - 1) else m)
        match e.fault with
        | some f => { T1 with deferred := T1.deferred ++ [{ strm := strm, mask := e.mask, pc := e.pc, fault := f }] }
        | none => T1)
      .next ((s1.freeReleased team).finishTeam team)

/-- The strand of an issued word, where it can still be stopped precisely at that word: no older word of it may yet stop it. -/
def State.stoppable (s : State) (r : StrandRef) (id : Nat) : Bool :=
  let x := s.strand r
  let mineAcc (a : AccessOp) : Bool := decide (a.id < id) && decide (a.strm = r.strm) && a.sid == r.sid
    && a.lanes.any (fun l => !l.settled && (match l.st with | .ready _ => false | _ => true))
  (decide (x.st = .running) || (decide (x.st = .blocked) && x.wait.retries)) && x.replay.isNone && !(s.team r.team).accs.any mineAcc

/-- A trap that acceptance finds, precise at the word (R202; 11 R215): the operation is gone, and its strand stands at the word. -/
def State.refuseEng (s : State) (t : Nat) (e : EngOp) (f : UnitFault) : State :=
  let r : StrandRef := { team := t, strm := e.strm, sid := e.sid }
  let ti : TrapInfo := { cause := f.cause, detail := f.detail, code := f.code, mask := e.mask, addr := f.addr }
  let s1 := (s.onTeam t (fun T => T.dropEng e.id)).onStrand r (fun x =>
    { x with st := .parked, pc := e.pc, after := if x.pc = e.pc + 4 then none else some x.pc, checked := 0, stepDue := false,
             wait := .nothing, windows := x.windows.filter (fun w => w.1 ≠ e.id) })
  s1.postRec { s1.recOf r ti e.pc e.pc with op := some e.id }

end Sys2Proof.Machine
end

