-- ==== Sys2Proof/Machine/Patterns.lean ====
section
/-! DEFINITION. Pattern programs: their words, their members, their enumerations (14 R271 to R277, R284). -/

namespace Sys2Proof.Machine

/-- A pattern as the operations of a program build it (R273). -/
inductive Pattern where
  | band  (lo hi : Int)
  | dil   (s : Nat) (o : Int)
  | bdiag (b : Nat)
  | hash  (k : Nat) (seed : W32)
  | kron  (x y : Pattern)
  | union (x y : Pattern)
  | isect (x y : Pattern)
  | shift (dr dc : Int) (x : Pattern)
  | clip  (r c : Nat) (x : Pattern)
  | tile  (x : Pattern)
  | perm  (a b : Nat) (x : Pattern)
deriving DecidableEq, Repr

/-- The shape that bounds a pattern, if it is bounded (Table 14-4). -/
def Pattern.bound (p : Pattern) : Option (Nat × Nat) :=
  match p with
  | .band _ _ | .dil _ _ | .bdiag _ | .hash _ _ | .tile _ => none
  | .kron x y =>
    match x.bound, y.bound with
    | some a, some b => some (a.1 * b.1, a.2 * b.2)
    | _, _ => none
  | .union x y =>
    match x.bound, y.bound with
    | some a, some b => some (max a.1 b.1, max a.2 b.2)
    | _, _ => none
  | .isect x y =>
    match x.bound, y.bound with
    | some a, some b => some (min a.1 b.1, min a.2 b.2)
    | some a, none => some a
    | none, b => b
  | .shift _ _ x => x.bound
  | .clip r c _ => some (r, c)
  | .perm _ _ x => x.bound

/-- HASH (R274). -/
def patternHash (i j : Nat) (seed : W32) : W32 :=
  let h := (BitVec.ofNat 32 i * 0x9E3779B1#32) ^^^ (BitVec.ofNat 32 j * 0x85EBCA77#32) ^^^ seed
  let h1 := h ^^^ (h >>> 15)
  let h2 := h1 * 0x2C1B3C6D#32
  h2 ^^^ (h2 >>> 12)

/-- Membership (Table 14-4). -/
def Pattern.member (p : Pattern) (i j : Nat) : Bool :=
  match p with
  | .band lo hi => decide (lo ≤ (j : Int) - i) && decide ((j : Int) - i ≤ hi)
  | .dil s o => decide (((j : Int) - i - o) % (s : Int) = 0)
  | .bdiag b => decide (i / b = j / b)
  | .hash k seed => decide ((patternHash i j seed).toNat % 256 < k)
  | .kron x y =>
    match y.bound with
    | some d => x.member (i / d.1) (j / d.2) && y.member (i % d.1) (j % d.2)
    | none => false
  | .union x y => x.member i j || y.member i j
  | .isect x y => x.member i j && y.member i j
  | .shift dr dc x =>
    let inside : Bool := match x.bound with | some d => decide (i < d.1) && decide (j < d.2) | none => true
    inside && decide (0 ≤ (i : Int) - dr) && decide (0 ≤ (j : Int) - dc) && x.member ((i : Int) - dr).toNat ((j : Int) - dc).toNat
  | .clip r c x => x.member i j && decide (i < r) && decide (j < c)
  | .tile x =>
    match x.bound with
    | some d => x.member (i % d.1) (j % d.2)
    | none => false
  | .perm a b x =>
    match x.bound with
    | some d => (List.range d.2).any (fun k => x.member i k && decide ((a * k + b) % d.2 = j))
    | none => false

/-- Whether every operation is invertible (R277). -/
def Pattern.invertible (p : Pattern) : Bool :=
  match p with
  | .band _ _ | .dil _ _ | .bdiag _ => true
  | .hash _ _ => false
  | .kron x y | .union x y | .isect x y => x.invertible && y.invertible
  | .shift _ _ x | .clip _ _ x | .tile x => x.invertible
  | .perm a _ x =>
    x.invertible && (match x.bound with | some d => decide (d.2 = 1) || decide (Nat.gcd (a % d.2) d.2 = 1) | none => false)

/-! Loading (R271, R276). -/

/-- What the words read so far make of a load: more are wanted, an error of Table 14-5, or a program. -/
inductive Load where
  | more
  | error (code word : Nat)
  | ready (p : Pattern)
deriving DecidableEq, Repr

def hdrRows (h : W64) : Nat := (fld h 0 25).toNat
def hdrCols (h : W64) : Nat := (fld h 32 25).toNat
/-- The header keeps Table 14-2. -/
def hdrOk (h : W64) : Bool :=
  decide (fld h 25 7 = 0) && decide (fld h 57 7 = 0) && decide (1 ≤ hdrRows h) && decide (hdrRows h ≤ 16777216)
  && decide (1 ≤ hdrCols h) && decide (hdrCols h ≤ 16777216)

/-- A 14-bit signed field. -/
def sfield (w : W32) (lo : Nat) : Int := (fld w lo 14).toInt
/-- A 14-bit unsigned field. -/
def ufield (w : W32) (lo : Nat) : Nat := (fld w lo 14).toNat

/-- Whether the bits that Table 14-3 shows as zero are zero, and the operation is not reserved. -/
def patternBits (w : W32) : Bool :=
  match (fld w 28 4).toNat with
  | 0 | 4 | 6 | 7 | 10 => decide (fld w 0 28 = 0)
  | 3 => decide (fld w 24 4 = 0)
  | 5 => decide (fld w 9 19 = 0)
  | 1 | 2 | 8 | 9 | 11 => true
  | _ => false
/-- Whether a word keeps its limits. -/
def patternLimits (w : W32) : Bool :=
  match (fld w 28 4).toNat with
  | 1 => decide (sfield w 14 ≤ sfield w 0)
  | 2 => decide (1 ≤ ufield w 14)
  | 3 => decide (fld w 0 24 ≠ 0)
  | 5 => decide ((fld w 0 9).toNat ≤ 256)
  | _ => true

/-- What one word does to the stack: the new stack, or an error code. -/
def patternStep (w : W32) (seed : Option W32) (st : List Pattern) : Except Nat (List Pattern) :=
  match (fld w 28 4).toNat, st with
  | 1, st => .ok (.band (sfield w 14) (sfield w 0) :: st)
  | 2, st => .ok (.dil (ufield w 14) (sfield w 0) :: st)
  | 3, st => .ok (.bdiag (fld w 0 24).toNat :: st)
  | 5, st => .ok (.hash (fld w 0 9).toNat (seed.getD 0) :: st)
  | 4, y :: x :: st =>
    match y.bound with
    | none => .error 5
    | some _ =>
      match (Pattern.kron x y).bound with
      | some d => if 16777216 < d.1 ∨ 16777216 < d.2 then .error 6 else .ok (.kron x y :: st)
      | none => .ok (.kron x y :: st)
  | 6, y :: x :: st => .ok (.union x y :: st)
  | 7, y :: x :: st => .ok (.isect x y :: st)
  | 8, x :: st => .ok (.shift (sfield w 14) (sfield w 0) x :: st)
  | 9, x :: st => .ok (.clip (ufield w 14 + 1) (ufield w 0 + 1) x :: st)
  | 10, x :: st => if x.bound.isNone then .error 5 else .ok (.tile x :: st)
  | 11, x :: st => if x.bound.isNone then .error 5 else .ok (.perm (ufield w 14) (ufield w 0) x :: st)
  | _, _ => .error 3

/-- Goes through the words read so far from word i, with the stack. -/
def loadWords : List W32 → Nat → List Pattern → Load
  | [], i, _ => if i = 32 then .error 7 32 else .more
  | w :: rest, i, st =>
    if !patternBits w then .error 1 i
    else if !patternLimits w then .error 2 i
    else if fld w 28 4 = 0 then
      match st with
      | [p] => .ready p
      | _ => .error 8 i
    else if fld w 28 4 = 5 then
      if i = 31 then .error 7 32
      else match rest with
        | [] => .more
        | seed :: rest =>
          match patternStep w (some seed) st with
          | .error e => .error e i
          | .ok st1 => if 8 < st1.length then .error 4 i else loadWords rest (i + 2) st1
    else match patternStep w none st with
      | .error e => .error e i
      | .ok st1 => if 8 < st1.length then .error 4 i else loadWords rest (i + 1) st1

/-- What a header and the words read so far make. -/
def loadState (h : W64) (ws : List W32) : Load := if hdrOk h then loadWords ws 0 [] else .error 9 63

/-! Enumeration (R275) and positions (R284). -/

/-- The member columns of a row, ascending. -/
def Pattern.row (p : Pattern) (h : W64) (i : Nat) : List Nat :=
  if i < hdrRows h then (List.range (hdrCols h)).filter (fun j => p.member i j) else []
/-- The member rows of a column, ascending. -/
def Pattern.col (p : Pattern) (h : W64) (j : Nat) : List Nat :=
  if j < hdrCols h then (List.range (hdrRows h)).filter (fun i => p.member i j) else []
/-- The number of members that precede (r, c) in forward order. -/
def Pattern.position (p : Pattern) (h : W64) (r c : Nat) : Nat :=
  (List.range r).foldl (fun n i => n + (p.row h i).length) 0 + ((p.row h r).filter (fun j => j < c)).length

end Sys2Proof.Machine
end

