-- ==== Sys2Proof/Machine/Ephemeris.lean ====
section
/-! DEFINITION. The Ephemeris unit: generator contexts, loading, enumeration, status (14 R268 to R282). -/

namespace Sys2Proof.Machine

/-- The context that a team holds under a number. -/
def Team.gc? (T : Team) (c : Nat) : Option GenCtx := T.gcs.find? (fun g => !g.rel && g.no == c)
def Team.gcBy (T : Team) (uid : Nat) : Option GenCtx := T.gcs.find? (fun g => g.uid == uid)
def Team.putGc (T : Team) (g : GenCtx) : Team := { T with gcs := T.gcs.map (fun h => if h.uid = g.uid then g else h) }

/-- A team's place among the ACQs of one cycle: core number, then team slot (R269). -/
def Team.acqRank (T : Team) : Nat := 64 * T.core + T.slot

/-- Whether an ACQ that comes after this team's has been performed in this cycle: this one is then of a later cycle (R269). -/
def Quad.acqPassed (Q : Quad) (clock rank : Nat) : Bool := Q.acqAt.any (fun p => p.1 == clock && decide (rank < p.2))

/-- EPCTX.ACQ (R269): never waits for contexts. -/
def execEpctxAcq (_ : BitVec 4) (d a : BitVec 6) (s0 : State) : Out := finish s0 do
  needScalars s0 [d, a]
  let q := quadOf s0.mine.core
  let k := s0.mine.acqRank
  require (!(s0.quad q).acqPassed s0.clock k) .stall
  let s := s0.onQuad q (fun Q => { Q with acqAt := some (s0.clock, k) })
  let n := (s.sreg a).toNat
  if s.mine.gcs.any (fun g => !g.rel) ∨ n < 1 ∨ 4 < n ∨ (s.quad q).contexts < n then .ok ((s.putSreg d 0).advance)
  else
    let base := s.mine.gcs.foldl (fun m g => max m (g.uid + 1)) 0
    let s1 := s.onQuad q (fun Q => { Q with contexts := Q.contexts - n })
    let s2 := s1.onMine (fun T => { T with gcs := T.gcs ++ (List.range n).map (fun i => GenCtx.empty i (base + i)) })
    .ok ((s2.putSreg d (BitVec.ofNat 64 n)).advance)

/-- EPCTX.REL (R269). An MMAS that its unit has not yet accepted comes first: it names the context that it found at its issue. -/
def execEpctxRel (_ : BitVec 4) (s : State) : Out :=
  let pending (e : EngOp) : Bool := match e.kind with | .mma true _ _ _ _ _ _ _ _ _ _ => decide (e.stage = .issued) | _ => false
  if s.mine.engs.any pending then .next s
  else .next (((s.onMine (fun T => { T with gcs := T.gcs.map (fun (g : GenCtx) => { g with rel := true }) })).freeReleased s.cur.team).advance)

/-- Check 2 of R278. -/
def needCtx (s : State) (c : BitVec 2) : Except Stop GenCtx :=
  match s.mine.gc? c.toNat with
  | some g => .ok g
  | none => .error (strandTrapOf s cBound 0 (0xC0 + c.toNat) 0)

/-- Reads the words of a descriptor until the program ends or fails (R271, R279). -/
def readPattern (h : W64) (e : W64) : Nat → List W32 → State → Except Stop (List W32 × State)
  | 0, ws, s => .ok (ws, s)
  | fuel + 1, ws, s =>
    match loadState h ws with
    | .more => do
      let a := e + BitVec.ofNat 64 (8 + 4 * ws.length)
      checkRun s a 4 4
      let (p, s1) ← spotHere s a 4 { r := true, w := false }
      readPattern h e fuel (ws ++ [BitVec.ofNat 32 (natOfBytes (s1.getSpot p 4))]) s1
    | _ => .ok (ws, s)

/-- EPLD (R279): the descriptor is read as the word issues. -/
def execEpld (la : BitVec 4) (a : BitVec 6) (c : BitVec 2) (s : State) : Out := finish s do
  needScalars s [a]
  let g ← needCtx s c
  let e := s.sreg a
  checkRun s e 8 8
  let (p, s1) ← spotHere s e 8 { r := true, w := false }
  let h : W64 := BitVec.ofNat 64 (natOfBytes (s1.getSpot p 8))
  let (ws, s2) ← readPattern h e 33 [] s1
  .ok (s2.post la 2 (.epld g.uid h ws))

/-- The bytes that an enumeration of m lists may write (R280). -/
def listBytes (m : Nat) : Nat := 4 * (m + 1) + 1024 * m

/-- The checks of EPGEN and EPINV, and their posting (R280). -/
def listWord (inverse : Bool) (la : BitVec 4) (d a : BitVec 6) (c : BitVec 2) (s : State) : Out := finish s do
  needScalars s [d, a]
  let g ← needCtx s c
  let D := s.sreg d
  let m := (fld (s.sreg a) 32 8).toNat + 1
  require (decide (D.toNat % 4 = 0)) (strandTrap s cMisaligned D)
  match s.ownPlace s.cur.team D (listBytes m) with
  | some (_, off) => .ok (s.post la 2 (.epgen inverse g.uid off (s.sreg a)))
  | none => .error (strandTrap s cSpad D)

/-- EPGEN (R280). -/
def execEpgen (la : BitVec 4) (d a : BitVec 6) (c : BitVec 2) (s : State) : Out := listWord false la d a c s
/-- EPINV (R280). -/
def execEpinv (la : BitVec 4) (d a : BitVec 6) (c : BitVec 2) (s : State) : Out := listWord true la d a c s

/-- EPSTAT (R281): never traps on its context. -/
def execEpstat (la : BitVec 4) (d : BitVec 6) (v : BitVec 1) (c : BitVec 2) (s : State) : Out := finish s do
  needScalars s [d]
  .ok (s.post la 5 (.epstat ((s.mine.gc? c.toNat).map (fun g => g.uid)) (decide (v = 1)) d.toNat))

/-- What EPSTAT reports (Tables 14-8 and 14-9). -/
def statWord (g : Option GenCtx) (shape : Bool) : W64 :=
  match g with
  | none => if shape then 0 else 3
  | some g =>
    if shape then (if g.st = 1 then g.hdr else 0)
    else BitVec.ofNat 64 (g.st + bit1 g.inv * 2 ^ 3 + g.nw * 2 ^ 4 + g.errw * 2 ^ 10 + g.err * 2 ^ 16)

/-- A context as a load leaves it (R276, R277). -/
def GenCtx.load (g : GenCtx) (h : W64) (ws : List W32) : GenCtx :=
  let base := { g with hdr := h, words := ws, nw := ws.length }
  match loadState h ws with
  | .ready p => { base with st := 1, err := 0, errw := 0, inv := p.invertible }
  | .error c w => { base with st := 2, err := c, errw := w, inv := false }
  | .more => { base with st := 2, err := 7, errw := 32, inv := false }

/-- What an enumeration writes: 4-byte words at offsets, and the fault that ended it, if one did (R280). -/
structure Listing where
  writes : List (Nat × Nat)
  fault  : Option UnitFault

/-- The lists from number q on; `ptr` counts the entries written. -/
def listFrom (lists : Nat → List Nat) (no : Nat) (r0 dst m : Nat) : Nat → Nat → Nat → List (Nat × Nat) → Listing
  | 0, _, _, acc => { writes := acc, fault := none }
  | left + 1, q, ptr, acc =>
    let l := lists (r0 + q)
    if 256 < l.length then
      { writes := acc, fault := some { cause := cPattern, detail := 0, code := no, addr := BitVec.ofNat 64 (r0 + q) } }
    else
      let body := (l.zip (List.range l.length)).map (fun p => (dst + 4 * (m + 1) + 4 * (ptr + p.2), p.1))
      listFrom lists no r0 dst m left (q + 1) (ptr + l.length) (acc ++ body ++ [(dst + 4 * (q + 1), ptr + l.length)])

/-- What an EPGEN or EPINV writes, if its context is ready. -/
def State.listing (s : State) (t : Nat) (inverse : Bool) (uid dst : Nat) (spec : W64) : Option Listing :=
  let m := (fld spec 32 8).toNat + 1
  match (s.team t).gcBy uid with
  | none => none
  | some g =>
    match (if g.st = 1 ∧ (!inverse ∨ g.inv) then loadState g.hdr g.words else .more) with
    | .ready P => some (listFrom (fun i => if inverse then P.col g.hdr i else P.row g.hdr i) g.no (fld spec 0 24).toNat dst m m 0 0 [(dst, 0)])
    | _ => none

/-- The words of a listing with their numbers. -/
def Listing.numbered (r : Listing) : List ((Nat × Nat) × Nat) := r.writes.zip (List.range r.writes.length)

/-- EPGEN and EPINV at their unit: every word that was not written before (R280). -/
def State.runList (s : State) (t : Nat) (e : EngOp) (inverse : Bool) (uid dst : Nat) (spec : W64) : State :=
  match (s.team t).gcBy uid with
  | none => s.engDone t e 0
  | some g =>
    match s.listing t inverse uid dst spec with
    | some r =>
      let s1 := s.onTeam t (fun T => (r.numbered.filter (fun p => !e.parts.contains p.2)).foldl (fun T p => T.winStore p.1.1 (bytesOfNat 4 p.1.2)) T)
      match r.fault with
      | some f => s1.engFault t e f
      | none => s1.engDone t e 0
    | none => s.engFault t e { cause := cNonInv, detail := 0, code := g.no, addr := 0 }

/-- One word of a list written ahead of the rest: before WAITC any subset may stand (R280). -/
def State.listPart (s : State) (t : Nat) (e : EngOp) (inverse : Bool) (uid dst : Nat) (spec : W64) (part : Nat) : State :=
  match s.listing t inverse uid dst spec with
  | none => s
  | some r =>
    match r.numbered.find? (fun p => p.2 == part) with
    | none => s
    | some p =>
      if e.parts.contains part then s
      else s.onTeam t (fun T => (T.winStore p.1.1 (bytesOfNat 4 p.1.2)).putEng { e with parts := part :: e.parts })

/-- Whether an operation is an MMA or MMAS. -/
def EngOp.product (o : EngOp) : Bool := match o.kind with | .mma _ _ _ _ _ _ _ _ _ _ _ => true | _ => false

/-- Whether an operation comes next on its context (R282): an EPLD after every earlier word that names it has retired, another word after
every earlier one of the unit has taken effect. -/
def Team.ephReady (T : Team) (e : EngOp) : Bool :=
  let before (uid : Nat) : List EngOp := T.engs.filter (fun o => decide (o.id < e.id) && o.names uid)
  match e.kind with
  | .epld c _ _ => (before c).isEmpty
  | .epgen _ c _ _ => (before c).all (fun o => o.product || decide (o.stage = .done)) && T.unrestored.isEmpty
  | .epstat (some c) _ _ => (before c).all (fun o => o.product || decide (o.stage = .done))
  | _ => true

/-- EPHEMERIS_OPERATION_COMPLETE (R279 to R282). -/
def execEphemerisOperationComplete (team op : Nat) (s : State) : Out :=
  let T := s.team team
  match T.eng? op with
  | none => .next s
  | some e =>
    if e.stage ≠ .accepted ∨ !T.ephReady e then .next s
    else match e.kind with
      | .epld c h ws =>
        let s1 := s.onTeam team (fun T => match T.gcBy c with | some g => T.putGc (g.load h ws) | .none => T)
        .next (s1.engDone team e 0)
      | .epgen inv c dst spec => .next (s.runList team e inv c dst spec)
      | .epstat c shape d =>
        let v := statWord (match c with | some u => T.gcBy u | none => none) shape
        let s1 := s.onTeam team (fun T => T.setStream e.strm ((T.stream e.strm).setSreg (BitVec.ofNat 6 d) v false))
        .next (s1.engDone team e 0)
      | _ => .next s

end Sys2Proof.Machine
end

