-- ==== Sys2Proof/Machine/Catalogue.lean ====
section
/-! DEFINITION. The Catalogue and probing (09 R191, R197 to R202). -/

namespace Sys2Proof.Machine

/-! Entries (Table 9-6). -/

abbrev Entry := BitVec 512

def Entry.valid (e : Entry) : Bool := e.getLsbD 511
def Entry.ro (e : Entry) : Bool := e.getLsbD 468
def Entry.spad (e : Entry) : Bool := e.getLsbD 467
def Entry.pen (e : Entry) : Bool := e.getLsbD 466
def Entry.pctx (e : Entry) : Nat := (fld e 464 2).toNat
def Entry.skind (e : Entry) : Nat := (fld e 461 3).toNat
def Entry.tshape (e : Entry) : Nat := (fld e 459 2).toNat
def Entry.ndim (e : Entry) : Nat := (fld e 456 3).toNat
def Entry.fmt (e : Entry) : Nat := (fld e 448 8).toNat
def Entry.scale (e : Entry) : W64 := fld e 384 64
/-- Byte stride of dimension 1 to 3. -/
def Entry.stride (e : Entry) (d : Nat) : W64 := fld e (128 + 64 * d) 64
/-- Extent of dimension 0 to 3. -/
def Entry.dim (e : Entry) (d : Nat) : Nat := (fld e (64 + 32 * d) 32).toNat
def Entry.base (e : Entry) : W64 := fld e 0 64

/-- Bits that an element of a format occupies (Table 9-7, 03 R58). -/
def fmtBits (f : Nat) : Nat :=
  match f with
  | 0 => 64 | 1 => 32 | 2 => 16 | 3 => 16 | 8 => 4 | 9 => 4 | 12 => 4 | 13 => 4 | 14 => 2 | 15 => 1 | 16 => 32 | _ => 8
/-- The element's size in bytes, rounded up to 1. -/
def fmtBytes (f : Nat) : Nat := max 1 (fmtBits f / 8)

/-- Whether an image keeps R199. -/
def Entry.sound (e : Entry) : Bool :=
  let sz := fmtBytes e.fmt
  let dimOk (d : Nat) : Bool := if d < e.ndim then decide (1 ≤ e.dim d) else decide (e.dim d = 0) && (d == 0 || decide (e.stride d = 0))
  let strideOk (d : Nat) : Bool := decide (fld (e.stride d) 48 16 = 0) && decide ((e.stride d).toNat % sz = 0)
  let scaled := [4, 5, 6, 7, 8, 10]
  e.valid && decide (fld e 469 42 = 0) && decide (e.fmt ≤ 17) && decide (1 ≤ e.ndim) && decide (e.ndim ≤ 4)
  && dimOk 0 && dimOk 1 && dimOk 2 && dimOk 3 && strideOk 1 && strideOk 2 && strideOk 3 && decide (e.tshape ≠ 3)
  && (match e.skind with | 0 => decide (e.fmt ≠ 9) | 1 => scaled.contains e.fmt | 2 => decide (e.fmt = 9) | _ => false)
  && decide (e.scale.toNat % 128 = 0) && (decide (e.skind ≠ 0) || decide (e.scale = 0)) && decide (e.base.toNat % sz = 0)
  && (if e.spad then aperture e.base else canonical e.base)

/-- Number 0 is linear memory (R197). -/
def linearEntry : Entry := BitVec.ofNat 512 (0x8000000000000111 * 2 ^ 448)
/-- An entry of a context's table. -/
def State.entry (s : State) (ctx num : Nat) : Entry := if num = 0 then linearEntry else SMap.get 0 (s.ctx ctx).cat num

/-- The catalogue fault; CODE is the number (Table 11-2). -/
def catTrap (s : State) (num : Nat) : Stop := strandTrapOf s cCatalogue 0 num 0
/-- A scalar that holds a catalogue number has bits [63:12] zero (R197). -/
def catNumber (s : State) (v : W64) : Except Stop Nat :=
  if v.toNat < 4096 then .ok v.toNat else .error (catTrap s (v.toNat % 4096))

/-- A number leaves every core's Catalogue cache. -/
def State.uncache (s : State) (ctx num : Nat) : State :=
  { s with cores := s.cores.map (fun p => (p.1, { p.2 with cat := SMap.erase p.2.cat (4096 * ctx + num) })) }
/-- Writes an entry of a context's table and invalidates it everywhere (R200). -/
def State.setEntry (s : State) (ctx num : Nat) (e : Entry) : State :=
  (s.onCtx ctx (fun c => { c with cat := SMap.set 0 c.cat num e })).uncache ctx num

/-- CATSET (R200). -/
def execCatset (_ : BitVec 4) (d a : BitVec 6) (s : State) : Out := finish s do
  needScalars s [d, a]
  let num ← catNumber s (s.sreg d)
  let e := s.sreg a
  checkRun s e 64 64
  let (p, s1) ← spotHere s e 64 { r := true, w := false }
  let img : Entry := BitVec.ofNat 512 (natOfBytes (s1.getSpot p 64))
  require (decide (num ≠ 0) && img.sound) (catTrap s num)
  .ok ((s1.setEntry s.mine.ctx num img).advance)

/-- CATGET (R201). -/
def execCatget (_ : BitVec 4) (d a : BitVec 6) (w : BitVec 3) (s : State) : Out := finish s do
  needScalars s [d, a]
  let num ← catNumber s (s.sreg a)
  .ok ((s.putSreg d (fld (s.entry s.mine.ctx num) (64 * w.toNat) 64)).advance)

/-- CATLD (R201): the core's cache of 256 entries takes the run. -/
def execCatld (_ : BitVec 4) (a : BitVec 6) (n : BitVec 8) (s : State) : Out := finish s do
  needScalars s [a]
  let num ← catNumber s (s.sreg a)
  let keys := (List.range (n.toNat + 1)).map (fun i => 4096 * s.mine.ctx + (num + i) % 4096)
  let add (c : SMap Unit) : SMap Unit := keys.foldl (fun c k => SMap.put c k ()) c
  let trim (c : SMap Unit) : SMap Unit := (c.filter (fun p => !keys.contains p.1)).take (256 - keys.length)
  .ok ((s.onCore s.mine.core (fun k => { k with cat := add (trim k.cat) })).advance)

/-- CATFREE (R201). -/
def execCatfree (_ : BitVec 4) (a : BitVec 6) (s : State) : Out := finish s do
  needScalars s [a]
  let num ← catNumber s (s.sreg a)
  require (decide (num ≠ 0)) (catTrap s 0)
  let ctx := s.mine.ctx
  .ok ((s.setEntry ctx num (s.entry ctx num &&& ~~~(1#512 <<< 511))).advance)

/-! XPRB (R191). -/

/-- The physical address that a probe finds, with its page's level, setting no A or D bit. -/
def State.probe (s : State) (t : Nat) (e : W64) : Option (Nat × Nat) :=
  let T := s.team t
  if !canonical e || aperture e then none
  else match s.walk T.ctx (va48 e) with
    | none => none
    | some l => if l.pte.getLsbD 1 && decide (l.pa (va48 e) < Config.hbmEnd) then some (l.pa (va48 e), l.level) else none

/-- A result of Table 9-5. -/
def probeWord (home : Nat) (ext : Bool) (cls : Nat) (present : Bool) : W64 :=
  BitVec.ofNat 64 (home * 16 + bit1 ext * 8 + cls * 2 + bit1 present)

/-- What a probe of each kind answers. -/
def State.probed (s : State) (t fn : Nat) (v : W64) : W64 :=
  let T := s.team t
  match fn with
  | 0 =>
    let ext := canonical v && !aperture v && T.extents.any (fun x => x.valid && decide (x.va ≤ va48 v) && decide (va48 v < x.va + x.len))
    match s.probe t v with
    | some p => probeWord 0 ext p.2 true
    | none => probeWord 0 ext 0 false
  | 1 =>
    match s.probe t v with
    | none => 0
    | some p =>
      let hi := decide (p.1 / 128 % 2 = 1)
      match s.l2.find? (fun l => l.tile.isNone && l.line == p.1 / 256 && (if hi then l.sec1 else l.sec0)) with
      | some l => probeWord (homeLinear p.1) false l.cls true
      | none => probeWord (homeLinear p.1) false 0 false
  | _ =>
    let num := (fld v 0 12).toNat
    let row := (fld v 16 24).toNat
    let col := (fld v 40 24).toNat
    let home := homeTile T.ctx num row col
    match (if fld v 12 4 = 0 then s.l2.find? (fun l => l.tile == some (T.ctx, num, row, col)) else none) with
    | some l => probeWord home false l.cls true
    | none => probeWord home false 0 false

/-- XPRB (R191): a snapshot that never faults. -/
def execXprb (_ : BitVec 4) (d a : BitVec 6) (f : BitVec 8) (s : State) : Out := finish s do
  needScalars s [d, a]
  .ok ((s.putSreg d (s.probed s.cur.team f.toNat (s.sreg a))).advance)

end Sys2Proof.Machine
end

