-- ==== Sys2Proof/Machine/Wreck.lean ====
section
/-! DEFINITION. What follows where "the result is undefined; other contexts are unaffected" (00 R6, R7): everything that the context's
program can see takes free values, its strands may take any trap, and nothing of another context, no translation and no save arena changes.
Log 24 names what keeps its shape. -/

namespace Sys2Proof.Machine

/-! The memory that the context alone can write. -/

/-- A page that page tables map: where it is mapped, its frame, its size, its entry. -/
structure MappedPage where
  va   : Nat
  pa   : Nat
  size : Nat
  pte  : W64
deriving DecidableEq, Repr

/-- Pages that the table of level n - 1 at an address maps, from a virtual address on. -/
def State.pagesFrom (s : State) : Nat → Nat → Nat → List MappedPage
  | 0, _, _ => []
  | n + 1, va, table => (List.range 512).flatMap (fun i =>
    let p := s.mem64 (table + 8 * i)
    let frame := (p.toNat / 1024) % 2 ^ 44 * 4096
    if !p.getLsbD 0 then []
    else if p.getLsbD 1 || p.getLsbD 3 then [{ va := va + pageSize n * i, pa := frame / pageSize n * pageSize n, size := pageSize n, pte := p }]
    else s.pagesFrom n (va + pageSize n * i) frame)

/-- The tables of a context. -/
def State.tablesFrom (s : State) : Nat → Nat → List Nat
  | 0, _ => []
  | n + 1, table => table :: (List.range 512).flatMap (fun i =>
    let p := s.mem64 (table + 8 * i)
    if p.getLsbD 0 && !p.getLsbD 1 && !p.getLsbD 3 then s.tablesFrom n ((p.toNat / 1024) % 2 ^ 44 * 4096) else [])

/-- The contexts that live, by name. -/
def State.liveCtxs (s : State) : List Nat := (s.ctxs.filter (fun p => p.2.live)).map Prod.fst

/-- Whether a page lies in a context's save arena (11 R236). -/
def Context.inArena (c : Context) (p : MappedPage) : Bool :=
  decide (va48 c.saveVa < p.va + p.size) && decide (p.va < va48 c.saveVa + 2 ^ 32)

/-- Frames that the context alone can write: none that holds a page of another context, a table, or a part of a save arena. -/
def State.ownPages (s : State) (ctx : Nat) : List MappedPage :=
  let others := (s.liveCtxs.filter (fun c => c ≠ ctx)).flatMap (fun c => s.pagesFrom 4 0 (s.ctx c).satpRoot)
  let kept := others.map (fun p => (p.pa, p.size)) ++ s.liveCtxs.flatMap (fun c => (s.tablesFrom 4 (s.ctx c).satpRoot).map (fun t => (t, 4096)))
  (s.pagesFrom 4 0 (s.ctx ctx).satpRoot).filter (fun p => p.pte.getLsbD 2 && !Config.pteCow p.pte && decide (p.pa + p.size ≤ Config.hbmEnd)
    && !(s.ctx ctx).inArena p && kept.all (fun k => decide (k.1 + k.2 ≤ p.pa) || decide (p.pa + p.size ≤ k.1)))

/-- A frame with free bytes and free reference tags. -/
def State.wreckPage (s : State) (n : Nat) (p : MappedPage) : State :=
  let s1 := s.store p.pa ((List.range p.size).map (fun i => (Config.wild n 0 (p.pa + i)).setWidth 8))
  { s1 with memTags := (List.range (p.size / 8)).foldl (fun m i => SMap.flag m (p.pa / 8 + i) ((Config.wild n 1 (p.pa / 8 + i)).getLsbD 0)) s1.memTags }

/-! The teams. -/

/-- A stream with free scalars, tags, index registers, mode and flags. -/
def Stream.wreck (m : Stream) (w : Nat → W64) : Stream :=
  { m with sregs := SMap.ofRun 0 0 ((List.range 64).map w)
           srefs := (List.range 64).flatMap (fun i => if (w (64 + i)).getLsbD 0 then [(i, ())] else [])
           xregs := SMap.ofRun 0 0 ((List.range 4).map (fun i => (w (128 + i)).setWidth 16))
           fpmode := w 132, fpflags := (w 133).setWidth 5 }

/-- A team with free registers, tags, predicates, queue values and window bytes. -/
def Team.wreck (T : Team) (w : Nat → Nat → W64) : Team :=
  { T with
    vregs := (List.range (32 + 8 * T.heldBlocks)).flatMap (fun r => SMap.ofRun 0 (1024 * r) ((List.range T.lanes).map (fun l => lo32 (w 0 (1024 * r + l)))))
    vtags := (List.range (32 + 8 * T.heldBlocks)).flatMap (fun r => SMap.ofRun tRaw (64 * r) ((List.range T.ngroups).map (fun g => (w 1 (64 * r + g)).setWidth 4)))
    preds := SMap.ofRun 0 1 ((List.range 7).map (fun p => maskOf ((List.range T.lanes).filter (fun l => (w 2 (1024 * p + l)).getLsbD 0))))
    queues := T.queues.map (fun q => (q.1, q.2.mapIdx (fun i (e : QEntry) => { e with val := e.val.map (fun _ => lo32 (w 3 (8 * q.1 + i))) })))
    win := SMap.ofRun 0 0 ((List.range T.w).map (fun i => (w 4 i).setWidth 8))
    winTags := (List.range (T.w / 8)).flatMap (fun i => if (w 5 i).getLsbD 0 then [(i, ())] else [])
    cs := T.cs.wreck (w 6), as := T.as.wreck (w 7) }

/-- Every cause of Table 11-2. -/
def anyCause : List Nat :=
  [cZero, cIllegal, cChain, cTarget, cFetch, cTrap, cBkpt, cStep, cCompare, cDivergence, cJoin, cBarrier, cBound, cTag, cRefTag, cClosed,
   cConverge, cPolicy, cMisaligned, cSpad, cAccess, cPage, cCatalogue, cEscape, cLaunch, cUnlinked, cPattern, cNonInv, cMachine, cFabric, cWalker]

/-- A running strand goes on anywhere, or takes any trap. -/
def State.wreckStrand (s : State) (w : Nat → W64) (r : StrandRef) : State :=
  if (s.strand r).st ≠ .running then s
  else
    let s1 := s.onStrand r (fun x => { x with pc := w 0, checked := 0, after := none, replay := none, early := [] })
    if (w 1).getLsbD 0 then
      s1.takeTrap r { cause := anyCause.getD ((w 2).toNat % anyCause.length) cIllegal, detail := (w 3).toNat % 256, code := (w 4).toNat % 65536,
                      mask := (s1.strand r).mask, addr := w 5 } (w 0) (w 0)
    else s1

/-- One team of the context, with its strands. -/
def State.wreckTeam (s : State) (n t : Nat) : State :=
  let s1 := s.onTeam t (fun T => T.wreck (fun k i => Config.wild n (16 * t + 2 + k) i))
  (s1.strandsOf t .c ++ s1.strandsOf t .a).foldl (fun s r =>
    s.wreckStrand (fun i => Config.wild n (16 * t + 10) (16 * (r.sid.getD 256 + 512 * bit1 (decide (r.strm = .a))) + i)) r) s1

/-- The result is undefined for a context (R6). -/
def State.wreck (s : State) (ctx : Nat) : State :=
  let n := s.nonce
  let s1 := (s.ownPages ctx).foldl (fun s p => s.wreckPage n p) (s.drew 1)
  ((s.teams.filter (fun p => p.2.live && p.2.ctx == ctx)).map Prod.fst).foldl (fun s t => s.wreckTeam n t) s1

end Sys2Proof.Machine
end

