-- ==== Sys2Proof/Machine/DieCommands.lean ====
section
/-! DEFINITION. Commands of the die: the copy engine, rings, invalidating code (17 R289, R290, R295 to R302, R310). -/

namespace Sys2Proof.Machine

/-! Copying (R297 to R299). -/

/-- Check 2 of R296. -/
def needPolicy (s : State) (d : BitVec 6) : Except Stop Unit :=
  require (policyOk (lo32 (s.sreg d)) [0]) (strandTrap s cPolicy 0)

/-- The length operand of a range. -/
def rangeLen (v : W64) : Nat := v.toNat % 2 ^ 40

/-- CPY (R297). -/
def execCpy (la : BitVec 4) (d a : BitVec 6) (s : State) : Out := finish s do
  needScalars s [d, a, a + 1, a + 2]
  needPolicy s d
  let n := rangeLen (s.sreg (a + 2))
  checkRun s (s.sreg a) n 1
  checkRun s (s.sreg (a + 1)) n 1
  .ok (s.post la 0 (.cpy (s.sreg a) (s.sreg (a + 1)) n (lo32 (s.sreg d))))

/-- CPYT (R298). -/
def execCpyt (la : BitVec 4) (d a : BitVec 6) (s : State) : Out := finish s do
  needScalars s [d, a, a + 1, a + 2, a + 3, a + 4]
  needPolicy s d
  .ok (s.post la 0 (.cpyt (s.sreg a) (s.sreg (a + 1)) (s.sreg (a + 2)) (s.sreg (a + 3)) (s.sreg (a + 4)) (lo32 (s.sreg d))))

/-- TPREF (R299). -/
def execTpref (la : BitVec 4) (d a : BitVec 6) (s : State) : Out := finish s do
  needScalars s [d, a, a + 1, a + 2]
  needPolicy s d
  .ok (s.post la 0 (.tpref (s.sreg a) (s.sreg (a + 1)) (s.sreg (a + 2)) (lo32 (s.sreg d))))

/-- TFLUSH (R299). -/
def execTflush (la : BitVec 4) (a : BitVec 6) (s : State) : Out := finish s do
  needScalars s [a, a + 1, a + 2]
  .ok (s.post la 0 (.tflush (s.sreg a) (s.sreg (a + 1)) (s.sreg (a + 2))))

/-! Tiles of a tensor (R290). -/

/-- Rows and bytes of a tile. -/
def Entry.tileRows (e : Entry) : Nat := match e.tshape with | 0 => 8 | 1 => 16 | _ => 4
def Entry.tileBytes (e : Entry) : Nat := 256 / e.tileRows
/-- An extent, 1 for a dimension that the tensor does not have. -/
def Entry.ext (e : Entry) (d : Nat) : Nat := if d < e.ndim then e.dim d else 1
/-- Rows of the tensor, and bytes of a row. -/
def Entry.rows (e : Entry) : Nat := e.ext 1 * e.ext 2 * e.ext 3
def Entry.width (e : Entry) : Nat := ceilDiv (e.dim 0 * fmtBits e.fmt) 8
/-- The address of a row's first byte. -/
def Entry.rowAddr (e : Entry) (r : Nat) : W64 :=
  e.base + BitVec.ofNat 64 (r % e.ext 1) * e.stride 1 + BitVec.ofNat 64 (r / e.ext 1 % e.ext 2) * e.stride 2
    + BitVec.ofNat 64 (r / (e.ext 1 * e.ext 2)) * e.stride 3

def tileRow (o : W64) : Nat := (fld o 0 24).toNat
def tileCol (o : W64) : Nat := (fld o 24 24).toNat
def blockH (z : W64) : Nat := (fld z 0 12).toNat + 1
def blockW (z : W64) : Nat := (fld z 16 12).toNat + 1

/-- The run of bytes inside the extents of row a of w tiles from a tile on: its address and its length. -/
def Entry.runAt (e : Entry) (row col w a : Nat) : W64 × Nat :=
  let r := e.tileRows * row + a
  let c := e.tileBytes * col
  if r < e.rows ∧ c < e.width then (e.rowAddr r + BitVec.ofNat 64 c, min (w * e.tileBytes) (e.width - c)) else (e.base, 0)
/-- The run of row a of a block. -/
def Entry.blockRun (e : Entry) (origin z : W64) (a : Nat) : W64 × Nat := e.runAt (tileRow origin) (tileCol origin) (blockW z) a

/-- What the unit asks of the entries of a CPYT (R298), by DETAIL; the destination's number comes first. -/
def State.acceptCpyt (s : State) (t : Nat) (dnum dtile snum stile z : W64) : Except UnitFault (Entry × Entry) :=
  let ctx := (s.team t).ctx
  let D := s.entry ctx (dnum.toNat % 4096)
  let S := s.entry ctx (snum.toNat % 4096)
  let bad (num : W64) (d : Nat) : Except UnitFault (Entry × Entry) := .error { cause := cCatalogue, detail := d, code := num.toNat % 4096, addr := 0 }
  let absent (num : W64) (e : Entry) : Bool := num.toNat == 0 || !e.valid
  let away (e : Entry) : Bool := e.spad && (match (s.team t).rankTeam t (addrRank e.base) with
    | some u => !((s.team u).live && !(s.team u).retiring)
    | none => true)
  let unfit (e : Entry) : Bool := decide (e.skind ≠ 0) || e.pen
  let out (e : Entry) (o : W64) : Bool := e.spad && (List.range (blockH z * e.tileRows)).any (fun a =>
    let r := e.blockRun o z a
    decide (r.2 ≠ 0) && (s.aperturePlace t r.1 r.2).isNone)
  let tileBits (o : W64) : Bool := decide (fld o 48 16 ≠ 0)
  if 4096 ≤ dnum.toNat then bad dnum 0
  else if 4096 ≤ snum.toNat then bad snum 0
  else if absent dnum D then bad dnum 1
  else if absent snum S then bad snum 1
  else if away D then bad dnum 2
  else if away S then bad snum 2
  else if D.fmt ≠ S.fmt ∨ D.tshape ≠ S.tshape ∨ unfit D then bad dnum 3
  else if unfit S then bad snum 3
  else if out D dtile then bad dnum 4
  else if out S stile then bad snum 4
  else if tileBits dtile ∨ decide (fld z 12 4 ≠ 0) ∨ decide (fld z 28 36 ≠ 0) then bad dnum 5
  else if tileBits stile then bad snum 5
  else if D.ro then bad dnum 6
  else .ok (D, S)

/-! The engine's work. -/

/-- Where one byte lies. -/
inductive Loc where
  | win (u off : Nat)
  | mem (pa : Nat)
deriving DecidableEq, Repr

/-- The bytes of a run: where each lies, if its page translates, and the lowest address that does not, with DETAIL. -/
structure Located where
  locs : List (Option Loc)
  bad  : Option (W64 × Nat)
  st   : State

/-- Translates the parts of a run one after another. -/
def State.locate (s : State) (t : Nat) (need : Need) : List (W64 × Nat) → Located
  | [] => { locs := [], bad := none, st := s }
  | (e, n) :: rest =>
    let here : List (Option Loc) × Option (W64 × Nat) × State :=
      match s.aperturePlace t e 0 with
      | some (u, off) => ((List.range n).map (fun i => some (.win u (off + i))), none, s)
      | none =>
        match s.resolve t e need with
        | .ok pa s1 => ((List.range n).map (fun i => some (.mem (pa + i))), none, s1)
        | .fail d => (List.replicate n none, some (e, d), s)
    let r := State.locate here.2.2 t need rest
    { locs := here.1 ++ r.locs, bad := match here.2.1 with | some b => some b | none => r.bad, st := r.st }

/-- The runs of a copy: destination and length, source and length; where the source is shorter, zeros follow it. -/
structure CopyRun where
  dst : W64
  nd  : Nat
  src : W64
  ns  : Nat

/-- The parts of a run. -/
def runParts (e : W64) (n : Nat) : List (W64 × Nat) := pageParts (n / 4096 + 2) e n

/-- One byte of a copy: its source (none: zero), its destination, and the unit that moves it: an 8-byte word that is aligned at both ends
moves whole, other bytes singly (R297). Units are numbered by their first bytes. -/
structure CopyByte where
  src  : Option (Option Loc)
  dst  : Option Loc
  unit : Nat
deriving DecidableEq, Repr

/-- Located source and destination bytes of all runs, and the lowest failing address. -/
structure CopyMap where
  bytes : List CopyByte
  bad   : Option (W64 × Nat)
  st    : State

/-- The unit of byte i of a run whose bytes are numbered from k on. -/
def CopyRun.unitOf (r : CopyRun) (k i : Nat) : Nat :=
  let x := (r.dst.toNat + i) % 8
  if r.src.toNat % 8 = r.dst.toNat % 8 ∧ x ≤ i ∧ i - x + 8 ≤ min r.nd r.ns then k + i - x else k + i

/-- The lower of two failing addresses. -/
def lowerBad (a b : Option (W64 × Nat)) : Option (W64 × Nat) :=
  match a, b with
  | some x, some y => if y.1.toNat < x.1.toNat then some y else some x
  | some x, none => some x
  | none, y => y

def State.mapRuns (s : State) (t : Nat) (k : Nat) : List CopyRun → CopyMap
  | [] => { bytes := [], bad := none, st := s }
  | r :: rest =>
    let n := min r.nd r.ns
    let a := s.locate t { r := true, w := false } (runParts r.src n)
    let b := a.st.locate t { r := false, w := true } (runParts r.dst r.nd)
    let srcs : List (Option (Option Loc)) := a.locs.map some ++ List.replicate (r.nd - n) none
    let m := State.mapRuns b.st t (k + r.nd) rest
    { bytes := ((srcs.zip b.locs).zip (List.range r.nd)).map (fun p => { src := p.1.1, dst := p.1.2, unit := r.unitOf k p.2 : CopyByte }) ++ m.bytes
      bad := lowerBad (lowerBad a.bad b.bad) m.bad, st := m.st }

def State.byteAt (s : State) (l : Loc) : Byte :=
  match l with
  | .win u off => (s.team u).winByte off
  | .mem pa => Memory.read s.mem pa
def State.putByte (s : State) (l : Loc) (b : Byte) : State :=
  match l with
  | .win u off => if (s.team u).live then s.onTeam u (fun U => U.winStore off [b]) else s
  | .mem pa => s.store pa [b]

/-- The linear lines of a list of places, filled at their homes with a class. -/
def State.fillLocs (s : State) (ls : List (Option Loc)) (cls : Nat) : State :=
  (nub (ls.filterMap (fun l => match l with | some (.mem pa) => some (pa / 128) | _ => none))).foldl (fun s k => s.fillLinear (128 * k) cls) s

/-- Moves the bytes of a copy whose units a test names, each with the value that its source held before. A byte whose source or destination
is not mapped is not moved. -/
def State.moveBytes (s s0 : State) (bs : List CopyByte) (goes : Nat → Bool) : State :=
  bs.foldl (fun s b =>
    let v : Option Byte := match b.src with | none => some 0 | some (some l) => some (s0.byteAt l) | some none => none
    match b.dst, v with
    | some l, some v => if goes b.unit then s.putByte l v else s
    | _, _ => s) s

/-- The lowest poisoned physical address among the sources of a copy. -/
def State.copyPoison (s : State) (bs : List CopyByte) : Option Nat :=
  match bs.filterMap (fun b => match b.src with | some (some (.mem pa)) => if s.poisoned pa 1 then some pa else none | _ => none) with
  | [] => none
  | x :: rest => some (rest.foldl min x)

/-- A copy at the engine: every unit that has not moved before, or with a failing page any of those that translate (R297). -/
def State.runCopy (s : State) (t : Nat) (e : EngOp) (runs : List CopyRun) : State :=
  let m := s.mapRuns t 0 runs
  match m.st.copyPoison m.bytes with
  | some pa => m.st.engFault t e (faultOf cMachine 0 (BitVec.ofNat 64 pa))
  | none =>
    let goes (i : Nat) : Bool := !e.parts.contains i && (m.bad.isNone || decide (Config.pick (s.nonce + i) % 2 = 0))
    let s1 := m.st.moveBytes s m.bytes goes
    match m.bad with
    | some b => (s1.drew m.bytes.length).engFault t e (faultOf cPage b.2 b.1)
    | none => s1.engDone t e 0

/-- Whether source and destination of a copy share a byte. -/
def CopyMap.overlaps (m : CopyMap) : Bool :=
  let srcs := m.bytes.filterMap (fun b => match b.src with | some (some l) => some l | _ => none)
  m.bytes.any (fun b => match b.dst with | some l => srcs.contains l | none => false)

/-- The runs of an accepted copy. -/
def EngOp.copyRuns (e : EngOp) : List CopyRun :=
  match e.kind with
  | .cpy dst src n _ => [{ dst := dst, nd := n, src := src, ns := n }]
  | .cpyt _ dtile _ stile size _ =>
    let D : Entry := e.cats.getD 0 0
    let S : Entry := e.cats.getD 1 0
    (List.range (blockH size * D.tileRows)).map (fun a =>
      let x := D.blockRun dtile size a
      let y := S.blockRun stile size a
      { dst := x.1, nd := x.2, src := y.1, ns := y.2 : CopyRun })
  | _ => []

/-- Channels of a die's copy engine (00 R1). -/
def copyChannels : Nat := 16

/-- Whether a copy has, or finds, a channel of its die's engine to move bytes in. -/
def State.channelFree (s : State) (t : Nat) (e : EngOp) : Bool :=
  !e.parts.isEmpty || decide (((s.teams.filter (fun p => dieOf p.2.core == dieOf (s.team t).core)).flatMap (fun p =>
    p.2.engs.filter (fun o => o.cls == 0 && decide (o.stage = .accepted) && !o.parts.isEmpty))).length < copyChannels)

/-- One unit of an accepted copy moves ahead of the rest: bytes are read and written in any order (R297; 18 R327). -/
def State.copyPart (s : State) (t : Nat) (e : EngOp) (part : Nat) : State :=
  let m := s.mapRuns t 0 e.copyRuns
  let bs := m.bytes.filter (fun b => b.unit == part)
  if e.parts.contains part ∨ bs.isEmpty ∨ !s.channelFree t e ∨ (m.st.copyPoison bs).isSome then s
  else (m.st.moveBytes s bs (fun _ => true)).onTeam t (fun T => T.putEng { e with parts := part :: e.parts })

/-- The parts of a range's bytes in memory that translate: virtual address, physical address, length. -/
def State.reach (s : State) (t : Nat) : List (W64 × Nat) → List (W64 × Nat × Nat) × State
  | [] => ([], s)
  | (e, n) :: rest =>
    let here : List (W64 × Nat × Nat) × State :=
      if aperture e || !canonical e then ([], s)
      else match s.resolve t e { r := true, w := false } with
        | .ok pa s1 => ([(e, pa, n)], s1)
        | .fail _ => ([], s)
    let r := State.reach here.2 t rest
    (here.1 ++ r.1, r.2)

/-- Fills the lines of a range's parts, each with its class (09 R183). -/
def State.fillRuns (s : State) (parts : List (W64 × Nat × Nat)) (policy : W32) : State :=
  parts.foldl (fun s r => (List.range ((r.2.1 + r.2.2 - 1) / 128 - r.2.1 / 128 + 1)).foldl (fun s i =>
    s.fillLinear (128 * (r.2.1 / 128 + i)) (evictionClass policy (r.1 + BitVec.ofNat 64 (128 * i)))) s) s

/-- Lines of runs leave every L1D and the L2. -/
def State.flushRuns (s : State) (runs : List (Nat × Nat)) : State :=
  let s1 := s.dropLines runs
  { s1 with cores := s1.cores.map (fun p => (p.1, { p.2 with l1d := p.2.l1d.filter (fun l => !runsMeet [(128 * l.1, 128)] runs) })) }

/-- The runs of a tile that lie inside the extents. -/
def Entry.tileRuns (e : Entry) (row col : Nat) : List (W64 × Nat) :=
  ((List.range e.tileRows).map (fun a => e.runAt row col 1 a)).filter (fun r => decide (r.2 ≠ 0))

/-- The tiles of a block. -/
def blockTiles (origin z : W64) : List (Nat × Nat) :=
  (List.range (blockH z)).flatMap (fun i => (List.range (blockW z)).map (fun j => (tileRow origin + i, tileCol origin + j)))

/-- Fills or flushes a tile: what can be reached of it is flushed; a tile with a page that cannot be reached is not filled (R299). -/
def State.touchTile (s : State) (t num : Nat) (e : Entry) (flush : Bool) (policy : W32) (row col : Nat) : State :=
  match e.tileRuns row col with
  | [] => s
  | r :: rest =>
    let m := s.reach t ((r :: rest).flatMap (fun q => runParts q.1 q.2))
    let runs := m.1.map Prod.snd
    if flush then m.2.flushRuns runs
    else if (runs.map Prod.snd).foldl (· + ·) 0 = ((r :: rest).map Prod.snd).foldl (· + ·) 0 then
      m.2.fillTile (s.team t).ctx num row col (evictionClass policy r.1) runs
    else m.2

/-- TPREF and TFLUSH at the engine (R299). -/
def State.runTouch (s : State) (t : Nat) (e : EngOp) (flush : Bool) (num tile size : W64) (policy : W32) : State :=
  if num = 0 then
    let m := s.reach t (runParts tile (rangeLen size))
    let s1 := if flush then m.2.flushRuns (m.1.map Prod.snd) else m.2.fillRuns m.1 policy
    s1.engDone t e 0
  else
    let ent : Entry := e.cats.getD 0 0
    if 4096 ≤ num.toNat ∨ !ent.valid ∨ ent.spad then s.engDone t e 0
    else ((blockTiles tile size).foldl (fun s q => s.touchTile t num.toNat ent flush policy q.1 q.2) s).engDone t e 0

/-- COPY_OPERATION_COMPLETE (R297 to R299): an accepted operation of the copy engine takes effect. The engine waits for windows that are
not yet restored (11 R235). -/
def execCopyOperationComplete (team op : Nat) (s : State) : Out :=
  let T := s.team team
  match T.eng? op with
  | none => .next s
  | some e =>
    if e.stage ≠ .accepted ∨ !(team :: T.cluster).all (fun u => (s.team u).unrestored.isEmpty) then .next s
    else match e.kind with
      | .cpy dst _ n policy =>
        let s1 := s.runCopy team e e.copyRuns
        let a := s1.reach team (runParts dst n)
        let s2 := a.2.fillRuns a.1 policy
        -- ranges that overlap leave the result undefined (R297)
        .next (if (s.mapRuns team 0 e.copyRuns).overlaps then s2.wreck T.ctx else s2)
      | .cpyt dnum dtile snum stile size policy =>
        let touch (num : W64) (ent : Entry) (tile : W64) (s : State) : State :=
          if ent.spad then s else (blockTiles tile size).foldl (fun s q => s.touchTile team num.toNat ent false policy q.1 q.2) s
        .next (touch dnum (e.cats.getD 0 0) dtile (touch snum (e.cats.getD 1 0) stile (s.runCopy team e e.copyRuns)))
      | .tpref num tile size policy => .next (s.runTouch team e false num tile size policy)
      | .tflush num tile size => .next (s.runTouch team e true num tile size 0)
      | _ => .next s

/-! Rings (R300 to R302). -/

/-- Where a ring header lies. -/
def Spot.place (p : Spot) : Space × Nat :=
  match p with
  | .window u off => (.window u off, 0)
  | .mem ((pa, _) :: _) => (.global, pa)
  | .mem [] => (.global, 0)

/-- The number of no core: an engine, the fabric or Farder writes at home slices, and no L1D sees it (18 R317). -/
def noCore : Nat := 192
/-- A word of a header, and writing it: the L1D of the writing core sees the write (18 R317). -/
def State.ringWord (s : State) (at_ : Space) (pa i : Nat) : Nat :=
  match at_ with
  | .window u off => natOfBytes ((s.team u).winBytes (off + 8 * i) 8)
  | .global => s.memNat (pa + 8 * i) 8
def State.setRingWord (s : State) (core : Nat) (at_ : Space) (pa i v : Nat) : State :=
  match at_ with
  | .window u off => s.onTeam u (fun U => U.winStore (off + 8 * i) (bytesOfNat 8 v))
  | .global => (s.storeNat (pa + 8 * i) 8 v).refreshL1 core (pa + 8 * i) 8

/-- A header as the ring words see it: N, or none where it is invalid, and the four counts. -/
structure Ring where
  size   : Option Nat
  claim  : Nat
  commit : Nat
  await  : Nat
  retire : Nat

def State.ring (s : State) (at_ : Space) (pa : Nat) : Ring :=
  let w := s.ringWord at_ pa
  { size := if w 6 ≤ 26 ∧ w 7 = 0 ∧ w 1 = 0 ∧ w 5 % 64 = 0 then some (2 ^ w 6) else none
    claim := w 0, commit := w 2, await := w 3, retire := w 4 }

/-- What a ring word does now: a result at once, a wait, or a count that moves (which word of the header, its new value, the result). -/
inductive RingStep where
  | done (v : W64)
  | wait
  | move (word new : Nat) (v : W64)

/-- RCLAIM, RCOMMIT, RAWAIT, RRETIRE (R301). A word that has waited does not look again at what it refuses. -/
def ringStep (fn : Nat) (h : Ring) (g n : Nat) (waited : Bool) : RingStep :=
  match fn with
  | 5 =>
    match h.size with
    | none => if waited then .wait else .done (BitVec.allOnes 64)
    | some N =>
      if !waited && (n == 0 || decide (N < n)) then .done (BitVec.allOnes 64)
      else if h.claim + n ≤ N + h.retire then .move 0 (h.claim + n) (BitVec.ofNat 64 h.claim) else .wait
  | 6 =>
    if !waited && (decide (g < h.commit) || decide (h.claim < g + n) || n == 0) then .done 0
    else if h.commit = g then .move 2 (g + n) 1 else .wait
  | 7 =>
    match h.size with
    | none => if waited then .wait else .done (BitVec.allOnes 64)
    | some N =>
      if !waited && (n == 0 || decide (N < n)) then .done (BitVec.allOnes 64)
      else if h.await + n ≤ h.commit then .move 3 (h.await + n) (BitVec.ofNat 64 h.await) else .wait
  | _ =>
    if !waited && (decide (g < h.retire) || decide (h.await < g + n) || n == 0) then .done 0
    else if h.retire = g then .move 4 (g + n) 1 else .wait

/-- Whether a ring word acquires; the others release (R301). -/
def ringAcquires (fn : Nat) : Bool := fn == 5 || fn == 7

/-- A ring word ends with a result: the scalar, the acquire of one that was not refused, the strand goes on. -/
def State.endRing (s : State) (r : StrandRef) (acq : Bool) (sd : Nat) (v : W64) : State :=
  let s1 := s.onTeam r.team (fun T => T.setStream r.strm ((T.stream r.strm).setSreg (BitVec.ofNat 6 sd) v false))
  let s2 := if acq then s1.dropL1 (s.team r.team).core else s1
  (s2.onStrand r Strand.advance).wake r

/-- A ring word: checks, the header, and the result or the wait. -/
def ringWord (fn : Nat) (d a : BitVec 6) (three : Bool) (s : State) : Out := finish s do
  needScalars s ([d, a, a + 1] ++ (if three then [a + 2] else []))
  let e := s.sreg a
  let g := if three then s.sreg (a + 1) else 0
  let n := if three then s.sreg (a + 2) else s.sreg (a + 1)
  checkRun s e 64 64
  let (p, s1) ← spotHere s e 64 { r := true, w := true }
  let (at_, pa) := p.place
  let older := s1.rings.any (fun w => w.fn == fn && w.at_ == at_ && w.pa == pa)
  let w : RingWait := { r := s.cur, fn := fn, hdr := e, at_ := at_, pa := pa, sd := d.toNat, g := g, n := n, before := s.lastOp + 1 }
  let wait : State :=
    State.onStrand { s1 with rings := s1.rings ++ [w], lastOp := s.lastOp + 1 } s.cur (fun x => { x with st := .blocked, wait := .ring })
  match ringStep fn (s1.ring at_ pa) g.toNat n.toNat false with
  | .done v => .ok (s1.endRing s.cur false d.toNat v)
  | .wait => .ok wait
  | .move w new v =>
    if ringAcquires fn && older then .ok wait
    else if !ringAcquires fn && !s1.mine.releasedBefore s.cur.strm (s.lastOp + 1) then .ok wait
    else .ok ((s1.setRingWord s.mine.core at_ pa w new).endRing s.cur (ringAcquires fn) d.toNat v)

/-- RCLAIM (R301). -/
def execRclaim (_ : BitVec 4) (d a : BitVec 6) (s : State) : Out := ringWord 5 d a false s
/-- RCOMMIT (R301). -/
def execRcommit (_ : BitVec 4) (d a : BitVec 6) (s : State) : Out := ringWord 6 d a true s
/-- RAWAIT (R301). -/
def execRawait (_ : BitVec 4) (d a : BitVec 6) (s : State) : Out := ringWord 7 d a false s
/-- RRETIRE (R301). -/
def execRretire (_ : BitVec 4) (d a : BitVec 6) (s : State) : Out := ringWord 8 d a true s

/-- RING_WAIT_GRANT (R301): a waiting ring word whose condition holds; claims and awaits of one ring go oldest first. A header that has
become poisoned stops its reader (R311). -/
def execRingWaitGrant (r : StrandRef) (s : State) : Out :=
  match s.rings.find? (fun w => w.r == r) with
  | none => .next s
  | some w =>
    let s1 := { s with rings := s.rings.filter (fun x => x.r ≠ r) }
    let first := match s.rings.find? (fun x => x.fn == w.fn && x.at_ == w.at_ && x.pa == w.pa) with | some x => x.r == r | none => false
    let alive := match w.at_ with | .window u _ => (s.team u).live && (s.team u).unrestored.isEmpty | .global => true
    if w.at_ = .global ∧ s.poisoned w.pa 64 then
      let x := s1.strand r
      .next (s1.takeTrap r { cause := cMachine, detail := 0, code := 0, mask := x.mask, addr := BitVec.ofNat 64 w.pa } x.pc x.pc)
    else if !alive || (ringAcquires w.fn && !first) || (!ringAcquires w.fn && !(s.team r.team).releasedBefore r.strm w.before) then .next s
    else match ringStep w.fn (s.ring w.at_ w.pa) w.g.toNat w.n.toNat true with
      | .move i new v => .next ((s1.setRingWord (s.team r.team).core w.at_ w.pa i new).endRing r (ringAcquires w.fn) w.sd v)
      | _ => .next s

/-! Code (R310). -/

/-- ICINV (R310): after a release; no fault on the range. -/
def execIcinv (_ : BitVec 4) (a : BitVec 6) (s : State) : Out := finish s do
  needScalars s [a, a + 1]
  afterRelease s (fun s => .ok ((s.dropCode s.mine.ctx (va48 (s.sreg a)) (rangeLen (s.sreg (a + 1)))).advance))

end Sys2Proof.Machine
end

