-- ==== Sys2Proof/Machine/Launch.lean ====
section
/-! DEFINITION. Launch descriptors and kernel records, the launch fault, LAUNCH and WAITCH, the launch service, and the end of a grid
(20 R366, R367, R371 to R380). -/

namespace Sys2Proof.Machine

/-! Kernel records and descriptors (Tables 20-2, 20-3). -/

def word64At (bs : List Byte) (i : Nat) : W64 := BitVec.ofNat 64 (natOfBytes ((bs.drop (8 * i)).take 8))

/-- The values of a kernel record. -/
def kernelOf (bs : List Byte) : Kernel :=
  let p := word64At bs 6
  let q := word64At bs 7
  { centry := word64At bs 0, aentry := word64At bs 1, cb := word64At bs 2, ce := word64At bs 3, spda := word64At bs 4,
    spdn := word64At bs 5, lanes := (fld p 0 11).toNat, level := (fld p 12 3).toNat, lw := p.getLsbD 15, regs := (fld p 16 4).toNat,
    spad := (fld q 0 23).toNat, frame := (fld q 32 21).toNat,
    roles := (List.range 32).map (fun k => fld (word64At bs (8 + k / 16)) (4 * (k % 16)) 4) }

/-- The reserved bits of a kernel record are zero. -/
def recordZeros (bs : List Byte) : Bool :=
  decide (fld (word64At bs 6) 11 1 = 0) && decide (fld (word64At bs 6) 20 44 = 0) && decide (fld (word64At bs 7) 23 9 = 0)
  && decide (fld (word64At bs 7) 53 11 = 0) && (bs.drop 80).all (fun b => b = 0)

/-- A range record. -/
def rangeOf (bs : List Byte) : Extent :=
  let v := word64At bs 1
  { va := va48 (word64At bs 0), len := (fld v 0 40).toNat, pa := 0, r := v.getLsbD 62, w := v.getLsbD 63, valid := true }

/-- A range record's bits: those that must be zero, a permission, a canonical base. -/
def rangeSound (bs : List Byte) : Bool :=
  decide (fld (word64At bs 1) 40 22 = 0) && decide (fld (word64At bs 1) 62 2 ≠ 0) && canonical (word64At bs 0)

/-- The number of range records that a head names. -/
def headRanges (hd : List Byte) : Nat := (fld (word64At hd 3) 16 5).toNat

/-- The values of a head with its range records; the curve table is read later. -/
def launchOf (hd : List Byte) (ranges : List (List Byte)) : Launch :=
  let g := word64At hd 2
  let w := word64At hd 3
  { krec := word64At hd 0, gdim := ((fld g 0 21).toNat, (fld g 21 21).toNat, (fld g 42 21).toNat), clus := (fld w 0 3).toNat,
    ordered := w.getLsbD 3, prio := (fld w 4 2).toNat, curve := (fld w 8 3).toNat, ctab := [], hspans := (fld w 32 16).toNat,
    rtile := word64At hd 4, ranges := ranges.map rangeOf }

def Launch.teams (L : Launch) : Nat := L.gdim.1 * L.gdim.2.1 * L.gdim.2.2

/-- Where the curve table lies. -/
def headTable (hd : List Byte) : W64 := word64At hd 5

/-- The conditions of DETAIL 2 on the head (R375); more than 16 range records count among them (log 20). -/
def headSound (hd : List Byte) (L : Launch) : Bool :=
  let w := word64At hd 3
  decide (word64At hd 1 = 0) && decide (word64At hd 6 = 0) && decide (word64At hd 7 = 0) && !(word64At hd 2).getLsbD 63
  && decide (fld w 6 2 = 0) && decide (fld w 11 5 = 0) && decide (fld w 21 11 = 0) && decide (fld w 48 16 = 0)
  && (if L.curve = 4 then decide ((headTable hd).toNat % 64 = 0) else decide (headTable hd = 0))
  && decide (L.curve ≤ 4) && decide (L.clus ≤ 4) && decide (headRanges hd ≤ 16)
  && decide (L.gdim.1 ≠ 0) && decide (L.gdim.2.1 ≠ 0) && decide (L.gdim.2.2 ≠ 0) && decide (L.teams ≤ 2 ^ 32 - 1)

/-- The conditions of DETAIL 2 on the kernel. -/
def kernelSound (bs : List Byte) (K : Kernel) : Bool :=
  recordZeros bs && decide (1 ≤ K.lanes) && decide (K.lanes ≤ 1024) && (!K.lw || decide (K.lanes ≤ 512)) && decide (K.regs ≤ 11)

/-- A curve table names 64 positions, each once (R382). -/
def tableSound (t : List Byte) : Bool := t.all (fun b => decide (b.toNat < 64)) && decide t.Nodup

/-- Groups of a team of a kernel. -/
def kernelGroups (K : Kernel) : Nat := ceilDiv K.lanes (if K.lw then 16 else 32)

/-- Teams of a cluster, with its columns and rows (Table 13-1). -/
def clusShape (c : Nat) : Nat × Nat :=
  match c with
  | 1 => (2, 2) | 2 => (4, 2) | 3 => (2, 4) | 4 => (6, 2) | _ => (1, 1)
def clusTeams (c : Nat) : Nat := (clusShape c).1 * (clusShape c).2

/-- DETAIL 2 and 7 of the launch fault, or 0 (R375). -/
def launchFirst (hd : List Byte) (ranges : List (List Byte)) (kb : List Byte) (spawn : Bool) : Nat :=
  let L := launchOf hd ranges
  if !headSound hd L || !ranges.all rangeSound || !kernelSound kb (kernelOf kb) then 2
  else if spawn && (decide (L.gdim ≠ (1, 1, 1)) || decide (L.clus ≠ 0) || L.ordered || decide (L.curve ≠ 0)) then 7
  else 0

/-- DETAIL 3, 5, 6 and 1, or 0; a launcher at level L, or none for a root grid. -/
def launchLast (L : Launch) (K : Kernel) (level : Option Nat) : Nat :=
  if L.curve = 4 && !tableSound L.ctab then 3
  else if 768 < K.regs * kernelGroups K ∨ Config.spadBytes < K.spad + Config.reservedBytes then 5
  else if L.clus ≠ 0 ∧ L.teams % clusTeams L.clus ≠ 0 then 6
  else if (match level with | some l => l + 1 | none => 0) < K.level then 1
  else 0

/-! The reads and checks of LAUNCH and SPAWN (R374). -/

/-- Reads a run as loads of the stream (R429). -/
def readRun (s : State) (e : W64) (n align : Nat) : Except Stop (List Byte × State) := do
  checkRun s e n align
  let (p, s1) ← spotHere s e n { r := true, w := false }
  .ok (s1.getSpot p n, s1)

/-- The range records that stand after a head. -/
def readRanges (s : State) (e : W64) : Nat → Except Stop (List (List Byte) × State)
  | 0 => .ok ([], s)
  | n + 1 => do
    let (l, s1) ← readRanges s e n
    let (b, s2) ← readRun s1 (e + BitVec.ofNat 64 (64 + 16 * n)) 16 16
    .ok (l ++ [b], s2)

/-- The launch fault. -/
def launchTrap (s : State) (detail : Nat) (e : W64) : Stop := strandTrapOf s cLaunch detail 0 e

/-- Everything that LAUNCH or SPAWN reads, checked (R374, R375). -/
def readLaunch (s : State) (e : W64) (spawn : Bool) : Except Stop (Launch × Kernel × State) := do
  let (hd, s1) ← readRun s e 64 64
  let (rs, s2) ← readRanges s1 e (if headRanges hd ≤ 16 then headRanges hd else 0)
  let (kb, s3) ← readRun s2 (word64At hd 0) 128 64
  let d := launchFirst hd rs kb spawn
  require (decide (d = 0)) (launchTrap s d e)
  let L := launchOf hd rs
  let (tab, s4) ← if L.curve = 4 then readRun s3 (headTable hd) 64 64 else .ok ([], s3)
  let L1 := { L with ctab := tab }
  let K := kernelOf kb
  let d := launchLast L1 K (some s.mine.level)
  require (decide (d = 0)) (launchTrap s d e)
  .ok (L1, K, s4)

/-! New grids (R364 to R366, R374). -/

/-- A new grid of a context with its frame; none where an arena cannot supply it. GRIDIDs differ (log 3). -/
def State.newGrid (s : State) (G : Grid) (parent : W64) (ds : SMap W64) (sizes : SMap Nat) : Option (Nat × State) :=
  let K := G.kernel
  let g := s.lastGrid + 1
  let id := Config.gridBase + BitVec.ofNat 64 g
  match s.makeFrame G.ctx K.level K.frame G.launch.hspans parent id with
  | none => none
  | some (f, s1) =>
    let s2 := if parent = 0 then s1 else s1.setRefs G.ctx parent (s1.frameRefs G.ctx parent + 1)
    let G1 := { G with live := true, id := id, level := K.level, frame := f, frameSize := K.frame,
                       displays := SMap.set 0 (ds.slice 0 K.level) K.level f,
                       frameSizes := SMap.set 0 (sizes.slice 0 K.level) K.level K.frame }
    some (g, { s2.setGrid g G1 with lastGrid := g })

/-- A grid that the issuing team launches. -/
def State.launchFrom (s : State) (L : Launch) (K : Kernel) (task : Bool) (job : Option (Space × Nat)) : Option (Nat × State) :=
  let T := s.mine
  let parent := if K.level = 0 then 0 else SMap.get 0 T.displays (K.level - 1)
  s.newGrid { Grid.none with ctx := T.ctx, kernel := K, launch := L, launcher := some s.cur.team, record := T.record, task := task, job := job }
    parent T.displays T.frameSizes

/-- The grid is handed to the distributor, after the grids that were handed before it (R381). -/
def State.handGrid (s : State) (g : Nat) : State :=
  let turn := s.grids.foldl (fun m p => max m (p.2.turn + 1)) 0
  s.onGrid g (fun G => { G with handed := true, pred := none, turn := turn, since := s.clock })

/-- A launch completes: an ordered grid joins its team's chain (R380). -/
def State.handOver (s : State) (t g : Nat) : State :=
  if (s.grid g).launch.ordered then
    let s1 := s.onTeam t (fun T => { T with chain := some g })
    match (s.team t).chain with
    | some p => if (s.grid p).live then s1.onGrid g (fun G => { G with pred := some p }) else s1.handGrid g
    | none => s1.handGrid g
  else s.handGrid g

/-- Adds to a word of a team record (R378). -/
def State.addChild (s : State) (pa : Nat) (n : Nat) : State := s.storeNat pa 8 (s.memNat pa 8 + n)

/-- LAUNCH (R374): its RELEASE stands before its reads (log 20). -/
def execLaunch (_ : BitVec 4) (d a : BitVec 6) (s : State) : Out := finish s do
  needScalars s [d, a]
  require (decide ((s.sreg a).toNat % 64 = 0)) (strandTrap s cMisaligned (s.sreg a))
  afterRelease s (fun s => do
    let e := s.sreg a
    let (L, K, s1) ← readLaunch s e false
    match s1.launchFrom L K false none with
    | none => .error (launchTrap s 4 e)
    | some (g, s2) =>
      let s3 := (s2.addChild s.mine.record 1).handOver s.cur.team g
      .ok ((s3.putSreg d (s3.grid g).id).advance))

/-- WAITCH (R377): KILLED is returned and cleared in one update. -/
def execWaitch (_ : BitVec 4) (d : BitVec 6) (s : State) : Out := finish s do
  needScalars s [d]
  let pa := s.mine.record
  require (!s.poisoned pa 16) (strandTrap s cMachine (BitVec.ofNat 64 pa))
  if s.memNat pa 8 = 0 then
    let k := s.mem64 (pa + 8)
    .ok (((s.storeNat (pa + 8) 8 0).dropL1 s.mine.core).putSreg d k).advance
  else .ok (s.waitIn .again)

/-! The launch service (R367). -/

/-- Bytes that Farder reads in a context's memory, if they are mapped. -/
def State.ctxBytes (s : State) (ctx : Nat) (e : W64) (n : Nat) : Option (List Byte) :=
  (pageParts (n / 4096 + 2) e n).foldl (fun acc p => match acc, s.walk ctx (va48 p.1) with
    | some bs, some l => some (bs ++ Memory.readN s.mem (l.pa (va48 p.1)) p.2)
    | _, _ => none) (some [])

/-- A descriptor and its kernel as Farder's launch service, or a remote enqueue, reads them. -/
def State.serviceLaunch (s : State) (ctx : Nat) (e : W64) (spawn : Bool) : Option (Launch × Kernel) := do
  let hd ← s.ctxBytes ctx e 64
  let all ← s.ctxBytes ctx (e + 64) (16 * min 16 (headRanges hd))
  let rs := (List.range (min 16 (headRanges hd))).map (fun i => (all.drop (16 * i)).take 16)
  let kb ← s.ctxBytes ctx (word64At hd 0) 128
  if launchFirst hd rs kb spawn ≠ 0 then none
  else
    let L := launchOf hd rs
    let tab ← if L.curve = 4 then s.ctxBytes ctx (headTable hd) 64 else some []
    let L1 := { L with ctab := tab }
    if launchLast L1 (kernelOf kb) none ≠ 0 then none else some (L1, kernelOf kb)

/-- ROOT_LAUNCH (R367): a level-0 grid of a live context; the service refuses any other. -/
def execRootLaunch (ctx : Nat) (desc : W64) (s : State) : Out :=
  if !(s.ctx ctx).live || (s.ctx ctx).exited.isSome || !aligned64 desc then .next s
  else match s.serviceLaunch ctx desc false with
    | none => .next s
    | some (L, K) =>
      match s.newGrid { Grid.none with ctx := ctx, kernel := K, launch := L } 0 [] [] with
      | none => .next s
      | some (g, s1) => .next (s1.handGrid g)
where
  aligned64 (e : W64) : Bool := decide (e.toNat % 64 = 0) && canonical e

/-! The end of a grid (R379, R380). -/

/-- The ordered successor of a grid that has ended is handed over. -/
def State.succeed (s : State) (g : Nat) : State :=
  (s.grids.filter (fun p => p.2.live && decide (p.2.pred = some g))).foldl (fun s p => s.handGrid p.1) s

/-- The launcher's counts after a child's end, and its record if the launcher is gone (R378). -/
def State.childEnds (s : State) (G : Grid) : State :=
  match G.launcher with
  | none => s
  | some t =>
    let s1 := if G.killed then s.addChild (G.record + 8) 1 else s
    let s2 := s1.storeNat G.record 8 (s1.memNat G.record 8 - 1)
    if (s2.team t).live then s2 else s2.dropRecord G.ctx G.record

/-- A grid or task leaves: its frame, its name, its standing as the handler grid. -/
def State.dropGrid (s : State) (g : Nat) : State :=
  let G := s.grid g
  let s1 := (s.frameDies G.ctx G.frame).setGrid g Grid.none
  if (s.ctx G.ctx).handler = some g then s1.onCtx G.ctx (fun c => { c with handler := none }) else s1

/-- GRID_END (R379): every team of the grid has retired. -/
def execGridEnd (grid : Nat) (s : State) : Out :=
  let G := s.grid grid
  if !G.live || G.task || !G.handed || G.retired < G.launch.teams then .next s
  else .next (((s.childEnds G).dropGrid grid).succeed grid)

end Sys2Proof.Machine
end

