-- ==== Sys2Proof/Machine/Placement.lean ====
section
/-! DEFINITION. Room on a core, the start of a team, the Meridian distributor and its curves (01 R10, R13; 08 R170; 09 R203; 10 R213;
13 R240; 20 R376, R381, R382). -/

namespace Sys2Proof.Machine

/-! Room (04 R87, 08 R170, 01 R10). -/

/-- Whether a window may stand at a base, with the reserved regions of all. -/
def State.windowFits (s : State) (k : Core) (base w : Nat) : Bool :=
  decide (base % 16384 = 0) && decide (base + w ≤ Config.spadBytes)
  && k.residents.all (fun t => decide ((s.team t).spBase + (s.team t).w ≤ base) || decide (base + w ≤ (s.team t).spBase))
  && decide (k.residents.foldl (fun n t => n + (s.team t).w + Config.reservedBytes) (w + Config.reservedBytes) ≤ Config.spadBytes)

/-- A bank that may hold a team of a context: its own, or an empty one. -/
def Bank.takes (b : Bank) (ctx : Nat) : Bool := b.loaded && (b.ctx == some ctx || b.ctx.isNone || b.slots.isEmpty)
/-- The bank with its context. -/
def Bank.forCtx (b : Bank) (ctx : Nat) : Bank := if b.ctx = some ctx then b else { Bank.empty with ctx := some ctx }

/-- Whether a core's active bank has room for a team of a kernel, but for its window. -/
def State.bankFits (s : State) (k : Core) (ctx : Nat) (K : Kernel) : Bool :=
  let b := k.active.forCtx ctx
  k.active.takes ctx && decide (K.regs * kernelGroups K ≤ b.pool)
  && decide (b.slots.foldl (fun n p => n + (s.team p.2).ngroups) (kernelGroups K) ≤ Config.groupSlots)

/-- Whether a team fits at a place. -/
def State.fitsAt (s : State) (ctx : Nat) (K : Kernel) (p : Place) : Bool :=
  let k := s.core p.core
  decide (p.core < 192) && s.hub.railsOn && s.bankFits k ctx K && decide (p.slot < 64) && (k.active.slots.all (fun q => q.1 ≠ p.slot))
  && s.windowFits k p.base K.spad

/-- Whether a team fits anywhere on a core: a window fits at 0 or where another ends, if it fits at all. -/
def State.fitsOn (s : State) (ctx : Nat) (K : Kernel) (core : Nat) : Bool :=
  let k := s.core core
  (List.range 64).any (fun slot => (0 :: k.residents.map (fun t => (s.team t).spBase + (s.team t).w)).any (fun base =>
    s.fitsAt ctx K { core := core, slot := slot, base := base }))

/-! The start of a team (01 R13, 20 R376). -/

/-- Whether n pages from va on are mapped to one run of memory from pa on; if so, whether all are readable and all are writable. -/
def State.runPerms (s : State) (ctx va pa : Nat) : Nat → Option (Bool × Bool)
  | 0 => some (true, true)
  | n + 1 =>
    match s.walk ctx (va + 4096 * n) with
    | none => none
    | some l =>
      if l.pa (va + 4096 * n) ≠ pa + 4096 * n then none
      else match s.runPerms ctx va pa n with
        | none => none
        | some (r, w) => some (r && l.pte.getLsbD 1, w && l.pte.getLsbD 2 && !Config.pteCow l.pte)

/-- The extent of a declared range: every page mapped, and one run of physical memory; W only where every page is writable (09 R203). -/
def State.extentOf (s : State) (ctx : Nat) (x : Extent) : List Extent :=
  let pa := match s.walk ctx x.va with | some l => l.pa x.va | none => 0
  if x.va % 4096 = 0 ∧ x.len % 4096 = 0 ∧ x.len ≠ 0 ∧ (x.va + x.len ≤ 2 ^ 47 ∨ 2 ^ 47 ≤ x.va) ∧ x.va + x.len ≤ 2 ^ 48
     ∧ pa + x.len ≤ Config.hbmEnd then
    match s.runPerms ctx x.va pa (x.len / 4096) with
    | some (r, w) => [{ x with pa := pa, r := x.r && r, w := x.w && w }]
    | none => []
  else []

/-- The bytes of a window at the start: the initialiser, then zero (10 R213, 08 R170). -/
def State.startWindow (s : State) (ctx : Nat) (K : Kernel) : SMap Byte :=
  let n := min K.spdn.toNat K.spad
  match (if K.spda = 0 then none else s.ctxBytes ctx K.spda n) with
  | some bs => SMap.ofRun 0 0 bs
  | none => []

/-- A root strand at the start (04 R87). -/
def rootAt (t : Nat) (x : StreamId) (pc : W64) (lanes regs wm clock : Nat) : Strand :=
  { Strand.free with st := .running, team := t, strm := x, pc := pc, mask := firstLanes lanes, cnt := regs, wm := wm, readyAt := clock }

/-- A team of a grid as it starts (R376). -/
def State.newTeam (s : State) (t g lin rank : Nat) (cluster : List Nat) (p : Place) (record : Nat) : Team :=
  let G := s.grid g
  let K := G.kernel
  let d := G.launch.gdim
  let gw := if K.lw then 16 else 32
  let hasA := decide (K.aentry ≠ 0)
  let stream (x : StreamId) (pc : W64) (wm : Nat) : Stream :=
    { Stream.absent with present := true, root := rootAt t x pc K.lanes K.regs wm s.clock }
  { Team.none with
    live := true, ctx := G.ctx, grid := g, core := p.core, slot := p.slot, cluster := cluster, crank := rank, prio := G.launch.prio
    lanes := K.lanes, level := K.level, lw := K.lw, roles := K.roles
    tidx := (lin % d.1, lin / d.1 % d.2.1, lin / d.1 / d.2.1), gdim := d, cb := K.cb, ce := K.ce
    displays := G.displays, frameSizes := G.frameSizes, record := record
    stamp := 2 * (Config.stampBase + BitVec.ofNat 64 t) + 1
    extents := G.launch.ranges.flatMap (s.extentOf G.ctx)
    vregs := SMap.ofRun 0 0 ((List.range K.lanes).map (fun l => (K.roles.getD (l / gw) 0).setWidth 32))
    vtags := SMap.ofRun tRaw 0 ((List.range (kernelGroups K)).map (fun _ => tI32))
    gens := SMap.ofRun 0 0 ((List.range K.lanes).map (fun l => BitVec.ofNat 64 (l + 1) * genSeed))
    heldBlocks := K.regs, w := K.spad, spBase := p.base, win := s.startWindow G.ctx K
    cs := stream .c K.centry (if hasA then K.regs else 0)
    as := if hasA then stream .a K.aentry K.regs else Stream.absent }

/-- Places one team: its record, the team, its slot and blocks in the core's active bank; the start is an acquire at its core (18 R336).
None where the frame arena is out of room. -/
def State.startTeam (s : State) (g lin rank : Nat) (cluster : List Nat) (p : Place) : Option State :=
  let G := s.grid g
  match s.takeFrame G.ctx 64 with
  | none => none
  | some (o, s1) =>
    let pa := (s1.ctx G.ctx).framePa + o
    let s2 := s1.store pa (List.replicate 64 0)
    let t := s2.lastTeam + 1
    let s3 := ({ s2 with lastTeam := t }).setTeam t (s2.newTeam t g lin rank cluster p pa)
    some (((s3.dropL1 p.core).wakeStripes p.core p.base G.kernel.spad).onCore p.core (fun k =>
      let b := k.active.forCtx G.ctx
      { k with active := { b with slots := SMap.put b.slots p.slot t, pool := b.pool - G.kernel.regs * kernelGroups G.kernel } }))

/-- Places the teams of a unit, rank by rank. -/
def State.startUnit (s : State) (g first : Nat) (cluster : List Nat) : Nat → List Place → Option State
  | _, [] => some s
  | rank, p :: rest =>
    match s.startTeam g (first + rank) rank cluster p with
    | some s1 => State.startUnit s1 g first cluster (rank + 1) rest
    | none => none

/-! Curves (R382). -/

/-- XY2D from the bit below 2^k. -/
def xy2d (n : Nat) : Nat → Nat → Nat → Nat
  | 0, _, _ => 0
  | k + 1, x, y =>
    let s := 2 ^ k
    let rx := x / s % 2
    let ry := y / s % 2
    let x1 := if rx = 1 then n - 1 - x else x
    let y1 := if rx = 1 then n - 1 - y else y
    s * s * ((3 * rx) ^^^ ry) + (if ry = 0 then xy2d n k y1 x1 else xy2d n k x y)

/-- The bits of x and y interleaved. -/
def morton (x y : Nat) : Nat :=
  (List.range 21).foldl (fun c i => c + x / 2 ^ i % 2 * 2 ^ (2 * i) + y / 2 ^ i % 2 * 2 ^ (2 * i + 1)) 0

/-- The place of a position along a curve, within its z slice. -/
def curveKey (L : Launch) (x y : Nat) : Nat :=
  let gx := L.gdim.1
  let gy := L.gdim.2.1
  match L.curve with
  | 0 => x + gx * y
  | 1 => y + gy * x
  | 2 => morton x y
  | 3 =>
    let k := ((List.range 22).find? (fun k => decide (max gx gy ≤ 2 ^ k))).getD 21
    xy2d (2 ^ k) k x y
  | _ =>
    let at_ := (L.ctab.findIdx? (fun b => b.toNat == x % 8 + 8 * (y % 8))).getD 0
    64 * (x / 8 + ceilDiv gx 8 * (y / 8)) + at_

/-- The place of a unit in its grid's order: by z, then along the curve, of its rank-0 team. -/
def unitKey (L : Launch) (u : Nat) : Nat :=
  let lin := u * clusTeams L.clus
  2 ^ 48 * (lin / L.gdim.1 / L.gdim.2.1) + curveKey L (lin % L.gdim.1) (lin / L.gdim.1 % L.gdim.2.1)

def Launch.units (L : Launch) : Nat := L.gdim.1 * L.gdim.2.1 * L.gdim.2.2 / clusTeams L.clus

/-- The unit that has n units before it. -/
def nthUnit (L : Launch) (n : Nat) : Option Nat :=
  (List.range (Launch.units L)).find? (fun u => ((List.range (Launch.units L)).filter (fun v => decide (unitKey L v < unitKey L u))).length == n)

/-! The distributor (R381, 13 R240). -/

/-- Whether places are one core, or the cores of a permitted rectangle of one die in rank order (Table 13-1). -/
def placesShape (clus : Nat) (ps : List Place) : Bool :=
  let sh := clusShape clus
  let c0 := (ps.headD { core := 0, slot := 0, base := 0 }).core
  let row := c0 % 24 / 6
  let col := c0 % 6
  ps.length == sh.1 * sh.2
  && (clus == 0 || (decide (col % 2 = 0) && decide (row % 2 = 0) && decide (col + sh.1 ≤ 6) && decide (row + sh.2 ≤ 4)))
  && (List.range ps.length).all (fun r =>
      (ps.getD r { core := 0, slot := 0, base := 0 }).core == c0 + 6 * (r / sh.1) + r % sh.1)

/-- Whether the next unit of a grid fits somewhere. -/
def State.unitFits (s : State) (G : Grid) : Bool :=
  let sh := clusShape G.launch.clus
  (List.range 192).any (fun c0 =>
    (G.launch.clus == 0 || (decide (c0 % 6 % 2 = 0) && decide (c0 % 24 / 6 % 2 = 0) && decide (c0 % 6 + sh.1 ≤ 6) && decide (c0 % 24 / 6 + sh.2 ≤ 4)))
    && (List.range (sh.1 * sh.2)).all (fun r => s.fitsOn G.ctx G.kernel (c0 + 6 * (r / sh.1) + r % sh.1)))

/-- A grid with units still to be placed. -/
def Grid.waits (G : Grid) : Bool := G.live && G.handed && !G.task && decide (G.placed < Launch.units G.launch)

/-- Whether a grid is offered room before another. -/
def Grid.before (h G : Grid) : Bool :=
  decide (G.launch.prio < h.launch.prio) || (decide (h.launch.prio = G.launch.prio) && decide (h.turn < G.turn))

/-- UNIT_PLACEMENT (R381): the next unit of a grid, on places that fit; no grid that is offered room first has a unit that fits. -/
def execUnitPlacement (grid : Nat) (places : List Place) (s : State) : Out :=
  let G := s.grid grid
  let rivals := (s.grids.map Prod.snd).filter (fun h => Grid.waits h)
  let urgent := rivals.any (fun h => h.urgent)
  let offered (h : Grid) : Bool := !urgent || h.urgent
  if Grid.waits G && offered G && placesShape G.launch.clus places && places.all (s.fitsAt G.ctx G.kernel)
     && rivals.all (fun h => !(offered h && Grid.before h G && s.unitFits h)) then
    match nthUnit G.launch G.placed with
    | none => .next s
    | some u =>
      let n := clusTeams G.launch.clus
      let cluster := (List.range n).map (fun r => s.lastTeam + 1 + r)
      match s.startUnit grid (u * n) cluster 0 places with
      | none => .next s
      | some s1 => .next (s1.onGrid grid (fun G => { G with placed := G.placed + 1, since := s.clock, urgent := false }))
  else .next s

/-- GRID_URGENT (R381). -/
def execGridUrgent (grid : Nat) (s : State) : Out :=
  let G := s.grid grid
  if Grid.waits G ∧ G.since + 1048576 ≤ s.clock then .next (s.onGrid grid (fun G => { G with urgent := true })) else .next s

end Sys2Proof.Machine
end

