-- ==== Sys2Proof/Machine/Arena.lean ====
section
/-! DEFINITION. The save arena: what the spill engine writes to a core image and to a quad image, and what it reads back (01 R19; 11 R235,
R236; 13 R267; 14 R270; 19 R343, R346). Where the spec gives an area but not the places of its bits, the bytes are open (log 34). -/

namespace Sys2Proof.Machine

/-- Farder, or an engine of its own, writes a run of a context's memory. -/
def State.putCtx (s : State) (ctx : Nat) (e : W64) (bs : List Byte) : State :=
  ((pageParts (bs.length / 4096 + 2) e bs.length).foldl (fun (acc : State × List Byte) p =>
    match s.walk ctx (va48 p.1) with
    | some l => (acc.1.store (l.pa (va48 p.1)) (acc.2.take p.2), acc.2.drop p.2)
    | none => acc) (s, bs)).1

/-! Where things stand (11 Table 11-4). -/

/-- The size of a core image. -/
def imageBytes : Nat := 10 * 2 ^ 20
/-- The size of a quad image: tiles, and descriptors behind them (13 R267). -/
def quadImageBytes : Nat := 2 ^ 21 + 4096
/-- The address of a core image. -/
def Context.imageAt (c : Context) (image : Nat) : W64 := c.saveVa + BitVec.ofNat 64 (imageBytes * image)
/-- The address of the quad image that goes with a core image: the quad images follow the core images. DESIGN CHOICE (log 34). -/
def Context.quadImageAt (c : Context) (image : Nat) : W64 := c.saveVa + BitVec.ofNat 64 (imageBytes * 193 + quadImageBytes * image)

/-- The first group slot of a team: the groups of a bank stand in the order of its team slots. DESIGN CHOICE (log 34). -/
def State.groupBase (s : State) (b : Bank) (t : Nat) : Nat :=
  (b.slots.filter (fun p => decide (p.1 < (s.team t).slot))).foldl (fun n p => n + (s.team p.2).ngroups) 0

/-- Registers of a team that are mapped (04 R86). -/
def Team.mapped (T : Team) : Nat := 32 + 8 * T.heldBlocks

/-! The core image. -/

/-- STATE as a record holds it (01 Table 1-1). -/
def StrandState.code (x : StrandState) : Nat :=
  match x with
  | .free => 0 | .running => 1 | .suspended => 2 | .waiting => 3 | .parked => 4 | .blocked => 5

/-- A record of the split table in the arena (01 Table 1-1). -/
def State.recordNat (s : State) (x : Strand) : Nat :=
  let T := s.team x.team
  if x.st = .free then 0
  else T.ngroups.fold (fun g _ n => n + T.laneWord x.mask g * 2 ^ (32 * g)) 0 + T.groupBits x.mask * 2 ^ 1024 + x.pc.toNat % 2 ^ 48 * 2 ^ 1056
    + x.parent.getD 0 * 2 ^ 1104 + bit1 x.parent.isNone * 2 ^ 1112 + bit1 (decide (x.strm = .a)) * 2 ^ 1113 + T.slot * 2 ^ 1114
    + x.st.code * 2 ^ 1120 + (if x.st = .waiting then x.jpc.toNat % 2 ^ 48 else 0) * 2 ^ 1128

/-- An area whose layout the spec does not give: open bytes (log 34). -/
def openArea (nonce off n : Nat) : Nat × List Byte := (off, (List.range n).map (fun i => BitVec.ofNat 8 (Config.pick (nonce + off + i))))

/-- A team's vector tags, stochastic generators and vector registers: v(r) of lane j of group slot G at 128 × (120G + r) + 4j (11 R236). -/
def Team.registerRuns (T : Team) (G : Nat) : List (Nat × List Byte) :=
  (List.range T.ngroups).flatMap (fun g =>
    (0x2B000 + 64 * (G + g), bytesOfNat 64 (T.mapped.fold (fun r _ n => n + (T.vtag r g).toNat * 16 ^ r) 0))
    :: (0x2C000 + 256 * (G + g), (List.range T.gw).flatMap (fun j => bytesOfNat 8 (SMap.get 0 T.gens (T.gw * g + j)).toNat))
    :: (List.range T.mapped).map (fun r =>
         (0xC8000 + 128 * (120 * (G + g) + r), (List.range T.gw).flatMap (fun j => bytesOfNat 4 (T.vr r (T.gw * g + j)).toNat))))

/-- The tags of a window, one bit for each 8-byte word of the 8 MiB (19 R346). -/
def Team.tagRun (T : Team) : Nat × List Byte :=
  (0x1B8000 + T.spBase / 64, (List.range (T.w / 64)).map (fun i =>
    BitVec.ofNat 8 ((8 : Nat).fold (fun k _ n => n + bit1 (SMap.has T.winTags (8 * i + k)) * 2 ^ k) 0)))

/-- An entry of the span table in the arena (19 R343). -/
def Team.spanImage (T : Team) (i : Nat) : List Byte :=
  match T.spans[i]? with
  | some p => bytesOfNat 8 p.base.toNat ++ bytesOfNat 8 p.next.toNat ++ bytesOfNat 256 p.priv.toNat
  | .none => List.replicate 272 0

/-- The row sets that no window of a bank takes, from the top: they hold the reserved regions. DESIGN CHOICE (log 34). -/
def State.reservedRows (s : State) (b : Bank) : List Nat :=
  (List.range 512).reverse.filter (fun r => b.slots.all (fun p =>
    decide (16384 * (r + 1) ≤ (s.team p.2).spBase) || decide ((s.team p.2).spBase + (s.team p.2).w ≤ 16384 * r)))

/-- The reserved region of the k-th team of a bank, in two row sets: the overflow stack, whose layout is not given, then the span table at
offset 18,432 (19 R343). -/
def Team.regionRuns (T : Team) (nonce : Nat) (rows : List Nat) (k : Nat) : List (Nat × List Byte) :=
  let a := 0x200000 + 16384 * rows.getD (2 * k) 0
  let b := 0x200000 + 16384 * rows.getD (2 * k + 1) 0
  [openArea nonce a 16384, openArea nonce b 2048, (b + 2048, (List.range 16).flatMap T.spanImage), openArea nonce (b + 6400) 9984]

/-- The runs of a core image (11 Table 11-4). -/
def State.coreImage (s : State) (b : Bank) : List (Nat × List Byte) :=
  let rows := s.reservedRows b
  [openArea s.nonce 0 0x21000,
   (0x21000, (List.range Config.splitRecords).flatMap (fun i => bytesOfNat 160 (s.recordNat (SMap.get Strand.free b.split i)))),
   openArea s.nonce 0x30000 0x98000]
  ++ b.slots.flatMap (fun p => (s.team p.2).registerRuns (s.groupBase b p.2))
  ++ b.slots.map (fun p => (s.team p.2).tagRun)
  ++ b.slots.map (fun p => (0x200000 + (s.team p.2).spBase, (s.team p.2).winBytes 0 (s.team p.2).w))
  ++ (List.range b.slots.length).flatMap (fun k => (s.team (b.slots.getD k (0, 0)).2).regionRuns s.nonce rows k)

/-! The quad image (13 R267, 14 R270). -/

/-- Tiles of the reservation that a team holds. -/
def Team.tiles (T : Team) : Nat := match T.resv with | some v => v.n | .none => 0

/-- The teams of a bank that hold tiles or generator contexts, each with the first tile that it has in the image. -/
def State.quadTeams (s : State) (b : Bank) : List (Nat × Nat) :=
  (b.slots.foldl (fun (acc : List (Nat × Nat) × Nat) p =>
    let T := s.team p.2
    if T.resv.isSome || !T.gcs.isEmpty then (acc.1 ++ [(p.2, acc.2)], acc.2 + T.tiles) else acc) ([], 0)).1

/-- A generator context in the image (14 Table 14-1); the layout of its working state is not given. -/
def GenCtx.bytes (g : GenCtx) (nonce : Nat) : List Byte :=
  bytesOfNat 8 g.hdr.toNat ++ bytesOfNat 8 (statWord (some g) false).toNat
  ++ (List.range 32).flatMap (fun i => bytesOfNat 4 (g.words.getD i 0).toNat) ++ (openArea nonce 0 112).2

/-- The runs of a quad image: a team's tiles in order of number, 32 KiB each, row by row, and its context c at byte 256c of its KiB of the
descriptors (14 R270). DESIGN CHOICE (log 34): the first team's KiB is the first. -/
def State.quadImage (s : State) (b : Bank) : List (Nat × List Byte) :=
  let ts := s.quadTeams b
  openArea s.nonce 0x200000 4096 ::
  (List.range ts.length).flatMap (fun k =>
    let p := ts.getD k (0, 0)
    let T := s.team p.1
    (List.range T.tiles).map (fun i => (32768 * (p.2 + i), (List.range 8192).flatMap (fun e => bytesOfNat 4 (SMap.get 0 T.acc (8192 * i + e)).toNat)))
    ++ T.gcs.map (fun (g : GenCtx) => (0x200000 + 1024 * k + 256 * g.no, g.bytes s.nonce)))

/-! Writing and reading (11 R235). -/

/-- Whether every page of a run of the arena is mapped. -/
def State.arenaPages (s : State) (ctx : Nat) (base : W64) (n : Nat) : Bool :=
  (List.range (n / 4096)).all (fun i => (s.walk ctx (va48 (base + BitVec.ofNat 64 (4096 * i)))).isSome)

/-- Whether the arena stands for a bank: its core image, and its quad image where its teams hold resources of the quad. -/
def State.arenaStands (s : State) (ctx image : Nat) (b : Bank) : Bool :=
  s.arenaPages ctx ((s.ctx ctx).imageAt image) imageBytes
  && ((s.quadTeams b).isEmpty || s.arenaPages ctx ((s.ctx ctx).quadImageAt image) quadImageBytes)

/-- The spill engine writes runs at a place of a context's arena. -/
def State.putRuns (s : State) (ctx : Nat) (base : W64) (runs : List (Nat × List Byte)) : State :=
  runs.foldl (fun s r => s.putCtx ctx (base + BitVec.ofNat 64 r.1) r.2) s

/-- The spill engine writes a bank's images. -/
def State.spill (s : State) (ctx image : Nat) (b : Bank) : State :=
  let c := s.ctx ctx
  let s1 := s.putRuns ctx (c.imageAt image) (s.coreImage b)
  (if (s.quadTeams b).isEmpty then s1 else s1.putRuns ctx (c.quadImageAt image) (s.quadImage b)).drew imageBytes

/-- A number in the arena. -/
def State.arenaNat (s : State) (ctx : Nat) (base : W64) (off n : Nat) : Nat :=
  natOfBytes ((s.ctxBytes ctx (base + BitVec.ofNat 64 off) n).getD [])

/-- A team as it comes back: its registers, tags, generators, window and tiles are those of the images, which Farder may have changed
(11 R225). -/
def State.unspill (s : State) (ctx image : Nat) (b : Bank) (t : Nat) : Team :=
  let T := s.team t
  let base := (s.ctx ctx).imageAt image
  let G := s.groupBase b t
  let first := match (s.quadTeams b).find? (fun p => p.1 == t) with | some p => p.2 | none => 0
  { T with
    vregs := (List.range T.mapped).flatMap (fun r => SMap.ofRun 0 (1024 * r) ((List.range T.lanes).map (fun l =>
      BitVec.ofNat 32 (s.arenaNat ctx base (0xC8000 + 128 * (120 * (G + l / T.gw) + r) + 4 * (l % T.gw)) 4))))
    vtags := (List.range T.mapped).flatMap (fun r => SMap.ofRun tRaw (64 * r) ((List.range T.ngroups).map (fun g =>
      BitVec.ofNat 4 (s.arenaNat ctx base (0x2B000 + 64 * (G + g) + r / 2) 1 / 16 ^ (r % 2)))))
    gens := SMap.ofRun 0 0 ((List.range T.lanes).map (fun l =>
      BitVec.ofNat 64 (s.arenaNat ctx base (0x2C000 + 256 * (G + l / T.gw) + 8 * (l % T.gw)) 8)))
    win := SMap.ofRun 0 0 ((s.ctxBytes ctx (base + BitVec.ofNat 64 (0x200000 + T.spBase)) T.w).getD [])
    winTags := (List.range (T.w / 8)).flatMap (fun i =>
      if (s.arenaNat ctx base (0x1B8000 + T.spBase / 64 + i / 8) 1).testBit (i % 8) then [(i, ())] else [])
    acc := SMap.ofRun 0 0 ((List.range (8192 * T.tiles)).map (fun e =>
      BitVec.ofNat 32 (s.arenaNat ctx ((s.ctx ctx).quadImageAt image) (32768 * first + 4 * e) 4))) }

end Sys2Proof.Machine
end

