-- ==== Sys2Proof/Machine/Misuse.lean ====
section
/-! DEFINITION. The accesses whose result the spec calls undefined for the whole context and that the machine can tell (00 R6): writes of
frame, object and ring headers and of live job records, accesses to another team's private objects, and writes under a pending PUBLISH (17 R300, R303; 19 R340, R344,
R359; 20 R363, R378). After one, the context is wrecked (log 24). -/

namespace Sys2Proof.Machine

/-! Headers of objects (19 Table 19-1). -/

def hdrState (w : W64) : Nat := (fld w 62 2).toNat
def hdrSize (w : W64) : Nat := (fld w 0 32).toNat
def hdrSizeOk (w : W64) : Bool := decide (hdrSize w % 128 = 0) && decide (128 ≤ hdrSize w) && decide (hdrSize w ≤ 262144)

/-- Whether runs [a, a + m) and [b, b + n) have a common byte. -/
def meet (a m b n : Nat) : Bool := decide (a < b + n) && decide (b < a + m)

/-- Whether a write meets the header of one of the objects that stand one after another from x on, 19 R351. -/
def State.hitsObject (s : State) (ctx e n : Nat) : Nat → Nat → Bool
  | 0, _ => false
  | fuel + 1, x =>
    if e + n ≤ x then false
    else match s.walk ctx x with
      | none => false
      | some l =>
        let h := s.mem64 (l.pa x)
        hdrSizeOk h && (meet e n x 16 || s.hitsObject ctx e n fuel (x + hdrSize h))

/-- The objects reachable from references by the tagged words of memory: their addresses and sizes (19 R356). -/
def State.reachFrom (s : State) (ctx : Nat) : Nat → List W64 → List (Nat × Nat) → List (Nat × Nat)
  | 0, _, seen => seen
  | _, [], seen => seen
  | fuel + 1, x :: rest, seen =>
    let v := va48 x
    match s.walk ctx v with
    | none => s.reachFrom ctx fuel rest seen
    | some l =>
      let h := s.mem64 (l.pa v)
      if seen.any (fun p => p.1 == v) || !hdrSizeOk h then s.reachFrom ctx fuel rest seen
      else
        let tagged := (List.range (hdrSize h / 8)).filterMap (fun i =>
          match s.walk ctx (v + 8 * i) with
          | some k => if 2 ≤ i && SMap.has s.memTags (k.pa (v + 8 * i) / 8) then some (s.mem64 (k.pa (v + 8 * i))) else none
          | none => none)
        s.reachFrom ctx fuel (rest ++ tagged) ((v, hdrSize h) :: seen)

/-- The roots of the PUBLISH words of a context that were issued before an operation and have not retired. -/
def State.pendingRoots (s : State) (ctx op : Nat) : List W64 :=
  s.teams.flatMap (fun p => if p.2.ctx ≠ ctx then [] else p.2.engs.filterMap (fun e => match e.kind with
    | .publish root _ => if e.id < op then some root else none
    | _ => none))

/-- Whether a write, or the reference that it stores, names an object that a pending PUBLISH reaches (19 R359). -/
def State.underWalk (s : State) (ctx : Nat) (a : AccessOp) (l : LaneAcc) : Bool :=
  match s.pendingRoots ctx a.id with
  | [] => false
  | roots =>
    let objs := s.reachFrom ctx (2 ^ 20) roots []
    objs.any (fun o => meet (va48 l.e) a.size o.1 o.2)
      || (match a.kind with | .storeRef => objs.any (fun o => o.1 == va48 l.data) | _ => false)

/-- Job records whose tasks live or wait, which no software may write (17 R303). -/
def State.liveRecords (s : State) : List (Space × Nat) :=
  (s.grids.filterMap (fun p => if p.2.live && !p.2.ended then p.2.job else none)) ++ s.remotes.map (fun r => (r.at_, r.pa))

/-- Whether the result of a lane's access is undefined. -/
def State.misuse (s : State) (t : Nat) (a : AccessOp) (l : LaneAcc) : Bool :=
  let T := s.team t
  let c := s.ctx T.ctx
  let writes := !a.kind.reads
  match l.at_, l.st with
  | .window u off, .ready _ =>
    writes && (s.rings.any (fun w => match w.at_ with | .window v o => v == u && meet off a.size o 64 | .global => false)
               || s.liveRecords.any (fun p => match p.1 with | .window v o => v == u && meet off a.size o 64 | .global => false))
  | .global, .ready pa =>
    s.teams.any (fun p => p.1 != t && p.2.live && p.2.ctx == T.ctx && p.2.privateLine l.e)
    || (writes && (s.rings.any (fun w => match w.at_ with | .global => meet pa a.size w.pa 64 | .window _ _ => false)
      || s.liveRecords.any (fun p => match p.1 with | .global => meet pa a.size p.2 64 | .window _ _ => false)
      || c.frames.any (fun p => meet pa a.size (c.framePa + p.1) 64)
      || (let h := va48 c.heapVa
          let v := va48 l.e
          decide (h ≤ v) && decide (v < h + c.heapSize) && s.hitsObject T.ctx v a.size 2048 (v / 262144 * 262144))
      || s.underWalk T.ctx a l))
  | _, _ => false

/-- Whether the access of one of several lanes has an undefined result. -/
def State.misuses (s : State) (t : Nat) (a : AccessOp) (ls : List LaneAcc) : Bool := ls.any (fun l => s.misuse t a l)

end Sys2Proof.Machine
end

