-- ==== Sys2Proof/Machine/MemoryEvents.lean ====
section
/-! DEFINITION. The events of the memory pipe: translation, performance, completion, and the parking of a word with failed lanes
(08 R159, R177; 09 R207 to R212; 18 R316; 19 R353, R354). -/

namespace Sys2Proof.Machine

/-- What a kind of access needs of its page. -/
def AccKind.need (k : AccKind) : Need :=
  match k with
  | .load => { r := true, w := false }
  | .loadRef => { r := true, w := false }
  | .store => { r := false, w := true }
  | .storeRef => { r := false, w := true }
  | _ => { r := true, w := true }

/-- A page-table entry that a walk for an access reads in a poisoned sector (17 R311): its physical address. An access that the TLB or an
extent serves walks none. -/
def State.walkPoison (s : State) (t : Nat) (e : W64) (n : Need) : Option Nat :=
  let T := s.team t
  if s.poison.isEmpty || (T.extentFor (va48 e) n).isSome || (s.core T.core).tlb.any (fun x => x.hits T.ctx (va48 e) n) then none
  else (s.walkReads (va48 e) 4 (s.ctx T.ctx).satpRoot).find? (fun a => s.poisoned a 8)

/-- Whether the page of an address is of a contiguous region (R207). -/
def State.contigAt (s : State) (t : Nat) (e : W64) : Bool :=
  match s.walk (s.team t).ctx (va48 e) with
  | some l => l.level == 0 && l.pte.getLsbD 8 && l.pte.getLsbD 1
  | none => false

/-- A lane whose address is resolved. A load that has read under a prediction stands if the walk gives the same frame, of a contiguous
region; else its read is squashed (R207). -/
def LaneAcc.resolved (l : LaneAcc) (pa : Nat) (contig : Bool) : LaneAcc :=
  match l.pred with
  | some (p, some v) => if p = pa ∧ contig then { l with st := .performed, pa := some pa, res := v, pred := none }
                        else { l with st := .ready pa, pa := some pa, pred := none }
  | _ => { l with st := .ready pa, pa := some pa, pred := none }

/-- Lanes that cannot go on: they wait for their word to park, or, where their stream has ended, they are given up (01 R29). -/
def State.laneFate (s : State) (t op : Nat) (ls : List LaneAcc) : State :=
  match (s.team t).acc? op with
  | none => s
  | some a =>
    if ((s.team t).stream a.strm).lives && !(s.team t).retiring then s.onTeam t (fun T => T.putAcc op ls)
    else (s.onTeam t (fun T => T.putAcc op (ls.map (fun l => { l with st := .done })))).accMoved t

/-- TRANSLATION_WALK_COMPLETE (R206 to R209): the lane's address is resolved, or the lane is unfinished; lanes of equal address share
their fate (R188). -/
def execTranslationWalkComplete (team op lane : Nat) (s : State) : Out :=
  match (s.team team).acc? op with
  | none => .next s
  | some a =>
    match a.lane? lane with
    | none => .next s
    | some l =>
      if l.st ≠ .toTranslate then .next s
      else
        let same := a.lanes.filter (fun k => k.e == l.e && decide (k.st = .toTranslate))
        match s.walkPoison team l.e a.kind.need with
        | some at_ => .next (s.laneFate team op (same.map (fun k => { k with st := .failed cMachine (BitVec.ofNat 64 at_), pred := none })))
        | none =>
          match s.resolve team l.e a.kind.need with
          | .ok pa s1 => .next ((s1.onTeam team (fun T => T.putAcc op (same.map (fun k => k.resolved pa (s1.contigAt team l.e))))).accMoved team)
          | .fail d => .next (s.laneFate team op (same.map (fun k => { k with st := .unfinished d, pred := none })))

/-- Whether the rows under a place of a window can be accessed: restored, and in a stripe that is awake (08 R178, 11 R235). -/
def State.rowsReady (s : State) (u off : Nat) : Bool :=
  let U := s.team u
  !U.unrestored.contains (off / 16384) && decide (SMap.get 0 (s.core U.core).stripes ((U.spBase + off) / 2 ^ 20) = 1)

/-- Whether the lanes that go together may be performed now. -/
def State.mayPerform (s : State) (t : Nat) (a : AccessOp) (ls : List LaneAcc) : Bool :=
  let T := s.team t
  s.ordered t a && T.scTurn a
  && ls.all (fun l => T.clear a l && a.inTurn l && (match l.st with | .ready _ => true | _ => false)
      && (match l.at_ with | .window u off => s.rowsReady u off | .global => true))

/-- Performs lanes of an access together: their effects, stamps of SC operations, and the acquire of a word whose last lane this is. -/
def State.performLanes (s : State) (t : Nat) (a : AccessOp) (ls : List LaneAcc) (viaL1 : Bool) : State :=
  let core := (s.team t).core
  let p := s.performAll t a viaL1 none ls
  let pas := ls.filterMap (fun l => match l.at_, l.st with | .global, .ready pa => some pa | _, _ => none)
  -- a line or one read is one SC operation; each update of a CAS is one of its own (R324)
  let ops := match a.kind with | .cas => pas | _ => pas.take 1
  let c := match ls.head? with | some l => l.sent.getD (s.scClock t a) | none => 0
  let s1 := if a.ord = 4 then ops.foldl (fun s pa => s.stampSc t a pa (umax c (((s.team t).stream a.strm).last))) p.2 else p.2
  -- a write of a whole sector clears its poison (17 R311)
  let s2 := match a.kind, pas with
    | .store, pa :: _ => if a.coal && decide (pas.length * a.size = 128) then s1.clearPoison pa else s1
    | _, _ => s1
  let gone := !(((s.team t).stream a.strm).lives && !(s.team t).retiring)
  let fates := if gone then p.1.map (fun l => match l.st with | .failed _ _ => { l with st := .done } | _ => l) else p.1
  let s3 := s2.onTeam t (fun T => T.putAcc a.id fates)
  let whole := a.lanes.all (fun l => l.settled || ls.any (fun k => k.lane == l.lane))
  let s4 := if a.acquires && decide (2 ≤ a.scope) && whole then s3.dropL1 core else s3
  s4.accMoved t

/-- MEMORY_ACCESS_PERFORM (18 R316): a lane in memory is performed, at its home slice or, where that is open to it, at the L1D. -/
def execMemoryAccessPerform (team op lane : Nat) (viaL1 : Bool) (s : State) : Out :=
  match (s.team team).acc? op with
  | none => .next s
  | some a =>
    match a.lane? lane with
    | none => .next s
    | some l =>
      let ls := a.together (s.team team) l
      if decide (l.at_ = .global) && s.mayPerform team a ls then
        let s1 := s.performLanes team a ls viaL1
        .next (if s.misuses team a ls then s1.wreck (s.team team).ctx else s1)
      else .next s

/-- SCRATCHPAD_ACCESS_PERFORM (08 R177): a lane is performed at its bank. -/
def execScratchpadAccessPerform (team op lane : Nat) (s : State) : Out :=
  match (s.team team).acc? op with
  | none => .next s
  | some a =>
    match a.lane? lane with
    | none => .next s
    | some l =>
      let ls := a.together (s.team team) l
      if decide (l.at_ ≠ .global) && s.mayPerform team a ls then
        let s1 := s.performLanes team a ls false
        .next (if s.misuses team a ls then s1.wreck (s.team team).ctx else s1)
      else .next s

/-! Completion. -/

/-- Writes a lane's register or registers, or fills its queue entry, or writes the scalar (R159, R173, R187, R189, R353). -/
def Team.finishLane (T : Team) (a : AccessOp) (l : LaneAcc) : Team :=
  let lo := lo32 l.res
  let hi := hi32 l.res
  match a.dest with
  | .nowhere => T
  | .regs r n tag =>
    let g := l.lane / T.gw
    -- an atomic leaves the tag as it is, but its write strikes a pair and a partner that holds REF (04 R84, 19 R353)
    let tagged (T : Team) (r : Nat) : Team := T.tagPass r g (tag.getD (T.vtag r g))
    let T1 := (tagged T r).setVr r l.lane lo
    if n = 2 then (tagged T1 (r + 1)).setVr (r + 1) l.lane hi else T1
  | .queue q => T.fill q l.lane a.id lo
  | .scalar d => T.setStream a.strm ((T.stream a.strm).setSreg (BitVec.ofNat 6 d) l.res l.tag)
  | .refPair r _ => (T.setVr r l.lane lo).setVr (r + 1) l.lane hi

/-- Sets the tag of both registers of an LDREF's pair in a group. -/
def Team.pairTag (T : Team) (a : AccessOp) (r g : Nat) (t : BitVec 4) : Team :=
  let other (o : AccessOp) : AccessOp := if o.id = a.id then o else (o.strike r g).strike (r + 1) g
  (({ T with accs := T.accs.map other }).setVtag r g t).setVtag (r + 1) g t

/-- The tag that an LDREF gives its pair in a group: REF where every lane read a tagged word and every other lane of the group held a
reference, untouched since (R353). -/
def Team.refTag (T : Team) (a : AccessOp) (held : List Nat) (g : Nat) : BitVec 4 :=
  let all := T.groupMask g &&& firstLanes T.lanes
  let whole := decide (a.mask &&& all = all)
  if (a.lanes.filter (fun l => l.lane / T.gw == g)).all (fun l => l.tag) && (whole || held.contains g) then tRef else tRaw

/-- LOAD_COMPLETE (08 R159, 09 R187, 19 R353): a performed lane writes its result. The lanes of an LDREF write when the whole word has
been performed, a group at a time. -/
def execLoadComplete (team op lane : Nat) (s : State) : Out :=
  match (s.team team).acc? op with
  | none => .next s
  | some a =>
    match a.lane? lane with
    | none => .next s
    | some l =>
      if l.st ≠ .performed then .next s
      else match a.dest with
        | .refPair r held =>
          let T := s.team team
          let g := l.lane / T.gw
          let failed (k : LaneAcc) : Bool := match k.st with | .failed _ _ => true | _ => false
          if a.lanes.all (fun k => k.settled || k.faulted) && a.lanes.all (fun k => !failed k) then
            let ls := a.lanes.filter (fun k => k.lane / T.gw == g && decide (k.st = .performed))
            let T1 := ls.foldl (fun T k => T.finishLane a k) T
            let whole := a.lanes.all (fun k => k.lane / T.gw != g || k.settled)
            let T2 := if whole then T1.pairTag a r g (T.refTag a held g) else T1
            .next ((s.onTeam team (fun _ => T2.putAcc op (ls.map (fun k => { k with st := .done })))).accMoved team)
          else .next s
        | _ => .next ((s.onTeam team (fun T => (T.finishLane a l).putAcc op [{ l with st := .done }])).accMoved team)

/-! Parking. -/

/-- Gives back the queue entries that lanes popped (R210). -/
def Team.unpop (T : Team) (ls : List LaneAcc) : Team :=
  ls.foldl (fun T l => l.pops.foldl (fun T p => T.setQueue p.1 l.lane (p.2 :: T.queue p.1 l.lane)) T) T

/-- The strand stands at a word that it issued before; `after` is where it had come to (R211). -/
def Strand.backTo (x : Strand) (a : AccessOp) (replay : Bool) : Strand :=
  { x with st := .parked, pc := a.pc, after := if x.pc = a.pc + 4 then none else some x.pc, checked := 0, stepDue := false, wait := .nothing
           replay := if replay then some a.id else none, windows := x.windows.filter (fun w => w.1 ≠ a.id) }

/-- The record of a trap that an issued word meets. -/
def State.recAt (s : State) (r : StrandRef) (a : AccessOp) (t : TrapInfo) : TrapRec :=
  { s.recOf r t a.pc a.pc with op := some a.id }

/-- PAGE_FAULT_PARK (R209 to R212): every lane of a word has been performed or has failed. Lanes that met an escape (19 R354) or a
machine-check (17 R311) stop the strand at the word in the same way (log 15). -/
def execPageFaultPark (team op : Nat) (s : State) : Out :=
  match (s.team team).acc? op with
  | none => .next s
  | some a =>
    let r : StrandRef := { team := team, strm := a.strm, sid := a.sid }
    let x := s.strand r
    let stopped := decide (x.st = .running) || (decide (x.st = .blocked) && x.wait.retries)
    let older := (s.team team).accs.any (fun b => decide (b.id < a.id) && decide (b.strm = a.strm) && b.sid == a.sid
      && b.lanes.any (fun l => match l.st with | .toTranslate => true | .unfinished _ => true | .failed _ _ => true | _ => false))
    if !stopped || x.replay.isSome || older || a.parked || !a.lanes.all (fun l => l.settled || l.faulted) then .next s
    else match a.lanes.find? (fun l => match l.st with | .failed _ _ => true | _ => false) with
      | some f =>
        let cause := match f.st with | .failed c _ => c | _ => 0
        let addr := match f.st with | .failed _ e => e | _ => 0
        let bad := a.lanes.filter (fun l => match l.st with | .failed c _ => c == cause | _ => false)
        let mask := if a.one then a.mask else maskOf (bad.map (fun l => l.lane))
        let t : TrapInfo := { cause := cause, detail := if cause = cEscape then 3 else 0, code := 0, mask := mask, addr := addr }
        let s1 := s.onStrand r (fun x => x.backTo a false)
        let s2 := if cause = cEscape then s1.onTeam team (fun T => { T with accs := T.accs.filter (fun b => b.id ≠ op) })
                  else s1.onTeam team (fun T => T.putAcc op ((a.lanes.filter (fun l => decide (l.st ≠ .performed))).map
                         (fun l => { l with st := .done })))
        .next ((s2.postRec (s2.recAt r a t)).accMoved team)
      | none =>
        match a.lanes.filter LaneAcc.faulted with
        | [] => .next s
        | f :: rest =>
          let ls := f :: rest
          let mask := if a.one then a.mask else maskOf (ls.map (fun l => l.lane))
          let d := match f.st with | .unfinished d => d | _ => 0
          let t : TrapInfo := { cause := cPage, detail := d, code := 0, mask := mask, addr := f.e }
          let s1 := (s.onStrand r (fun x => x.backTo a true)).onTeam team (fun T =>
            let T1 := { T.unpop ls with accs := T.accs.map (fun b => if b.id = op then { b with parked := true } else b) }
            -- while an LDREF is parked its pair holds RAW where lanes are unfinished (19 R353)
            match a.dest with
            | .refPair v _ => (T1.groupsOf (maskOf (ls.map (fun l => l.lane)))).foldl (fun T g => T.pairTag a v g tRaw) T1
            | _ => T1)
          .next (s1.postRec (s1.recAt r a t))

end Sys2Proof.Machine
end

