-- ==== Sys2Proof/Machine/MemoryWords.lean ====
section
/-! DEFINITION. The access words: scratchpad (08 R172 to R177), cluster (13 R266), global (09 R185 to R192), frame (20 R368 to R370). -/

namespace Sys2Proof.Machine

/-- What an access word names: what it does, its data registers from v, the access size, and its offset register. -/
structure AccWord where
  kind : AccKind
  v    : Nat
  size : Nat
  vi   : Option Nat

/-- Registers of a value of the access size. -/
def AccWord.width (w : AccWord) : Nat := if w.size = 8 then 2 else 1
/-- The data registers: a compare and swap names the compare value and then the new one. -/
def AccWord.regs (w : AccWord) : List Nat :=
  let n := match w.kind with | .cas => 2 * w.width | _ => w.width
  if isPort w.v then [w.v] else (List.range n).map (fun i => w.v + i)
def AccWord.reads (w : AccWord) : List Nat := w.vi.toList ++ (if w.kind.reads then [] else w.regs)
def AccWord.writes (w : AccWord) : List Nat := if w.kind.writes then [] else w.regs
/-- Where the results go: loads tag RAW, atomics leave tags unchanged (08 R173 to R175). -/
def AccWord.dest (w : AccWord) : Dest :=
  match w.kind with
  | .load => if isPort w.v then .queue (w.v - 120) else .regs w.v w.width (some tRaw)
  | .atomic _ => .regs w.v w.width none
  | .cas => .regs w.v w.width none
  | .loadRef => .refPair w.v []
  | _ => .nowhere

/-- A value of the access size from registers of a lane. -/
def Team.regVal (T : Team) (w : AccWord) (from_ l : Nat) : W64 :=
  if w.width = 2 then pair64 (T.vr from_ l) (T.vr (from_ + 1) l) else zx64 (T.field from_ l)
/-- The operand that a lane stores or adds, and the one it compares. -/
def Team.operands (T : Team) (w : AccWord) (l : Nat) : W64 × W64 :=
  match w.kind with
  | .cas => (T.regVal w (w.v + w.width) l, T.regVal w w.v l)
  | .load => (0, 0)
  | .loadRef => (0, 0)
  | _ => (T.regVal w w.v l, 0)

/-- e of every active lane from a base and the sign-extended offsets (R172, R185). -/
def offsetAddrs (s : State) (base : W64) (vi : Nat) : Addrs :=
  { es := (s.mine.lanesOf s.me.mask).map (fun l => (l, base + sx64 (s.mine.field vi l))), one := false }

/-- The steps of every access word: interlocks, bounds and queues; the checks; the comparators; the issue. -/
def accWord (s : State) (la : BitVec 4) (w : AccWord) (p : W32) (addrs : State → Addrs) (check : Addrs → Except Stop Unit)
    (place : W64 → Option (Nat × Nat)) (spad coal : Bool) : Except Stop State := do
  beginVec s w.reads w.writes
  let q := addrs s
  check q
  let fires ← watchData s q (!w.kind.writes) (!w.kind.reads) spad w.size
  let lane (x : Nat × W64) : LaneAcc :=
    let d := s.mine.operands w x.1
    laneAt s w.reads place x.1 x.2 d.1 d.2
  .ok (s.issue la w.reads fires { accessOf w.kind w.size p w.dest (q.es.map lane) with coal := coal, once := !spad && w.kind.oneRead, spad := spad })

/-- Check 2 of R172 and R186: the offset register carries I32. -/
def viTag (s : State) (q : Addrs) (vi : Option Nat) : Except Stop Unit := failTag s q cTag vi.toList (fun t => decide (t = tI32))
/-- No data source carries REF (R172, R186). -/
def noRef (s : State) (q : Addrs) (fs : List Nat) : Except Stop Unit := failTag s q cRefTag fs (fun t => decide (t ≠ tRef))

/-! Scratchpad words. -/

/-- A scratchpad word: tags, then checks 3 to 5 of R172. -/
def spadWord (s : State) (la : BitVec 4) (w : AccWord) (k : BitVec 4) (cluster : Bool) (tags : Addrs → Except Stop Unit) : Out :=
  access s (fun s => do
    needScalars s [baseOf k, polOf k]
    let t := s.cur.team
    let place (e : W64) : Option (Nat × Nat) := if cluster then s.clusterPlace t e w.size else s.ownPlace t e w.size
    accWord s la w 0 (fun s => offsetAddrs s (s.sreg (baseOf k)) (w.vi.getD 0))
      (fun q => do viTag s q w.vi; tags q; checkSpad s q w.size (policyAt s k) place) place true false)

/-- The size that sz names. -/
def sizeOf (z : BitVec 2) : Nat := 2 ^ z.toNat

/-- LDS (R173). -/
def execLds (la : BitVec 4) (v i : BitVec 7) (k : BitVec 4) (z : BitVec 2) (s : State) : Out :=
  spadWord s la { kind := .load, v := v.toNat, size := sizeOf z, vi := some i.toNat } k false (fun _ => .ok ())
/-- STS (R173). -/
def execSts (la : BitVec 4) (v i : BitVec 7) (k : BitVec 4) (z : BitVec 2) (s : State) : Out :=
  let w : AccWord := { kind := .store, v := v.toNat, size := sizeOf z, vi := some i.toNat }
  spadWord s la w k false (fun q => noRef s q w.regs)
/-- ATOMS (R174). -/
def execAtoms (la : BitVec 4) (v : BitVec 7) (h : BitVec 2) (i : BitVec 5) (k : BitVec 4) (g : BitVec 2) (s : State) : Out :=
  let fn := (h ++ g).toNat
  spadWord s la { kind := .atomic fn, v := v.toNat, size := 4, vi := some i.toNat } k false (fun q => failTag s q cTag [v.toNat] (atomTagOk fn))
/-- CASS (R175). -/
def execCass (la : BitVec 4) (v i : BitVec 7) (k : BitVec 4) (z : BitVec 2) (s : State) : Out :=
  let w : AccWord := { kind := .cas, v := v.toNat, size := sizeOf z, vi := some i.toNat }
  spadWord s la w k false (fun q => noRef s q w.regs)
/-- LDSC (13 R266). -/
def execLdsc (la : BitVec 4) (v i : BitVec 7) (k : BitVec 4) (z : BitVec 2) (s : State) : Out :=
  spadWord s la { kind := .load, v := v.toNat, size := sizeOf z, vi := some i.toNat } k true (fun _ => .ok ())
/-- STSC (13 R266). -/
def execStsc (la : BitVec 4) (v i : BitVec 7) (k : BitVec 4) (z : BitVec 2) (s : State) : Out :=
  let w : AccWord := { kind := .store, v := v.toNat, size := sizeOf z, vi := some i.toNat }
  spadWord s la w k true (fun q => noRef s q w.regs)

/-- WAITS (R177): accesses issued after it do not extend the wait. -/
def execWaits (s : State) : Out :=
  let n := match s.me.wait with | .drain n => n | _ => s.lastOp + 1
  if s.mine.accs.all (fun a => decide (n ≤ a.id) || !a.atBanks || a.complete) then .next s.advance else .next (s.waitIn (.drain n))

/-! Global words. -/

/-- A global word: tags, then checks 4 to 7 of R186. -/
def globalWord (s : State) (la : BitVec 4) (w : AccWord) (k : BitVec 4) (ords : List Nat) (addrs : State → Addrs)
    (tags : Addrs → Except Stop Unit) (coal : State → Bool) : Out :=
  access s (fun s => do
    needScalars s [baseOf k, polOf k]
    let p := policyAt s k
    accWord s la w p addrs (fun q => do viTag s q w.vi; tags q; checkGlobal s q w.size p ords)
      (fun e => s.aperturePlace s.cur.team e w.size) false (coal s))

/-- e of LD and ST: the stride counts accesses (R185). -/
def stridedAddrs (k : BitVec 4) (size stride : Nat) (s : State) : Addrs :=
  { es := (s.mine.lanesOf s.me.mask).map (fun l => (l, s.sreg (baseOf k) + BitVec.ofNat 64 (l * size * stride))), one := false }

/-- The full groups of a word are coalesced (18 R323). -/
def coalesces (k : BitVec 4) (size stride : Nat) (s : State) : Bool :=
  !s.mine.lw && decide (stride = 1) && decide (4 ≤ size) && decide ((s.sreg (baseOf k)).toNat % 128 = 0)
  && (stridedAddrs k size stride s).es.all (fun p => !aperture p.2)

/-- e of the words with an offset register. -/
def gatherAddrs (k : BitVec 4) (vi : Nat) (s : State) : Addrs := offsetAddrs s (s.sreg (baseOf k)) vi

/-- LD (R187). -/
def execLd (la : BitVec 4) (v i : BitVec 7) (k : BitVec 4) (z : BitVec 2) (s : State) : Out :=
  globalWord s la { kind := .load, v := v.toNat, size := sizeOf z, vi := none } k [0, 1, 4] (stridedAddrs k (sizeOf z) i.toNat)
    (fun _ => .ok ()) (coalesces k (sizeOf z) i.toNat)
/-- ST (R187). -/
def execSt (la : BitVec 4) (v i : BitVec 7) (k : BitVec 4) (z : BitVec 2) (s : State) : Out :=
  let w : AccWord := { kind := .store, v := v.toNat, size := sizeOf z, vi := none }
  globalWord s la w k [0, 2, 4] (stridedAddrs k (sizeOf z) i.toNat) (fun q => noRef s q w.regs) (coalesces k (sizeOf z) i.toNat)
/-- LDG (R187). -/
def execLdg (la : BitVec 4) (v i : BitVec 7) (k : BitVec 4) (z : BitVec 2) (s : State) : Out :=
  globalWord s la { kind := .load, v := v.toNat, size := sizeOf z, vi := some i.toNat } k [0, 1, 4] (gatherAddrs k i.toNat) (fun _ => .ok ())
    (fun _ => false)
/-- STG (R187). -/
def execStg (la : BitVec 4) (v i : BitVec 7) (k : BitVec 4) (z : BitVec 2) (s : State) : Out :=
  let w : AccWord := { kind := .store, v := v.toNat, size := sizeOf z, vi := some i.toNat }
  globalWord s la w k [0, 2, 4] (gatherAddrs k i.toNat) (fun q => noRef s q w.regs) (fun _ => false)
/-- ATOM (R189). -/
def execAtom (la : BitVec 4) (v : BitVec 7) (h : BitVec 2) (i : BitVec 5) (k : BitVec 4) (g : BitVec 2) (s : State) : Out :=
  let fn := (h ++ g).toNat
  let w : AccWord := { kind := .atomic fn, v := v.toNat, size := if 10 ≤ fn then 8 else 4, vi := some i.toNat }
  globalWord s la w k [0, 1, 2, 3, 4] (gatherAddrs k i.toNat) (fun q => do noRef s q w.regs; failTag s q cTag w.regs (atomTagOk fn))
    (fun _ => false)
/-- CAS (R189). -/
def execCas (la : BitVec 4) (v i : BitVec 7) (k : BitVec 4) (z : BitVec 2) (s : State) : Out :=
  let w : AccWord := { kind := .cas, v := v.toNat, size := sizeOf z, vi := some i.toNat }
  globalWord s la w k [0, 1, 2, 3, 4] (gatherAddrs k i.toNat) (fun q => noRef s q w.regs) (fun _ => false)

/-- FENCE (R192): as an acquire it lets the core's clean lines go at CLUSTER scope or wider (18 R317, R321). -/
def execFence (f : BitVec 4) (s : State) : Out :=
  let n := match s.me.wait with | .fence n => n | _ => s.lastOp + 1
  if s.mine.accs.all (fun a => decide (n ≤ a.id) || decide (a.strm ≠ s.cur.strm) || a.performed) then
    let s1 := if 2 ≤ f.toNat then s.dropL1 s.mine.core else s
    .next s1.advance
  else .next (s.waitIn (.fence n))

/-- The lines that PREF brings in: lanes it can translate, without a fault (R190). -/
def State.prefetch (s : State) (t : Nat) (l1 : Bool) (p : W32) : List W64 → State
  | [] => s
  | e :: rest =>
    let s1 :=
      if aperture e || !canonical e then s
      else match s.resolve t e { r := true, w := false } with
        | .fail _ => s
        | .ok pa s1 =>
          let s2 := s1.fillLinear pa (evictionClass p e)
          if l1 then (s2.readL1 (s2.team t).core (pa / 128 * 128) 1 (evictionClass p e)).st else s2
    State.prefetch s1 t l1 p rest

/-- PREF (R190): checks 1, 2 and 4 only. -/
def execPref (_ : BitVec 4) (v i : BitVec 7) (k : BitVec 4) (s : State) : Out := finish s do
  needScalars s [baseOf k, polOf k]
  beginVec s [i.toNat] []
  let q := gatherAddrs k i.toNat s
  let p := policyAt s k
  viTag s q (some i.toNat)
  failAt s q cPolicy 0 (fun _ _ => !policyOk p [0])
  let s1 := s.prefetch s.cur.team (decide (v = 1)) p (q.es.map Prod.snd)
  .ok s1.advance

/-! Frame words (20 R368 to R370). -/

/-- e of a frame word: the body begins 64 bytes after the header. -/
def frameAddrs (e : BitVec 3) (vi : Nat) (s : State) : Addrs :=
  { es := (s.mine.lanesOf s.me.mask).map (fun l => (l, SMap.get 0 s.mine.displays e.toNat + 64 + zx64 (s.mine.field vi l))), one := false }

/-- Checks 2 and 3 of R369. -/
def frameLevel (s : State) (q : Addrs) (e : BitVec 3) (vi : Nat) : Except Stop Unit := do
  failAt s q cUnlinked e.toNat (fun _ _ => decide (s.mine.level < e.toNat))
  viTag s q (some vi)

/-- A frame word: the checks of R369 in their order. Its accesses are plain, an ATOML is marked at SCOPE PACKAGE (R370). -/
def frameWord (s : State) (la : BitVec 4) (w : AccWord) (e : BitVec 3) (tags : Addrs → Except Stop Unit) : Out :=
  access s (fun s =>
    let vi := w.vi.getD 0
    let fs := SMap.get 0 s.mine.frameSizes e.toNat
    let off (l : Nat) : Nat := (s.mine.field vi l).toNat
    accWord s la w (match w.kind with | .atomic _ => 0x4000 | _ => 0) (frameAddrs e vi) (fun q => do
        frameLevel s q e vi
        tags q
        failAt s q cMisaligned 0 (fun l _ => decide (off l % w.size ≠ 0))
        failAt s q cAccess 0 (fun l _ => decide (fs < off l + w.size))) (fun _ => none) false false)

/-- LDL (R370). -/
def execLdl (la : BitVec 4) (v i : BitVec 7) (e : BitVec 3) (z : BitVec 2) (s : State) : Out :=
  frameWord s la { kind := .load, v := v.toNat, size := sizeOf z, vi := some i.toNat } e (fun _ => .ok ())
/-- STL (R370). -/
def execStl (la : BitVec 4) (v i : BitVec 7) (e : BitVec 3) (z : BitVec 2) (s : State) : Out :=
  let w : AccWord := { kind := .store, v := v.toNat, size := sizeOf z, vi := some i.toNat }
  frameWord s la w e (fun q => noRef s q w.regs)
/-- ATOML (R370). -/
def execAtoml (la : BitVec 4) (v : BitVec 7) (h : BitVec 2) (i : BitVec 5) (e : BitVec 3) (g : BitVec 2) (s : State) : Out :=
  let fn := (h ++ g).toNat
  frameWord s la { kind := .atomic fn, v := v.toNat, size := 4, vi := some i.toNat } e (fun q => failTag s q cTag [v.toNat] (atomTagOk fn))

/-- LEAL (R370): the address in a register pair; nothing is read. -/
def execLeal (_ : BitVec 4) (v i : BitVec 7) (e : BitVec 3) (s : State) : Out := finish s do
  beginVec s [i.toNat] [v.toNat, v.toNat + 1]
  let q := frameAddrs e i.toNat s
  frameLevel s q e i.toNat
  let T := s.mine
  let m := s.me.mask
  let T1 := T.putVec v.toNat m (fun _ => tRaw) (q.es.map (fun p => (p.1, lo32 p.2)))
  let T2 := T1.putVec (v.toNat + 1) m (fun _ => tRaw) (q.es.map (fun p => (p.1, hi32 p.2)))
  .ok ((s.onMine (fun _ => T2)).advance)

end Sys2Proof.Machine
end

