-- ==== Sys2Proof/Machine/Publication.lean ====
section
/-! DEFINITION. References, objects and publication (19 R339 to R362). -/

namespace Sys2Proof.Machine

/-! LDREF and STREF (R350, R352 to R354). -/

/-- The groups in which a register pair holds REF (04 R84). -/
def Team.refGroups (T : Team) (v : Nat) (m : Mask) : List Nat :=
  (T.groupsOf m).filter (fun g => decide (T.vtag v g = tRef) && decide (T.vtag (v + 1) g = tRef))

/-- Whether an address lies in the team's own window, through the aperture (R349). -/
def Team.ownWindow (T : Team) (e : W64) : Bool := aperture e && (decide (addrRank e = 15) || decide (addrRank e = T.crank))

/-- The check of R349: a reference to a private line goes only to a private line or to the window of the same team. -/
def checkEscape (s : State) (q : Addrs) (r : Nat → W64) : Except Stop Unit :=
  let T := s.mine
  match failAt s q cEscape 0 (fun l e => T.privateLine (r l) && !T.ownWindow e && (aperture e || !T.privateLine e)) with
  | .error (.trap t) => .error (.trap { t with detail := 1 })
  | x => x

/-- A reference word: the checks of R186 as R352 changes them, the escape check of a store, the comparators, the issue. -/
def refWord (s : State) (la : BitVec 4) (store : Bool) (k : BitVec 4) (scalars : List (BitVec 6)) (srcs dsts : List Nat)
    (addrs : State → Addrs) (tags : State → Addrs → Except Stop Unit) (data : State → Nat → W64) (dest : State → Dest) : Out :=
  access s (fun s => do
    needScalars s ([baseOf k, polOf k] ++ scalars)
    beginVec s srcs dsts
    let p := policyAt s k
    let q := addrs s
    tags s q
    checkGlobal s q 8 p (if store then [0, 2, 4] else [0, 1, 4])
    if store then checkEscape s q (data s)
    let fires ← watchData s q (!store) store false 8
    let kind : AccKind := if store then .storeRef else .loadRef
    let lane (x : Nat × W64) : LaneAcc :=
      laneAt s srcs (fun e => s.aperturePlace s.cur.team e 8) x.1 x.2 (if store then data s x.1 else 0) 0
    .ok (s.issue la srcs fires { accessOf kind 8 p (dest s) (q.es.map lane) with once := true, one := q.one }))

/-- The one address of a scalar form (R352). -/
def scalarAddr (k : BitVec 4) (i : BitVec 7) (s : State) : Addrs :=
  { es := [(s.mine.lowest s.me.mask, s.sreg (baseOf k) + BitVec.ofNat 64 (8 * i.toNat))], one := true }

/-- A pair's 64 bits in a lane. -/
def pairAt (v : BitVec 7) (s : State) (l : Nat) : W64 := pair64 (s.mine.vr v.toNat l) (s.mine.vr (v.toNat + 1) l)

/-- LDREF (R353). -/
def execLdref (la : BitVec 4) (v i : BitVec 7) (k : BitVec 4) (s : State) : Out :=
  refWord s la false k [] [i.toNat] [v.toNat, v.toNat + 1] (gatherAddrs k i.toNat) (fun s q => viTag s q (some i.toNat)) (fun _ _ => 0)
    (fun s => .refPair v.toNat (s.mine.refGroups v.toNat s.me.mask))
/-- LDREF.S (R353). -/
def execLdrefS (la : BitVec 4) (v : BitVec 6) (i : BitVec 7) (k : BitVec 4) (s : State) : Out :=
  refWord s la false k [v] [] [] (scalarAddr k i) (fun _ _ => .ok ()) (fun _ _ => 0) (fun _ => .scalar v.toNat)
/-- STREF (R349, R353). -/
def execStref (la : BitVec 4) (v i : BitVec 7) (k : BitVec 4) (s : State) : Out :=
  refWord s la true k [] [i.toNat, v.toNat, v.toNat + 1] [] (gatherAddrs k i.toNat)
    (fun s q => do viTag s q (some i.toNat); failTag s q cRefTag [v.toNat, v.toNat + 1] (fun t => decide (t = tRef)))
    (pairAt v) (fun _ => .nowhere)
/-- STREF.S (R349, R353). -/
def execStrefS (la : BitVec 4) (v : BitVec 6) (i : BitVec 7) (k : BitVec 4) (s : State) : Out :=
  refWord s la true k [v] [] [] (scalarAddr k i) (fun s q => failAt s q cRefTag 0 (fun _ _ => !s.myStream.sref v))
    (fun s _ => s.sreg v) (fun _ => .nowhere)

/-! OBJNEW (R351). -/

/-- The size of an object with a body of n bytes. -/
def objectBytes (n : Nat) : Nat := 128 * ceilDiv (16 + n) 128

/-- The lines of a run of a span, as bits of its private map. -/
def spanBits (base x : W64) (size : Nat) : BitVec 2048 :=
  BitVec.ofNat 2048 ((2 ^ (size / 128) - 1) * 2 ^ ((x.toNat - base.toNat) / 128))

/-- Moves the cursor of the current span past an object, whose lines become private. -/
def Team.bump (T : Team) (spans : List Span) (cur x : W64) (size : Nat) : Team :=
  { T with
    current := some cur
    spans := spans.map (fun (p : Span) => if p.base = cur then
      { p with next := x + BitVec.ofNat 64 size, priv := p.priv ||| spanBits p.base x size } else p) }

/-- Draws a span of the arena for a table with a free entry; a current entry with no private line counts as free. -/
def State.drawSpan (s : State) (size : Nat) : Option (W64 × State) :=
  let T := s.mine
  let f := SMap.get 0 T.displays T.level
  let kept := T.spans.filter (fun p => decide (p.priv ≠ 0))
  let base := s.frameWord T.ctx f 4
  if 16 ≤ kept.length ∨ s.frameWord T.ctx f 3 = 0 ∨ (s.frameWord T.ctx f 5).toNat < base.toNat + spanBytes then none
  else
    let s1 := s.setFrameWord T.ctx f 4 (base + BitVec.ofNat 64 spanBytes)
    some (base, s1.onMine (fun T => T.bump (kept ++ [{ base := base, next := base, priv := 0 }]) base base size))

/-- Where the next object of a size goes: the current span, or a newly drawn one, or nowhere. -/
def State.allocate (s : State) (size : Nat) : Option (W64 × State) :=
  match s.mine.spans.find? (fun p => decide (some p.base = s.mine.current)) with
  | some p =>
    if p.next.toNat + size ≤ p.base.toNat + spanBytes then some (p.next, s.onMine (fun T => T.bump T.spans p.base p.next size))
    else s.drawSpan size
  | none => s.drawSpan size

/-- The lines of a run leave a core's L1D: it reads them from their homes. -/
def State.forget (s : State) (core : Nat) (p : Spot) : State :=
  match p with
  | .window _ _ => s
  | .mem parts => s.onCore core (fun k => { k with l1d := k.l1d.filter (fun e => !runsMeet [(128 * e.1, 128)] parts) })

/-- OBJNEW (R351): the writes are performed before the word completes. -/
def execObjnew (_ : BitVec 4) (d a : BitVec 6) (s : State) : Out := finish s do
  needScalars s [d, a]
  let n := (s.sreg a).toNat
  let size := objectBytes n
  match (if n = 0 ∨ 262128 < n then none else s.allocate size) with
  | none => .ok ((s.putSreg d 0).advance)
  | some (x, s1) => do
    let (p, s2) ← spotHere s1 x size { r := false, w := true }
    let hdr := bytesOfNat 8 size ++ bytesOfNat 8 s.mine.stamp.toNat
    let s3 := (s2.putSpot p (hdr ++ List.replicate (size - 16) 0)).forget s.mine.core p
    .ok ((s3.onMyStream (fun m => m.setSreg d x true)).advance)

/-- OBJINFO (R355): the header where a private line of the team is, or at its home slice. -/
def execObjinfo (_ : BitVec 4) (d a : BitVec 6) (s : State) : Out := finish s do
  needScalars s [d, a]
  let x := s.sreg a
  require (s.myStream.sref a) (strandTrap s cRefTag 0)
  require (decide (x.toNat % 128 = 0)) (strandTrap s cMisaligned x)
  require (canonical x && !aperture x) (strandTrap s cAccess x)
  let (p, s1) ← spotHere s x 16 { r := true, w := false }
  match p with
  | .mem ((pa, _) :: _) =>
    let g := if s.mine.privateLine x then s1.readL1 s.mine.core pa 16 1 else s1.readHome pa 16 1
    let w : W64 := BitVec.ofNat 64 g.val
    let mine := decide (g.val / 2 ^ 64 = s.mine.stamp.toNat)
    .ok ((g.st.putSreg d (BitVec.ofNat 64 (hdrState w * 2 ^ 62 + bit1 mine * 2 ^ 61 + hdrSize w))).advance)
  | _ => .ok s

/-! The walk (R356 to R358). -/

/-- Why a walk ended early. -/
def walkFault (d : Nat) (x : W64) : UnitFault := faultOf cWalker d x

/-- The tagged words of a run in memory, in rising order of address. -/
def State.taggedWords (s : State) (parts : List (Nat × Nat)) : List W64 :=
  parts.flatMap (fun q => ((List.range (q.2 / 8)).filter (fun i => SMap.has s.memTags (q.1 / 8 + i))).map (fun i => s.mem64 (q.1 + 8 * i)))

/-- Writes STATE of a header. -/
def State.setObjState (s : State) (pa st : Nat) : State :=
  let w := s.mem64 pa
  s.storeNat pa 8 (st * 2 ^ 62 + w.toNat % 2 ^ 62)

/-- What the trace phase gives: the objects set to WALK, in order, with the places of their headers, its list, and perhaps a fault. -/
structure Trace where
  st    : State
  objs  : List (W64 × Nat)
  list  : List W64
  fault : Option UnitFault

/-- Phase 1 (R356). A list holds at most 524,289 entries (R358). A header that is read is not written unless its object is private. -/
def State.trace (t : Nat) : Nat → State → List W64 → List (W64 × Nat) → List W64 → Trace
  | 0, s, _, objs, list => { st := s, objs := objs, list := list, fault := none }
  | _, s, [], objs, list => { st := s, objs := objs, list := list, fault := none }
  | fuel + 1, s, x :: rest, objs, list =>
    let stop (f : UnitFault) : Trace := { st := s, objs := objs, list := list, fault := some f }
    if x.toNat % 128 ≠ 0 ∨ !canonical x ∨ aperture x then stop (walkFault 3 x)
    else match s.resolve t x { r := true, w := false } with
      | .fail _ => stop (walkFault 2 x)
      | .ok pa s1 =>
        if s1.poisoned pa 16 then stop (walkFault 1 x)
        else
          let h := s1.mem64 pa
          if hdrState h = 1 ∨ hdrState h = 2 then State.trace t fuel s1 rest objs list
          else if hdrState h = 3 ∨ !hdrSizeOk h then stop (walkFault 3 x)
          else if s1.mem64 (pa + 8) ≠ (s.team t).stamp then stop (faultOf cEscape 2 x)
          else match s1.resolve t x { r := true, w := true } with
            | .fail _ => stop (walkFault 2 x)
            | .ok _ s2 => match s2.spotParts t { r := true, w := false } [] (pageParts 66 x (hdrSize h)) with
              | .fail _ _ => stop (walkFault 2 x)
              | .ok (.mem parts) s3 =>
                if (s3.spotPoison (.mem parts)).isSome then stop (walkFault 1 x)
                else
                  let body := match parts with
                    | (p, n) :: more => (p + 16, n - 16) :: more
                    | [] => []
                  let found := s3.taggedWords body
                  State.trace t fuel (s3.setObjState pa 1) (rest ++ found) (objs ++ [(x, pa)]) (list ++ found)
              | .ok _ s3 => State.trace t fuel s3 rest objs list

/-- Bytes of a die's walk area (R358). -/
def walkAreaBytes : Nat := 4 * 2 ^ 20 + 4096

/-- The walker keeps its list in the context's walk area, eight bytes an entry (R358; log 34). -/
def State.keepList (s : State) (ctx die : Nat) (list : List W64) : State :=
  ((List.range list.length).zip list).foldl (fun s p =>
    let va := va48 ((s.ctx ctx).walkVa + BitVec.ofNat 64 (walkAreaBytes * die + 8 * p.1))
    match s.walk ctx va with
    | some l => s.storeNat (l.pa va) 8 p.2.toNat
    | none => s) s

/-- Phase 1 of a walk from a root, with its list kept. -/
def State.traced (s : State) (die t : Nat) (x : W64) : Trace :=
  let r := State.trace t (2 ^ 20) s [x] [] [x]
  { r with st := r.st.keepList (s.team t).ctx die r.list }

/-- Clears the lines of an object in a span table; an entry that is not current and has no private line is freed (R343). -/
def Team.published (T : Team) (x : W64) (size : Nat) : Team :=
  let clear (p : Span) : Span :=
    if p.base.toNat / spanBytes = x.toNat / spanBytes then { p with priv := p.priv &&& ~~~(spanBits p.base x size) } else p
  let keep (p : Span) : Bool := decide (p.priv ≠ 0) || decide (some p.base = T.current)
  { T with spans := (T.spans.map clear).filter keep }

/-- Phase 2: every header that can be written becomes PUBLISHED; the first that cannot is reported (R356; log 34). -/
def State.mark (s : State) (t : Nat) (objs : List (W64 × Nat)) : State × Option W64 :=
  objs.foldl (fun acc o =>
    if acc.1.poisoned o.2 8 then (acc.1, some (acc.2.getD o.1))
    else ((acc.1.setObjState o.2 2).onTeam t (fun T => T.published o.1 (hdrSize (acc.1.mem64 o.2))), acc.2)) (s, none)

/-- PUBLISH (R356): the checks at issue; the word is counted in PUB. -/
def execPublish (la : BitVec 4) (a : BitVec 6) (s : State) : Out := finish s do
  needScalars s [a, a + 1]
  let m := s.sreg (a + 1)
  require (s.myStream.sref a) (strandTrap s cRefTag 0)
  require (decide (m.toNat % 8 = 0)) (strandTrap s cMisaligned m)
  require (decide (m = 0) || (canonical m && !aperture m)) (strandTrap s cAccess m)
  .ok (s.post la 3 (.publish (s.sreg a) m))

/-- The slot store of a walk that found no fault (R356). -/
def State.storeSlot (s : State) (t : Nat) (m x0 : W64) : State × Option UnitFault :=
  if m = 0 then (s, none)
  else match s.resolve t m { r := false, w := true } with
    | .fail d => (s, some (faultOf cPage d m))
    | .ok pa s1 =>
      let s2 := s1.storeNat pa 8 x0.toNat
      (({ s2 with memTags := SMap.flag s2.memTags (pa / 8) true }).fillLinear pa 1, none)

end Sys2Proof.Machine
end

