-- ==== Sys2Proof/Machine/Tasks.lean ====
section
/-! DEFINITION. Jobs, tasks and deques (17 R303 to R309). -/

namespace Sys2Proof.Machine

/-! Job records (Table 17-3): COUNT is word 0, OWNER word 1, KILLED word 2. -/

/-- JOBNEW (R303): the core sees its own write (18 R317). -/
def execJobnew (_ : BitVec 4) (d a : BitVec 6) (s : State) : Out := finish s do
  needScalars s [d, a]
  let e := s.sreg a
  checkRun s e 64 64
  let (p, s1) ← spotHere s e 64 { r := false, w := true }
  let bs := bytesOfNat 8 0 ++ bytesOfNat 8 (s.grid s.mine.grid).id.toNat ++ List.replicate 48 0
  let s2 := match p.place with
    | (.global, pa) => (s1.putSpot p bs).refreshL1 s.mine.core pa 64
    | _ => s1.putSpot p bs
  .ok ((s2.putSreg d e).advance)

/-- Whether the place of a record still stands. -/
def State.placeStands (s : State) (at_ : Space) : Bool :=
  match at_ with
  | .window u _ => (s.team u).live
  | .global => true

/-- Changes a word of a job record at its home slice, for a core. -/
def State.jobWord (s : State) (core : Nat) (at_ : Space) (pa i : Nat) (f : Nat → Nat) : State :=
  if s.placeStands at_ then s.setRingWord core at_ pa i (f (s.ringWord at_ pa i)) else s

/-- JOBWAIT at the place of its record (R306). -/
def jobPoll (s : State) (at_ : Space) (pa : Nat) (d : BitVec 6) : Except Stop State := do
  require (decide (at_ ≠ .global) || !s.poisoned pa 64) (strandTrap s cMachine (BitVec.ofNat 64 pa))
  if s.ringWord at_ pa 0 = 0 then .ok (((s.dropL1 s.mine.core).putSreg d (BitVec.ofNat 64 (s.ringWord at_ pa 2))).advance)
  else .ok (s.waitIn (.job at_ pa))

/-- An enqueue of a stream that has issued and has not yet counted itself in its job (24 R415). -/
def Team.enqueuing (T : Team) (x : StreamId) : Bool :=
  T.engs.any (fun e => decide (e.strm = x) && decide (e.stage = .issued) && (match e.kind with | .fabric 3 _ _ _ _ _ => true | _ => false))

/-- JOBWAIT (R306): the record is translated once, before the wait (09 R212). -/
def execJobwait (_ : BitVec 4) (d a : BitVec 6) (s : State) : Out := finish s do
  match s.me.wait with
  | .job at_ pa => jobPoll s at_ pa d
  | _ =>
    needScalars s [d, a]
    require (!s.mine.enqueuing s.cur.strm) .stall
    let e := s.sreg a
    checkRun s e 64 64
    let (p, s1) ← spotHere s e 64 { r := true, w := false }
    jobPoll s1 p.place.1 p.place.2 d

/-! Deques (R304). -/

/-- A deque of a core: the entries of one context, oldest first. -/
def State.dequeOf (s : State) (core ctx : Nat) : List Task := (s.core core).deque.filter (fun t => (s.grid t.grid).ctx == ctx)
def State.dequeFree (s : State) (core ctx : Nat) : Nat := Config.dequeEntries - (s.dequeOf core ctx).length

/-- The deques of a context on a die: one for each core with a bank of the context. -/
def State.dequeCores (s : State) (die ctx : Nat) : List Nat :=
  ((List.range 24).map (fun i => 24 * die + i)).filter (fun c => (s.core c).active.ctx == some ctx || (s.core c).shadow.ctx == some ctx)

/-- The deque that a new task goes to: its core's, else the die's with the most free entries. -/
def State.pushTo (s : State) (core ctx : Nat) : Option Nat :=
  if 0 < s.dequeFree core ctx then some core
  else
    let cs := s.dequeCores (dieOf core) ctx
    let most := cs.foldl (fun m c => max m (s.dequeFree c ctx)) 0
    if most = 0 then none else cs.find? (fun c => s.dequeFree c ctx == most)

/-- A task enters a deque at its young end. -/
def State.push (s : State) (core g : Nat) : State :=
  s.onCore core (fun k => { k with deque := k.deque ++ [{ grid := g, bypass := 0 }] })

/-- The push of a SPAWN, or its wait. -/
def spawnPush (s : State) (g : Nat) (d : BitVec 6) : State :=
  match s.pushTo s.mine.core s.mine.ctx with
  | some c => ((s.push c g).putSreg d (s.grid g).id).advance
  | none => s.waitIn (.push g)

/-- SPAWN (R304): its RELEASE stands before its reads (log 20). -/
def execSpawn (_ : BitVec 4) (d a : BitVec 6) (s : State) : Out := finish s do
  match s.me.wait with
  | .push g => .ok (spawnPush s g d)
  | _ =>
    needScalars s [d, a, a + 1]
    require (decide ((s.sreg a).toNat % 64 = 0)) (strandTrap s cMisaligned (s.sreg a))
    checkRun s (s.sreg (a + 1)) 64 64
    afterRelease s (fun s => do
      let e := s.sreg a
      let (L, K, s1) ← readLaunch s e true
      let (p, s2) ← spotHere s1 (s.sreg (a + 1)) 64 { r := true, w := true }
      match s2.launchFrom L K true (some p.place) with
      | none => .error (launchTrap s 4 e)
      | some (g, s3) => .ok (spawnPush (s3.jobWord s.mine.core p.place.1 p.place.2 0 (· + 1)) g d))

/-! Dispatch and stealing (R307 to R309). -/

/-- The context whose deque a core's dispatcher serves: its active bank's, or for an empty bank that of its oldest task. -/
def State.dispatchCtx (s : State) (core : Nat) : Option Nat :=
  let k := s.core core
  let own : Option Nat := match k.active.ctx with
    | some c => if !k.active.slots.isEmpty || !(s.dequeOf core c).isEmpty then some c else none
    | none => none
  match own with
  | some c => some c
  | none => match k.deque with
    | t :: _ => some (s.grid t.grid).ctx
    | [] => none

/-- Whether the residency tile of a task hits (09 R191). -/
def State.residencyHit (s : State) (g : Nat) : Bool :=
  let G := s.grid g
  let v := G.launch.rtile
  decide (v ≠ 0) && decide (fld v 12 4 = 0)
  && s.l2.any (fun l => l.tile == some (G.ctx, (fld v 0 12).toNat, (fld v 16 24).toNat, (fld v 40 24).toNat))

/-- Whether a task fits on a core. -/
def State.taskFits (s : State) (core : Nat) (t : Task) : Bool := s.fitsOn (s.grid t.grid).ctx (s.grid t.grid).kernel core

/-- The task a dispatcher chooses (R307): a due one, which it waits for; else the oldest that fits and hits; else the oldest that fits. -/
def State.choose (s : State) (core ctx : Nat) : Option Task :=
  let es := (s.dequeOf core ctx).take 16
  match es.find? (fun t => decide ((s.ctx ctx).bypass ≤ t.bypass)) with
  | some t => if s.taskFits core t then some t else none
  | none =>
    let fit := es.filter (s.taskFits core)
    match fit.find? (fun t => s.residencyHit t.grid) with
    | some t => some t
    | none => fit.head?

/-- Takes a task out of a deque; the older entries of its context have been passed over once more. -/
def takeTask (older : Task → Bool) (g : Nat) : List Task → List Task
  | [] => []
  | t :: rest =>
    if t.grid = g then rest
    else (if older t then { t with bypass := t.bypass + 1 } else t) :: takeTask older g rest

/-- TASK_DISPATCH (R307). -/
def execTaskDispatch (core : Nat) (place : Place) (s : State) : Out :=
  match s.dispatchCtx core with
  | none => .next s
  | some ctx =>
    match s.choose core ctx with
    | none => .next s
    | some t =>
      let G := s.grid t.grid
      if place.core = core ∧ s.fitsAt ctx G.kernel place then
        match s.startTeam t.grid 0 0 [s.lastTeam + 1] place with
        | none => .next s
        | some s1 =>
          .next ((s1.onGrid t.grid (fun G => { G with placed := 1, handed := true })).onCore core (fun k =>
            { k with deque := takeTask (fun x => (s.grid x.grid).ctx == ctx) t.grid k.deque }))
      else .next s

/-- The mesh distance of two cores of a die. -/
def meshDistance (a b : Nat) : Nat :=
  let col (c : Nat) : Nat := c % 6
  let row (c : Nat) : Nat := c % 24 / 6
  (col a - col b) + (col b - col a) + ((row a - row b) + (row b - row a))

/-- A victim's standing for a thief: the quad's cores first, then by distance, then by number (R308). -/
def stealKey (core victim : Nat) : Nat :=
  (if quadOf core = quadOf victim then 0 else 1000 * (meshDistance core victim + 1)) + victim % 24

/-- TASK_STEAL (R308, R309): the first victim with a task that fits gives its oldest such entry, which enters the thief's deque at its old
end with its bypass count (log 21). The last entry of a deque goes to its owner's dispatcher if that can take it. -/
def execTaskSteal (core victim : Nat) (s : State) : Out :=
  match (s.core core).active.ctx with
  | none => .next s
  | some ctx =>
    let able (v : Nat) : Bool := (s.dequeOf v ctx).any (s.taskFits core)
    let others := ((List.range 24).map (fun i => 24 * dieOf core + i)).filter (fun v => v ≠ core)
    if core < 192 ∧ victim < 192 ∧ victim ≠ core ∧ dieOf victim = dieOf core ∧ !able core ∧ able victim
       ∧ others.all (fun v => !able v || decide (stealKey core victim ≤ stealKey core v)) ∧ 0 < s.dequeFree core ctx then
      match (s.dequeOf victim ctx).find? (s.taskFits core) with
      | none => .next s
      | some t =>
        -- the owner's dispatcher takes the last entry where it can (log 21)
        if (s.dequeOf victim ctx).length = 1 ∧ s.dispatchCtx victim = some ctx ∧ s.choose victim ctx = some t then .next s
        else .next ((s.onCore victim (fun k => { k with deque := k.deque.filter (fun x => x.grid ≠ t.grid) })).onCore core
          (fun k => { k with deque := t :: k.deque }))
    else .next s

/-- The effects of a task's end: the frame's rule, the team's names (R305). -/
def State.endTask (s : State) (t : Nat) : State :=
  let g := (s.team t).grid
  ((s.dropTeam t).dropGrid g)

/-- The job counts of a task that has ended on a core: KILLED before COUNT (R305). -/
def State.jobEnds (s : State) (core : Nat) (job : Option (Space × Nat)) (killed : Bool) : State :=
  match job with
  | none => s
  | some (at_, pa) =>
    let s1 := if killed then s.jobWord core at_ pa 2 (· + 1) else s
    s1.jobWord core at_ pa 0 (· - 1)

/-- TASK_RETIRE (R305): the task's team and its operations have retired. The completion of a task of another package's RENQ leaves with
the fabric; one of this package's comes back as REMOTE_TASK_COMPLETION (24 R415). -/
def execTaskRetire (team : Nat) (s : State) : Out :=
  let T := s.team team
  let G := s.grid T.grid
  if T.live && T.retiring && T.accs.isEmpty && T.engs.isEmpty && T.deferred.isEmpty && G.live && G.task then
    let killed := G.killed || T.killed
    let s1 := (s.freeEngines team).jobEnds T.core G.job killed
    let s2 := if G.remote.isSome then
        { s1 with remotes := s1.remotes.map (fun (r : RemoteTask) => if r.grid = some T.grid then { r with ended := some killed } else r) }
      else s1
    .next (s2.endTask team)
  else .next s

end Sys2Proof.Machine
end

