-- ==== Sys2Proof/Machine/TrapService.lean ====
section
/-! DEFINITION. Deferred traps, held records, and Farder's resume service (11 R216, R217, R223, R225; 19 R362). -/

namespace Sys2Proof.Machine

/-! Records of a strand (R217). -/

def TrapRec.of (q : TrapRec) (r : StrandRef) : Bool := q.team == r.team && decide (q.strm = r.strm) && q.sid == r.sid

/-- The strand that a record stopped. -/
def TrapRec.strand (q : TrapRec) : StrandRef := { team := q.team, strm := q.strm, sid := q.sid }

/-- The records of a strand that no action has been taken on, written or still held. -/
def State.openRecs (s : State) (ctx : Nat) (r : StrandRef) : List TrapRec :=
  ((s.ctx ctx).recs ++ s.heldTraps).filter (fun q => q.of r && q.todo.isNone)

/-- The oldest record of a list. -/
def oldestRec : List TrapRec → Option TrapRec
  | [] => none
  | q :: rest => match oldestRec rest with
    | some m => some (if m.rank < q.rank then m else q)
    | none => some q

/-- Records that a test names are resolved. -/
def State.dropRecs (s : State) (ctx : Nat) (gone : TrapRec → Bool) : State :=
  { (s.onCtx ctx (fun c => { c with recs := c.recs.filter (fun q => !gone q) })) with
    heldTraps := s.heldTraps.filter (fun q => q.ctxid ≠ ctx || !gone q) }

/-! Deferred traps (R216, R217, 16 R288). -/

/-- The record of a deferred trap; for one that stops no strand the SID names the root (log 22). -/
def State.deferRec (s : State) (t : Nat) (d : DeferredTrap) (r : Option StrandRef) (spc : W64) : TrapRec :=
  let f := d.fault
  let ref := r.getD { team := t, strm := d.strm, sid := none }
  let q := s.recOf ref { cause := f.cause, detail := f.detail, code := f.code, mask := d.mask, addr := f.addr } d.pc spc
  if r.isSome then { q with defer := true } else { q with defer := true, team := 0 }

/-- Takes a deferred trap off its team's list. -/
def State.dropDeferred (s : State) (t : Nat) (d : DeferredTrap) : State :=
  s.onTeam t (fun T => { T with deferred := T.deferred.erase d })

/-- What becomes of a deferred trap now: nothing yet, or its record with the state in which it is posted. -/
def State.deferStep (s : State) (t : Nat) (d : DeferredTrap) : Option State :=
  match s.stoppedBy t d with
  | none => some ((s.dropDeferred t d).postAt (s.deferRec t d none 0) 0)
  | some r =>
    let x := s.strand r
    match x.st with
    | .parked =>
      let spc := match oldestRec (s.openRecs (s.team t).ctx r) with | some q => q.spc | none => x.pc
      some ((s.dropDeferred t d).postAt (s.deferRec t d (some r) spc) 0)
    | .waiting =>
      let spc := match oldestRec (s.openRecs (s.team t).ctx r) with | some q => q.spc | none => x.jpc + 4
      some ((s.dropDeferred t d).postAt (s.deferRec t d (some r) spc) 0)
    | .running =>
      if s.untranslated r || decide ((s.team t).held ≠ .active) || !x.early.isEmpty then none
      else some (((s.dropDeferred t d).onStrand r (fun x => { x with st := .parked, checked := 0 })).postAt
        (s.deferRec t d (some r) x.pc) 0)
    | _ => none

/-- A team's deferred traps, the C-stream's first: traps that one core can take at one time take their numbers in that order, and then by
team slot (R217, R221). -/
def Team.deferOrder (T : Team) : List DeferredTrap :=
  T.deferred.filter (fun d => decide (d.strm = .c)) ++ T.deferred.filter (fun d => decide (d.strm = .a))

/-- The first of some deferred traps of a team that its strand can take now. -/
def State.firstDefer (s : State) (t : Nat) : List DeferredTrap → Option (DeferredTrap × State)
  | [] => none
  | d :: rest => match s.deferStep t d with | some s1 => some (d, s1) | none => s.firstDefer t rest

/-- Where a deferred trap of a team stands in the order of R221 on its core. -/
def State.deferRank (s : State) (t : Nat) : Option Nat :=
  (s.firstDefer t (s.team t).deferOrder).map (fun p => bit1 (decide (p.1.strm = .a)) * 64 + (s.team t).slot)

/-- DEFERRED_TRAP (R216): the first deferred trap of a team that its strand can take now, when no other team of its core comes first. -/
def execDeferredTrap (team : Nat) (s : State) : Out :=
  match s.firstDefer team (s.team team).deferOrder with
  | some (d, s1) =>
    let k := bit1 (decide (d.strm = .a)) * 64 + (s.team team).slot
    let others := ((s.core (s.team team).core).active.slots.map Prod.snd).filter (fun u => u ≠ team && !(s.team u).deferred.isEmpty)
    if others.all (fun u => match s.deferRank u with | some j => decide (k ≤ j) | none => true) then .next (s1.finishTeam team) else .next s
  | none => .next s

/-! Held records (R223). -/

/-- TRAP_QUEUE_DRAIN (R223): a held record of a context is written, the first of its core's that can be. Which core's goes first is open
(log 2). A record that now finds its queue full has Farder told of it, if that has not been done. -/
def execTrapQueueDrain (ctx : Nat) (s : State) : Out :=
  let first (q : TrapRec) : Bool := match s.heldTraps.find? (fun h => h.sameLine q) with | some h => h.rank == q.rank | none => false
  let ready := s.heldTraps.filter (fun q => q.ctxid == ctx && first q && s.recReady q)
  if ready.isEmpty then
    -- a record that would be written now but for a full queue: Farder is told once
    match s.heldTraps.find? (fun q => q.ctxid == ctx && first q && !q.told && !q.own && (s.team q.team).allPerformed q.strm q.before
        && !s.trapRoom (s.ctx ctx)) with
    | some q => .next { s with heldTraps := s.heldTraps.map (fun h => if h.rank = q.rank then { h with told := true } else h)
                               hub := { s.hub with fired := s.hub.fired ++ [s.clock] } }
    | none => .next s
  else
    let k := drawFrom s.nonce (ready.map (fun q => q.rank))
    match ready.find? (fun q => q.rank == k) with
    | some q => .next ((({ s with heldTraps := s.heldTraps.filter (fun h => h.rank ≠ k) }).writeRec q).drew 1)
    | none => .next s

/-! The resume service (R225). -/

/-- The permitted actions (Table 11-2); PUBLISH is offered for a STREF's escape (19 R362). -/
def permitted (q : TrapRec) (a : ResumeAct) : Bool :=
  match a with
  | .kill => decide (q.cause ≠ cSaveArea)
  | .killteam => decide (q.cause = cTrap) || decide (q.cause = cBkpt)
  | .resume => decide (q.cause ≠ cSaveArea) && decide (q.cause ≠ cMachine)
  | .skip => !([cFetch, cStep, cDivergence, cJoin, cBarrier, cPattern, cNonInv, cSaveArea, cMachine, cFabric, cWalker].contains q.cause)
  | .publish => decide (q.cause = cEscape) && decide (q.detail = 1) && !q.defer

/-- Fills with zero the entries that an access reserved for lanes (R225 SKIP). -/
def Team.zeroFill (T : Team) (op : Nat) (ls : List Nat) : Team :=
  ls.foldl (fun T l => (List.range 8).foldl (fun T q =>
    T.setQueue q l ((T.queue q l).map (fun e => if e.op = op ∧ e.val.isNone then { e with val := some 0, tag := T.qtag q } else e))) T) T

/-- The unfinished lanes of the access that a strand replays are given up; SKIP fills what they reserved. -/
def State.giveUp (s : State) (r : StrandRef) (fill : Bool) : State :=
  match (s.strand r).replay with
  | none => s
  | some op =>
    let s1 := s.onTeam r.team (fun T =>
      let ls := match T.acc? op with
        | some a => (a.lanes.filter (fun l => match l.st with | .unfinished _ => true | _ => false)).map (fun l => l.lane)
        | none => []
      let T1 := if fill then T.zeroFill op ls else T
      { T1 with accs := (T1.accs.map (fun a => if a.id = op then a.abandon else a)).filter (fun a => !a.complete) })
    s1.onStrand r (fun x => { x with replay := none })

/-- One change that Farder makes to the strand of a record (R225); p0 discards it, and a scalar loses its REF tag. -/
def State.edit (s : State) (r : StrandRef) (e : RegEdit) : State :=
  match e with
  | .scalar i v => s.onTeam r.team (fun T => T.setStream r.strm ((T.stream r.strm).setSreg i v false))
  | .vector v l w => s.onTeam r.team (fun T => if v.toNat < 120 ∧ l < T.lanes then T.setVr v.toNat l w else T)
  | .predicate p v => s.onTeam r.team (fun T => T.setPred p (firstLanes T.lanes) v)

/-- The changes that Farder makes to a strand before it resumes it (R225). -/
def State.makeEdits (s : State) (q : TrapRec) (o : ResumeOpts) : State := o.edits.foldl (fun s e => s.edit q.strand e) s

/-- RESUME directs a parked strand: it stands at SPC, a comparator that stopped it is suppressed once. -/
def State.direct (s : State) (q : TrapRec) (o : ResumeOpts) : State :=
  s.onStrand q.strand (fun x =>
    { x.resumeAt q.spc o with st := x.st, act := some .resume, supp := if q.cause = cCompare ∧ !q.defer then (q.code, q.pc) :: x.supp else x.supp })

/-- SKIP directs it: the word of a precise record has no effect when the strand reaches it. -/
def State.directSkip (s : State) (q : TrapRec) (o : ResumeOpts) : State :=
  if q.defer then s.direct q o
  else ((s.giveUp q.strand true).onStrand q.strand (fun x => { x.resumeAt q.spc o with st := x.st, act := some .skip, skipAt := some q.pc }))

/-- The strand goes on once its last record is resolved (R217). -/
def State.release1 (s : State) (ctx : Nat) (r : StrandRef) : State :=
  if (s.strand r).st = .parked ∧ (s.openRecs ctx r).isEmpty then
    s.onStrand r (fun x => { x with st := .running, readyAt := s.clock, act := none })
  else s

/-- RESUME or SKIP on a strand's oldest record: the first action directs, the last record's lets the strand go on. -/
def State.resumeRec (s : State) (q : TrapRec) (skip : Bool) (o : ResumeOpts) : State :=
  let r := q.strand
  let x := s.strand r
  let s1 := s.dropRecs q.ctxid (fun h => h.rank == q.rank)
  match x.st with
  | .waiting => if x.act.isNone then s1.onStrand r (fun x => { x with act := some .resume, step := o.step, freeze := o.freeze }) else s1
  | .parked =>
    let s2 := if x.act.isSome then s1 else if skip then s1.directSkip q o else s1.direct q o
    (s2.release1 q.ctxid r).accMoved r.team
  | _ => s1

/-- KILL: the strand executes END, or the fused parent does (R216, R225). Words it has issued complete; a team that a machine-check so
retires counts as killed (17 R305; 20 R377). -/
def State.killRec (s : State) (q : TrapRec) : State :=
  let r := q.strand
  let mc := decide (q.cause = cMachine)
  let s1 := s.dropRecs q.ctxid (fun h => h.of r)
  match (s.strand r).st with
  | .waiting => s1.onStrand r (fun x => { x with act := some .kill, mcheck := mc })
  | .parked =>
    let s2 := s1.giveUp r false
    let s3 := (s2.markKilled r.team mc).onTeam r.team (fun T =>
      { T with engs := T.engs.map (fun e => if decide (e.strm = r.strm) && e.sid == r.sid && decide (e.stage = .issued)
                 then { e with sid := some Config.splitRecords } else e) })
    let s4 := (s3.onStrand r (fun x => { x with st := .running, after := none, skipAt := none, supp := [], act := none, stepDue := false })).endStrandOf r
    let s5 := s4.unmarkKilled r.team (s.team r.team).killed
    if (s5.team r.team).live then s5.accMoved r.team else s5
  | _ => s1

/-- KILLTEAM, once no strand of the team is in a call of Farder (23 R391). -/
def State.killTeam (s : State) (q : TrapRec) : State :=
  let s1 := s.dropRecs q.ctxid (fun h => h.team == q.team)
  (s1.onTeam q.team (fun T => { T with killed := true })).retireTeam q.team

/-- The references that a parked STREF holds in its failing lanes (19 R362). -/
def State.strefRoots (s : State) (q : TrapRec) : List W64 :=
  let T := s.team q.team
  match s.fetch q.team q.pc with
  | .ok ws _ =>
    match decodeWord (ws.getD (q.pc.toNat % 12 / 4) 0) with
    | .ok (.stref _ v _ _) => ((T.lanesOf q.mask).map (fun l => pair64 (T.vr v.toNat l) (T.vr (v.toNat + 1) l))).eraseDups
    | .ok (.strefS _ v _ _) => [(T.stream q.strm).sreg v]
    | _ => []
  | _ => []

/-- RESUME with PUBLISH (19 R362): the walks join those of the die, in order of acceptance (R358). -/
def State.publishRec (s : State) (q : TrapRec) (o : ResumeOpts) : State :=
  let T := s.team q.team
  if T.engs.any (fun e => match e.kind with | .repub c k _ => c == q.ctxid && k == q.rank | _ => false) then s
  else
    let id := s.lastOp + 1
    let e : EngOp := { id := id, strm := q.strm, sid := q.sid, pc := q.pc, mask := q.mask, cls := 5, kind := .repub q.ctxid q.rank o,
                       stage := .accepted, since := s.clock, cats := [], fault := none, buffer := none }
    let s1 := (s.onTeam q.team (fun T => { T with engs := T.engs ++ [e] })).onCtx q.ctxid (fun c =>
      { c with recs := c.recs.map (fun h => if h.rank = q.rank then { h with todo := some (.publish, o) } else h) })
    { s1 with lastOp := id, walks := s1.walks ++ [(dieOf T.core, q.team, id)] }

/-- Whether a team has calls of Farder in progress. -/
def Team.inCall (T : Team) : Bool := !T.cs.calls.isEmpty || !T.as.calls.isEmpty

/-- An action takes effect; KILLTEAM waits for calls. -/
def State.takeAct (s : State) (q : TrapRec) (a : ResumeAct) (o : ResumeOpts) : State :=
  match a with
  | .resume => (s.makeEdits q o).resumeRec q false o
  | .skip => (s.makeEdits q o).resumeRec q true o
  | .publish => s.publishRec q o
  | .kill => s.killRec q
  | .killteam => s.killTeam q

/-- An action named on a record: none where the service refuses it. It waits where the team is switched out, or in a call (R225). -/
def State.service (s : State) (ctx seq : Nat) (a : ResumeAct) (o : ResumeOpts) : Option State :=
  match (s.ctx ctx).recs.find? (fun q => q.seq == seq && q.todo.isNone) with
  | none => none
  | some q =>
    let T := s.team q.team
    let x := s.strand q.strand
    let kills := decide (a = .kill) || decide (a = .killteam)
    if !permitted q a then none
    else if !T.live || T.retiring || !(decide (x.st = .parked) || decide (x.st = .waiting)) then
      some (s.dropRecs ctx (fun h => h.rank == q.rank))
    else if !kills && (match oldestRec (s.openRecs ctx q.strand) with | some h => h.rank ≠ q.rank | none => true) then none
    else if T.held ≠ .active ∨ (a = .killteam ∧ T.inCall) then
      some (s.onCtx ctx (fun c => { c with recs := c.recs.map (fun h => if h.rank = q.rank then { h with todo := some (a, o) } else h) }))
    else some (s.takeAct q a o)

/-- Actions that waited and need wait no longer take effect, in order of their records. -/
def State.pending (s : State) (ctx : Nat) : State :=
  ((s.ctx ctx).recs.filter (fun q => q.todo.isSome)).foldl (fun s q =>
    let T := s.team q.team
    match q.todo with
    | none => s
    | some (a, o) =>
      if !T.live || T.retiring then s.dropRecs ctx (fun h => h.rank == q.rank)
      else if T.held ≠ .active ∨ (a = .killteam ∧ T.inCall) then s
      else s.takeAct q a o) s

/-- RESUME (R225). -/
def execResume (ctx seq : Nat) (opts : ResumeOpts) (s : State) : Out := .next ((s.service ctx seq .resume opts).getD s)
/-- SKIP (R225). -/
def execSkip (ctx seq : Nat) (opts : ResumeOpts) (s : State) : Out := .next ((s.service ctx seq .skip opts).getD s)
/-- KILL (R225). -/
def execKill (ctx seq : Nat) (s : State) : Out := .next ((s.service ctx seq .kill { step := false, freeze := false }).getD s)
/-- KILLTEAM (R225). -/
def execKillteam (ctx seq : Nat) (s : State) : Out := .next ((s.service ctx seq .killteam { step := false, freeze := false }).getD s)
/-- The record that an action of Farder's names: one on which none has been taken. -/
def State.openRec (s : State) (ctx seq : Nat) : Option TrapRec := (s.ctx ctx).recs.find? (fun q => q.seq == seq && q.todo.isNone)
/-- Farder sets the options with which a RESUME with PUBLISH on a record goes on (19 R362). -/
def State.setOptions (s : State) (ctx seq : Nat) (o : ResumeOpts) : State :=
  match s.openRec ctx seq with
  | none => s
  | some q => s.onCtx ctx (fun c => { c with recs := c.recs.map (fun h => if h.rank = q.rank then { h with opts := o } else h) })
/-- RESUME_PUBLISH (19 R362). -/
def execResumePublish (ctx seq : Nat) (s : State) : Out :=
  match s.openRec ctx seq with
  | none => .next s
  | some q => .next ((s.service ctx seq .publish q.opts).getD s)

/-! The publication walker (19 R356 to R362). -/

/-- The end of the walks of a RESUME with PUBLISH: the strand resumes, or a walk's fault is a new record in the escape's place. -/
def State.republished (s : State) (t : Nat) (e : EngOp) (ctx rank : Nat) (o : ResumeOpts) (f : Option UnitFault) : State :=
  let s1 := s.onTeam t (fun T => T.dropEng e.id)
  match (s.ctx ctx).recs.find? (fun q => q.rank == rank), f with
  | some q, none => ((s1.makeEdits q o).resumeRec { q with todo := none } false o).finishTeam t
  | some q, some f =>
    ((s1.dropRecs ctx (fun h => h.rank == rank)).postAt
      { q with cause := f.cause, detail := f.detail, code := f.code, addr := f.addr, defer := true, op := none, todo := none } 0).finishTeam t
  | none, _ => s1.finishTeam t

/-- The end of an operation's walks. -/
def State.walked (s : State) (t : Nat) (e : EngOp) (f : Option UnitFault) : State :=
  let s1 := { s with walks := s.walks.filter (fun w => !(w.2.1 == t && w.2.2 == e.id)), walking := SMap.erase s.walking e.id }
  match e.kind with
  | .publish root slot =>
    let r := match f with
      | some f => (s1, some f)
      | none => s1.storeSlot t slot root
    match r.2 with
    | some f => r.1.engFault t e f
    | none => r.1.engDone t e 0
  | .repub ctx rank o => s1.republished t e ctx rank o f
  | _ => s1

/-- The roots of an operation's walks. -/
def State.walkRoots (s : State) (e : EngOp) : List W64 :=
  match e.kind with
  | .publish root _ => [root]
  | .repub ctx rank _ => match (s.ctx ctx).recs.find? (fun q => q.rank == rank) with | some q => s.strefRoots q | none => []
  | _ => []

/-- The trace of an operation's next walk, or the end of its walks. A fault undoes the walk's own trace (R357). -/
def State.walkNext (s : State) (die t : Nat) (e : EngOp) : List W64 → State
  | [] => s.walked t e none
  | x :: left =>
    let r := s.traced die t x
    match r.fault with
    | some f => (r.objs.foldl (fun s o => s.setObjState o.2 0) r.st).walked t e (some f)
    | none => { r.st with walking := SMap.put r.st.walking e.id { objs := r.objs, left := left } }

/-- PUBLICATION_WALK (R356 to R362): the oldest operation of a die, when no earlier PUBLISH of its team is pending on another die and its
stream's earlier accesses have been performed. One event traces a walk, the next marks its objects. -/
def execPublicationWalk (die : Nat) (s : State) : Out :=
  match s.walks.find? (fun w => w.1 == die) with
  | none => .next s
  | some (_, t, op) =>
    let first := match s.walks.find? (fun w => w.2.1 == t) with | some w => w.1 == die && w.2.2 == op | none => false
    match (s.team t).eng? op with
    | none => .next s
    | some e =>
      if first && (s.team t).releasedBefore e.strm e.id then
        match s.walking.find? (fun p => p.1 == op) with
        | none => .next (s.walkNext die t e (s.walkRoots e))
        | some (_, w) =>
          let m := s.mark t w.objs
          match m.2 with
          | some x => .next (m.1.walked t e (some (walkFault 1 x)))
          | none => .next (m.1.walkNext die t e w.left)
      else .next s

end Sys2Proof.Machine
end

