-- ==== Sys2Proof/Machine/Preemption.lean ====
section
/-! DEFINITION. Pre-emption: the exchange of banks, the spill engine, and the power of scratchpad stripes (04 R93; 08 R178; 11 R233 to
R238; 13 R241, R264, R267). -/

namespace Sys2Proof.Machine

/-! The exchange (11 R233, 13 R241). -/

/-- A half of a pair that is pending (13 R264). -/
def Team.pendingHalf (T : Team) : Bool :=
  T.engs.any (fun e => (match e.kind with | .mpair _ _ _ _ _ _ _ _ => true | _ => false) && decide (e.stage ≠ .issued) && decide (e.stage ≠ .done))

/-- Whether a core can exchange its banks: neither is being saved or loaded, no save-area fault holds it, no half is pending in it. -/
def State.canSwitch (s : State) (core : Nat) : Bool :=
  let k := s.core core
  decide (core < 192) && k.shadow.loaded && !k.saving && !k.refuses && decide (k.readyAt ≤ s.clock)
  && k.active.slots.all (fun p => !(s.team p.2).pendingHalf)

/-- Whether the cores of every cluster with a team on a core are among those of a request, and the whole cluster moves together: no team
of it is saved while another comes in (R241). -/
def State.clusterIn (s : State) (cores : List Nat) (core : Nat) : Bool :=
  let k := s.core core
  (k.active.slots ++ k.shadow.slots).all (fun p => (s.team p.2).cluster.all (fun u =>
    !(s.team u).live || (s.team u).retiring || (cores.contains (s.team u).core && decide ((s.team u).held = (s.team p.2).held))))

/-- Whether a team that comes to a core keeps its cluster on an aligned rectangle with the members that stand on cores (01 R4; 13 R240). -/
def State.keepsShape (s : State) (t core : Nat) : Bool :=
  let T := s.team t
  let sh := clusShape (s.grid T.grid).launch.clus
  let off (r : Nat) : Nat := 6 * (r / sh.1) + r % sh.1
  let c0 := core - off T.crank
  T.cluster.length ≤ 1
  || (decide (off T.crank ≤ core) && decide (c0 / 24 = core / 24) && decide (c0 % 6 % 2 = 0) && decide (c0 % 24 / 6 % 2 = 0)
      && decide (c0 % 6 + sh.1 ≤ 6) && decide (c0 % 24 / 6 + sh.2 ≤ 4)
      && T.cluster.all (fun u => !(s.team u).live || decide ((s.team u).held = .saved) || (s.team u).core == c0 + off (s.team u).crank))

/-- Exchanges the banks of one core in 40 cycles. -/
def State.exchange (s : State) (core : Nat) : State :=
  let k := s.core core
  let outs := k.active.slots.map Prod.snd
  let ins := k.shadow.slots.map Prod.snd
  let s1 := outs.foldl (fun s t => (s.dropPrivate t).onTeam t (fun T => { T with held := .shadow })) s
  let s2 := ins.foldl (fun s t => (s.wakeStripes core (s.team t).spBase (s.team t).w).onTeam t (fun T => { T with held := .active })) s1
  let s3 := s2.onCore core (fun k => { k with active := { k.shadow with dSince := none }, shadow := { k.active with dSince := none },
                                              saving := !outs.isEmpty, readyAt := s.clock + 40 })
  -- what the incoming teams have read or written elsewhere is not older than what they read here (18 R333)
  if ins.isEmpty then s3 else s3.dropL1 core

/-- BANK_SWITCH (R233, R241): every core of the request exchanges at once, between words; actions that waited for a team's return take
effect (R225). -/
def execBankSwitch (cores : List Nat) (s : State) : Out :=
  if decide cores.Nodup && cores.all s.canSwitch && cores.all (s.clusterIn cores) then
    let s1 := cores.foldl State.exchange s
    let ctxs := (cores.filterMap (fun c => (s1.core c).active.ctx)).eraseDups
    .next (ctxs.foldl State.pending s1)
  else .next s

/-! The save arena (R235 to R237). -/

/-- The save-area fault (R237): the core refuses further switches, and Farder has a record of its own. -/
def State.saveFault (s : State) (core ctx : Nat) : State :=
  let s1 := s.onCore core (fun k => { k with refuses := true })
  { s1 with hub := { s1.hub with sysq := s1.hub.sysq ++ [(ctx, core)] } }

/-- The quad's resources that a team holds: entries, tiles, contexts. -/
def Team.quadUse (T : Team) : Nat × Nat × Nat := (bit1 T.resv.isSome, T.tiles, T.gcs.length)

/-- Whether nothing that a team has issued is outstanding; a parked access stays with its strand, and accepted operations of the fabric
go on (24 R413). -/
def Team.quiet (T : Team) : Bool := T.engs.all (fun e => e.cls == 4 && decide (e.stage ≠ .issued)) && T.accs.all (fun a => a.parked)

/-- The lowest core image of a context that is not in use. -/
def Context.freeImage (c : Context) : Nat := ((List.range 193).find? (fun i => c.saved.all (fun b => b.image ≠ i))).getD 0

/-- SPILL_SAVE (R235, R267): the outgoing bank, its windows and its engine state are written to the save arena; entries and tiles are
free. -/
def execSpillSave (core : Nat) (s : State) : Out :=
  let k := s.core core
  let ts := k.shadow.slots.map Prod.snd
  match k.shadow.ctx with
  | none =>
    -- nothing is left to save: a spill that Farder reissues after a failed load ends the refusal (R237)
    .next (if k.refuses then s.onCore core (fun k => { k with refuses := false }) else s)
  | some ctx =>
    if !k.saving || !ts.all (fun t => (s.team t).quiet) then .next s
    else
      let image := (s.ctx ctx).freeImage
      if !s.arenaStands ctx image k.shadow then .next (s.saveFault core ctx)
      else
        let s0 := s.spill ctx image k.shadow
        let s1 := ts.foldl (fun s t =>
          let u := (s.team t).quadUse
          let s1 := if u = (0, 0, 0) then s else s.onQuad (quadOf core) (fun Q =>
            { Q with entries := Q.entries + u.1, tiles := Q.tiles + u.2.1, contexts := Q.contexts + u.2.2 })
          s1.onTeam t (fun T => { T with held := .saved })) s0
        let s2 := s1.onCtx ctx (fun c => { c with saved := c.saved ++ [{ image := image, bank := k.shadow }] })
        .next ((s2.onCore core (fun k => { k with shadow := Bank.empty, saving := false, refuses := false })).gateStripes core)

/-- Where the teams of an incoming bank go: their slots differ, and their windows fit one scratchpad. -/
def State.placesFit (s : State) (core : Nat) (ts : List Nat) (places : List (Nat × Place)) : Bool :=
  let win (q : Nat × Place) : Nat × Nat := (q.2.base, (s.team q.1).w)
  decide (places.map Prod.fst).Nodup && ts.all (fun t => places.any (fun q => q.1 == t)) && places.all (fun q => ts.contains q.1)
  && decide (places.map (fun q => q.2.slot)).Nodup
  && places.all (fun q => q.2.core == core && decide (q.2.slot < 64) && decide (q.2.base % 16384 = 0) && decide ((win q).1 + (win q).2 ≤ Config.spadBytes))
  && places.all (fun q => places.all (fun p => q.1 == p.1 || decide ((win q).1 + (win q).2 ≤ (win p).1) || decide ((win p).1 + (win p).2 ≤ (win q).1)))
  && decide (places.foldl (fun n q => n + (win q).2 + Config.reservedBytes) 0 ≤ Config.spadBytes)

/-- Moves the waiting MRSVs of a team to the quad of its core (R267). -/
def State.moveWaits (s : State) (t fromQuad toQuad : Nat) : State :=
  let mine (w : MrsvReq) : Bool := w.r.team == t
  let ws := (s.quad fromQuad).waits.filter mine
  if fromQuad = toQuad ∨ ws.isEmpty then s
  else (s.onQuad fromQuad (fun Q => { Q with waits := Q.waits.filter (fun w => !mine w) })).onQuad toQuad (fun Q => { Q with waits := Q.waits ++ ws })

/-- SHADOW_LOAD (R235, R238, R267; 04 R93): a saved bank of a context comes into the shadow bank of a core whose free pool holds its blocks
and whose quad has the resources that its teams hold. Its pending requests go behind those of the bank. DESIGN CHOICE (log 67): among
themselves the requests of different teams keep the order that they had. -/
def execShadowLoad (core ctx image : Nat) (places : List (Nat × Place)) (s : State) : Out :=
  let k := s.core core
  match (s.ctx ctx).saved.find? (fun b => b.image == image) with
  | none => .next s
  | some b =>
    let ts := b.bank.slots.map Prod.snd
    let Q := s.quad (quadOf core)
    let use := ts.foldl (fun n t => let u := (s.team t).quadUse; (n.1 + u.1, n.2.1 + u.2.1, n.2.2 + u.2.2)) (0, 0, 0)
    let blocks := ts.foldl (fun n t => n + (s.team t).heldBlocks * (s.team t).ngroups) 0
    if !decide (core < 192) || !k.shadow.slots.isEmpty || k.saving || !s.placesFit core ts places || !decide (blocks ≤ k.shadow.pool)
       || !ts.all (fun t => s.keepsShape t core)
       || !(decide (use.1 ≤ Q.entries) && decide (use.2.1 ≤ Q.tiles) && decide (use.2.2 ≤ Q.contexts)) then .next s
    else if !s.arenaStands ctx image b.bank then .next (s.saveFault core ctx)
    else
      let place (t : Nat) : Place := match places.find? (fun q => q.1 == t) with | some q => q.2 | none => { core := core, slot := 0, base := 0 }
      let back (t : Nat) : Team := s.unspill ctx image b.bank t
      let s1 := ts.foldl (fun s t =>
        let p := place t
        (s.moveWaits t (quadOf (s.team t).core) (quadOf core)).onTeam t (fun T =>
          { back t with held := .shadow, core := core, slot := p.slot, spBase := p.base, unrestored := List.range (T.w / 16384) })) s
      let s2 := s1.onCtx ctx (fun c => { c with saved := c.saved.filter (fun e => e.image ≠ image) })
      let s3 := s2.onQuad (quadOf core) (fun Q =>
        { Q with entries := Q.entries - use.1, tiles := Q.tiles - use.2.1, contexts := Q.contexts - use.2.2 })
      .next (s3.onCore core (fun k => { k with refuses := false, shadow :=
        { b.bank with slots := ts.foldl (fun m t => SMap.put m (place t).slot t) [], loaded := true, dSince := none
                      pool := k.shadow.pool - blocks, reqs := k.shadow.reqs ++ b.bank.reqs } }))

/-- Row sets of a team's window that an access waits for. -/
def State.stalledSets (s : State) (t : Nat) : List Nat :=
  (s.team t).unrestored.filter (fun r => ((s.team t).cluster ++ [t]).any (fun u => (s.team u).accs.any (fun a => a.lanes.any (fun l =>
    !l.settled && (match l.at_ with
      | .window v off => v == t && decide (off < 16384 * (r + 1)) && decide (16384 * r < off + a.size)
      | .global => false)))))

/-- WINDOW_RESTORE (R235): first a row set whose access stalls, else the team's lowest; outgoing windows have been written before. -/
def execWindowRestore (team rowset : Nat) (s : State) : Out :=
  let T := s.team team
  let k := s.core T.core
  let others := k.active.slots.any (fun p => !(s.stalledSets p.2).isEmpty)
  if T.live && decide (T.held = .active) && !k.saving && T.unrestored.contains rowset
     && ((s.stalledSets team).contains rowset || (!others && T.unrestored.head? == some rowset)) then
    .next (s.onTeam team (fun T => { T with unrestored := T.unrestored.filter (fun r => r ≠ rowset) }))
  else .next s

/-- STRIPE_WAKE (08 R178). -/
def execStripeWake (core stripe : Nat) (s : State) : Out :=
  let c := SMap.get 0 (s.core core).stripes stripe
  if 2 ≤ c ∧ c - 2 + 2048 ≤ s.clock then .next (s.onCore core (fun k => { k with stripes := SMap.put k.stripes stripe 1 })) else .next s

end Sys2Proof.Machine
end

