-- ==== Sys2Proof/Machine/FarderCalls.lean ====
section
/-! DEFINITION. SYSC and the calls of interface version 1, with the page tables, extents and translations that Farder changes
(09 R203 to R205; 23 R388, R389, R391, R392). -/

namespace Sys2Proof.Machine

/-! Calls (R391). -/

/-- The numbers that interface version 1 assigns (Table 23-3). -/
def assigned (n : Nat) : Bool := [0x0000, 0x0001, 0x0002, 0x0010, 0x0011, 0x0012, 0x0020, 0x0021, 0x0022, 0x0030, 0x0031].contains n

/-- The stream of a strand. -/
def State.streamOf (s : State) (r : StrandRef) : Stream := (s.team r.team).stream r.strm
def State.onStream (s : State) (r : StrandRef) (f : Stream → Stream) : State :=
  s.onTeam r.team (fun T => T.setStream r.strm (f (T.stream r.strm)))

/-- The strand that the oldest call of a stream belongs to goes on with a result and a status; it acquires. -/
def State.answerCall (s : State) (r : StrandRef) (v st : W64) : State :=
  let s1 := s.onStream r (fun m => { (m.setSreg 48 v false).setSreg 49 st false with calls := m.calls.drop 1 })
  ((s1.dropL1 (s.team r.team).core).onStrand r Strand.advance).wake r

/-- Calls of numbers that are not assigned are answered as they come up (R391); `fuel` bounds the calls of a stream. -/
def State.answerUnassigned : Nat → State → StrandRef → State
  | 0, s, _ => s
  | fuel + 1, s, r =>
    match (s.streamOf r).calls with
    | c :: _ =>
      if assigned c.n then s
      else State.answerUnassigned fuel (s.answerCall { r with sid := c.sid } 0 (BitVec.allOnes 64)) r
    | [] => s

/-- A call ends; actions that waited for it take effect (11 R225). -/
def State.endCall (s : State) (r : StrandRef) (v st : W64) : State :=
  let s1 := s.answerCall r v st
  (State.answerUnassigned (s1.streamOf r).calls.length s1 r).pending (s.team r.team).ctx

/-- Whether a strand's call of a number is the one that Farder serves next for its stream. -/
def State.calling (s : State) (r : StrandRef) (n : Nat) : Bool :=
  (s.team r.team).live && !(s.team r.team).retiring && decide ((s.strand r).st = .blocked) && decide ((s.strand r).wait = .farder n)
  && (match (s.streamOf r).calls with | c :: _ => c.sid == r.sid && c.n == n | [] => false)

/-- SYSC (R391): after its RELEASE the call joins its stream's. -/
def execSysc (n : BitVec 16) (s : State) : Out := finish s do
  needScalars s [48, 49, 50, 51, 52, 53, 54, 55]
  afterRelease s (fun s =>
    let r := s.cur
    let s1 := s.onMyStream (fun m => { m with calls := m.calls ++ [{ sid := r.sid, n := n.toNat }] })
    let s2 := s1.onStrand r (fun x => { x with st := .blocked, wait := .farder n.toNat })
    .ok (State.answerUnassigned (s2.streamOf r).calls.length s2 r))

/-- An argument a0 to a7. -/
def State.callArg (s : State) (r : StrandRef) (i : Nat) : W64 := (s.streamOf r).sreg (BitVec.ofNat 6 (48 + i))

/-- A call that answers: nothing while the strand is not being served. -/
def callEvent (s : State) (r : StrandRef) (n : Nat) (f : State) : Out := if s.calling r n then .next f else .next s

/-- NULL (R392). -/
def execNull (r : StrandRef) (s : State) : Out := callEvent s r 0x0000 (s.endCall r 0 0)

/-! Ranges of a context's memory. -/

/-- The pages of a range. -/
def pagesOf (e : W64) (n : Nat) : List Nat :=
  if n = 0 then [] else (List.range ((va48 e + n - 1) / 4096 - va48 e / 4096 + 1)).map (fun i => va48 e / 4096 * 4096 + 4096 * i)

/-- A range of canonical addresses outside the aperture. -/
def rangeOk (e : W64) (n : Nat) : Bool :=
  canonical e && !aperture e && (decide (e.toNat + n ≤ 2 ^ 47) || (decide (2 ^ 47 ≤ e.toNat) && decide (e.toNat + n ≤ 2 ^ 64)
    && !aperture (e + BitVec.ofNat 64 (n - 1))))

/-- Whether every page of a range is mapped, with what its entries must grant. -/
def State.mapped (s : State) (ctx : Nat) (e : W64) (n : Nat) (grants : W64 → Bool) : Bool :=
  (pagesOf e n).all (fun va => match s.walk ctx va with
    | some l => grants l.pte && decide (l.pa va < Config.hbmEnd)
    | none => false)

/-- Whether no page of a range is mapped. -/
def State.unmapped (s : State) (ctx : Nat) (e : W64) (n : Nat) : Bool := (pagesOf e n).all (fun va => (s.walk ctx va).isNone)

/-- Writes page-table entries. -/
def State.writePtes (s : State) (ptes : List PteWrite) : State :=
  (ptes.filter (fun p => decide (p.pa % 8 = 0) && decide (p.pa + 8 ≤ Config.hbmEnd))).foldl (fun s p => s.storeNat p.pa 8 p.val.toNat) s

/-! Extents and translations (09 R205; R389). -/

/-- Whether a virtual range meets another. -/
def vaMeet (a n b m : Nat) : Bool := decide (a < b + m) && decide (b < a + n)

/-- Whether some access of a context, already translated, still has to be performed in a virtual range. -/
def State.resolvedIn (s : State) (ctx va n : Nat) : Bool :=
  s.teams.any (fun p => p.2.ctx == ctx && p.2.accs.any (fun a => a.lanes.any (fun l =>
    (match l.st with | .ready _ => true | _ => false) && decide (l.at_ = .global) && vaMeet (va48 l.e) a.size va n)))

/-- Drops the translations of a virtual range of a context from every core (R389). -/
def State.dropTlbs (s : State) (ctx va n : Nat) : State :=
  let hit (e : TlbEntry) : Bool := e.ctx == ctx && vaMeet (e.vpn * pageSize e.level) (pageSize e.level) va n
  { s with cores := s.cores.map (fun p => (p.1, { p.2 with tlb := p.2.tlb.filter (fun e => !hit e) })) }

/-- Marks the extents that cover a byte of a virtual range invalid. -/
def State.revokeIn (s : State) (ctx va n : Nat) : State :=
  { s with teams := s.teams.map (fun (p : Nat × Team) => if p.2.ctx = ctx then
      (p.1, { p.2 with extents := p.2.extents.map (fun (x : Extent) => if vaMeet x.va x.len va n then { x with valid := false } else x) }) else p) }

/-- EXTENT_REVOKE (09 R205): once the accesses already resolved through the extent are complete. -/
def execExtentRevoke (team index : Nat) (s : State) : Out :=
  match (s.team team).extents[index]? with
  | none => .next s
  | some x =>
    let busy := (s.team team).accs.any (fun a => a.lanes.any (fun l =>
      (match l.st with | .ready _ => true | _ => false) && decide (l.at_ = .global) && vaMeet (va48 l.e) a.size x.va x.len))
    if busy then .next s
    else .next (s.onTeam team (fun T => { T with extents := T.extents.set index { x with valid := false } }))

/-- SHOOTDOWN (R389): once every access resolved through an old entry has been performed. -/
def execShootdown (ctx : Nat) (base : W64) (len : Nat) (s : State) : Out :=
  if s.resolvedIn ctx (va48 base) len then .next s else .next (s.dropTlbs ctx (va48 base) len)

/-- PAGE_FAULT_SERVICE (R388): Farder maps a page, or copies it and maps the copy, after extents and translations of the page are gone. -/
def execPageFaultService (ctx : Nat) (vpn : Nat) (ptes : List PteWrite) (copy : Option (Nat × Nat)) (s : State) : Out :=
  let va := 4096 * vpn
  let from_ := match s.walk ctx va with | some l => some (l.pa va) | none => none
  let s1 := (s.revokeIn ctx va 4096).dropTlbs ctx va 4096
  let s2 := match copy with
    | some (a, b) => s1.store b (Memory.readN s.mem a 4096)
    | none => s1
  let s3 := s2.writePtes ptes
  let now := match s3.walk ctx va with | some l => some (l.pa va) | none => none
  let sound := match copy with
    | some (a, b) => from_ == some a && now == some b && decide (a ≠ b) && decide (b + 4096 ≤ Config.hbmEnd)
    | none => now.isSome
  if (s.ctx ctx).live && sound && !s.resolvedIn ctx va 4096 then .next s3 else .next s

/-! The calls (R392). -/

/-- The bytes of a range, over its pages. -/
def State.rangeBytes (s : State) (ctx : Nat) (e : W64) (n : Nat) : List Byte := (s.ctxBytes ctx e n).getD []

/-- LOG (R392). -/
def execLog (r : StrandRef) (s : State) : Out :=
  let ctx := (s.team r.team).ctx
  let e := s.callArg r 0
  let n := (s.callArg r 1).toNat
  callEvent s r 0x0001
    (if n ≤ 4096 ∧ rangeOk e n ∧ s.mapped ctx e n (fun p => p.getLsbD 1) then
      (s.onCtx ctx (fun c => { c with log := c.log ++ s.rangeBytes ctx e n })).endCall r (BitVec.ofNat 64 n) 0
    else s.endCall r 0 1)

/-- TIME (R392; 00 R2): ten nanoseconds are thirteen cycles; the rounding is open (log 9). -/
def execTime (r : StrandRef) (s : State) : Out :=
  let n := 10 * s.now
  callEvent s r 0x0002 (s.endCall r (BitVec.ofNat 64 (n / 13 + bit1 (decide (n % 13 ≠ 0) && Config.timeRoundsUp s.now))) 0)

/-- The permissions that argument a2 names: R in bit 0, W in bit 1; W alone is no page of Sv48, and other bits are not assigned (log 23). -/
def permsOk (v : W64) : Bool := decide (v = 1) || decide (v = 3)
def grantsAs (v p : W64) : Bool := (p.getLsbD 1 == v.getLsbD 0) && (p.getLsbD 2 == v.getLsbD 1)

/-- Zeroes the pages of a new mapping. -/
def State.zeroPages (s : State) (ctx : Nat) (pages : List Nat) : State :=
  pages.foldl (fun s va => match s.walk ctx va with | some l => s.store (l.pa va) (List.replicate 4096 0) | none => s) s

/-- MAP (R392): Farder's choice of the address and of the entries; no entries mean that memory is lacking. -/
def execMap (r : StrandRef) (base : W64) (ptes : List PteWrite) (s : State) : Out :=
  let ctx := (s.team r.team).ctx
  let n := (s.callArg r 1).toNat
  let p := s.callArg r 2
  let s1 := s.writePtes ptes
  if !s.calling r 0x0010 then .next s
  else if n = 0 ∨ 2 ^ 47 < n ∨ !permsOk p then .next (s.endCall r 0 1)
  else if ptes.isEmpty then .next (s.endCall r 0 2)
  else if decide (base.toNat % 4096 = 0) && rangeOk base n && s.unmapped ctx base n && s1.mapped ctx base n (grantsAs p) then
    .next ((s1.zeroPages ctx (pagesOf base n)).endCall r base 0)
  else .next s

/-- A change of mappings in a range that UNMAP and PROTECT make: extents and old translations go first (R389). -/
def State.remap (s : State) (ctx : Nat) (e : W64) (n : Nat) (ptes : List PteWrite) : State :=
  let lo := va48 e / 4096 * 4096
  let len := va48 e + n - lo
  ((s.revokeIn ctx lo (roundUp len 4096)).writePtes ptes).dropTlbs ctx lo (roundUp len 4096)

/-- UNMAP (R392). -/
def execUnmap (r : StrandRef) (ptes : List PteWrite) (s : State) : Out :=
  let ctx := (s.team r.team).ctx
  let e := s.callArg r 0
  let n := (s.callArg r 1).toNat
  let s1 := s.remap ctx e n ptes
  if !s.calling r 0x0011 then .next s
  else if n = 0 ∨ 2 ^ 47 < n ∨ !rangeOk e n ∨ !s.mapped ctx e n (fun _ => true) then .next (s.endCall r 0 1)
  else if s.resolvedIn ctx (va48 e / 4096 * 4096) (n + 8192) ∨ !s1.unmapped ctx e n then .next s
  else .next (s1.endCall r 0 0)

/-- PROTECT (R392). -/
def execProtect (r : StrandRef) (ptes : List PteWrite) (s : State) : Out :=
  let ctx := (s.team r.team).ctx
  let e := s.callArg r 0
  let n := (s.callArg r 1).toNat
  let p := s.callArg r 2
  let s1 := s.remap ctx e n ptes
  if !s.calling r 0x0012 then .next s
  else if n = 0 ∨ 2 ^ 47 < n ∨ !permsOk p ∨ !rangeOk e n ∨ !s.mapped ctx e n (fun _ => true) then .next (s.endCall r 0 1)
  else if s.resolvedIn ctx (va48 e / 4096 * 4096) (n + 8192) ∨ !s1.mapped ctx e n (grantsAs p) then .next s
  else .next (s1.endCall r 0 0)

/-- The GRIDID of a context's handler grid, or 0. -/
def State.handlerId (s : State) (ctx : Nat) : W64 := match (s.ctx ctx).handler with | some g => (s.grid g).id | none => 0

/-- HANDLER (R392; 11 R224). -/
def execHandler (r : StrandRef) (s : State) : Out :=
  let ctx := (s.team r.team).ctx
  let id := s.callArg r 0
  let old := s.handlerId ctx
  callEvent s r 0x0020
    (if id = 0 then (s.onCtx ctx (fun c => { c with handler := none })).endCall r old 0
     else match s.grids.find? (fun p => p.2.live && p.2.ctx == ctx && decide (p.2.id = id)) with
      | some p => (s.onCtx ctx (fun c => { c with handler := some p.1 })).endCall r old 0
      | none => s.endCall r 0 1)

/-- The action that RESUMEREC's arguments name. -/
def recAct (a1 a2 : W64) : Option ResumeAct :=
  if a2.toNat ≥ 8 then none
  else match a1.toNat with
    | 0 => some (if a2.getLsbD 2 then .publish else .resume)
    | 1 => if a2.getLsbD 2 then none else some .skip
    | 2 => some .kill
    | 3 => some .killteam
    | _ => none

/-- RESUMEREC (R392; 11 R225): SEQ names a record of the queue as its record does, modulo 2^24. -/
def execResumerec (r : StrandRef) (s : State) : Out :=
  let ctx := (s.team r.team).ctx
  let a2 := s.callArg r 2
  let o : ResumeOpts := { step := a2.getLsbD 0, freeze := a2.getLsbD 1 }
  callEvent s r 0x0021
    (match (s.ctx ctx).recs.find? (fun q => !q.own && q.todo.isNone && q.seq % 2 ^ 24 == (s.callArg r 0).toNat % 2 ^ 24), recAct (s.callArg r 1) a2 with
     | some q, some a =>
       match s.service ctx q.seq a o with
       | some s1 => if s1.calling r 0x0021 then s1.endCall r 0 0 else s1
       | none => s.endCall r 0 3
     | _, _ => s.endCall r 0 1)

/-- SETBYPASS (R392). -/
def execSetbypass (r : StrandRef) (s : State) : Out :=
  let ctx := (s.team r.team).ctx
  let v := (s.callArg r 0).toNat
  callEvent s r 0x0022
    (if v ≤ 63 then (s.onCtx ctx (fun c => { c with bypass := v })).endCall r (BitVec.ofNat 64 (s.ctx ctx).bypass) 0 else s.endCall r 0 1)

/-- NOTIFY (R392). -/
def execNotify (r : StrandRef) (s : State) : Out :=
  callEvent s r 0x0030
    ((s.onCtx (s.team r.team).ctx (fun c => { c with notified := c.notified ++ [s.callArg r 0] })).endCall r 0 0)

/-- A grid of a context that exits: its units not yet placed never are; a task in a deque ends. -/
def State.killGrid (s : State) (g : Nat) : State :=
  let G := s.grid g
  if G.task ∧ G.placed = 0 then
    let s1 := { s with cores := s.cores.map (fun (p : Nat × Core) => (p.1, { p.2 with deque := p.2.deque.filter (fun t => t.grid ≠ g) })) }
    (s1.jobEnds noCore G.job true).dropGrid g
  else s.onGrid g (fun G =>
    { G with killed := true, handed := true, pred := none, placed := Launch.units G.launch
             retired := G.retired + (G.launch.teams - G.placed * clusTeams G.launch.clus) })

/-- EXIT (R392): every grid of the context is killed. -/
def execExit (r : StrandRef) (s : State) : Out :=
  let ctx := (s.team r.team).ctx
  callEvent s r 0x0031
    (let s1 := s.onCtx ctx (fun c => { c with exited := some (s.callArg r 0) })
     let s2 := ((s1.grids.filter (fun p => p.2.live && p.2.ctx == ctx)).map Prod.fst).foldl State.killGrid s1
     ((s2.teams.filter (fun p => p.2.live && !p.2.retiring && p.2.ctx == ctx)).map Prod.fst).foldl (fun s t =>
       (s.onTeam t (fun T => { T with killed := true })).retireTeam t) s2)

end Sys2Proof.Machine
end

