-- ==== Sys2Proof/Machine/Quota.lean ====
section
/-! DEFINITION. Register blocks, index registers and retagging (04 R86 to R98), and the events of readiness (01 R17, 05 R110). -/

namespace Sys2Proof.Machine

/-- GRANT or DENY: pd in every lane of a strand's mask, and the strand goes on (R91). -/
def State.answer (s : State) (r : StrandRef) (pd : BitVec 3) (v : Bool) : State :=
  let m := (s.strand r).mask
  let s1 := s.onTeam r.team (fun T => T.setPred pd m (if v then m else 0))
  (s1.onStrand r Strand.advance).wake r

/-- Blocks move from the free pool to the team pool (R91). -/
def State.acquire (s : State) (t n : Nat) : State :=
  let g := (s.team t).ngroups
  (s.setBank t { s.bank t with pool := (s.bank t).pool - n * g }).onTeam t
    (fun T => { T with heldBlocks := T.heldBlocks + n, pool := T.pool + n })

/-- The registers of a strand's next n block positions (R78). -/
def Strand.nextRegs (x : Strand) (n : Nat) : List Nat := (List.range (8 * n)).map (fun i => 32 + 8 * x.cnt + i)

/-- The lanes whose registers a claim empties: every lane of the groups of S, its deferred lanes with it, but for lanes of other strands
of the team that map the first claimed position themselves and keep what they hold there (R80, R91; log 66). -/
def State.claimed (s : State) (r : StrandRef) : Mask :=
  let x := s.strand r
  let T := s.team r.team
  let own := T.ovf.foldl (fun m e => if e.owner == r.sid && decide (e.strm = r.strm) then m ||| e.dmask ||| e.amask else m) x.mask
  let groups := (T.groupsOf own).foldl (fun m g => m ||| T.groupMask g) 0
  let others := (s.strandsOf r.team .c ++ s.strandsOf r.team .a).foldl (fun m q =>
    if q ≠ r ∧ (s.strand q).st ≠ .suspended ∧ x.cnt < (s.strand q).cnt then m ||| (s.strand q).mask else m) 0
  (groups &&& firstLanes T.lanes) &&& ~~~(others &&& ~~~own)

/-- Blocks of the team pool are mapped at a strand's next positions; their registers read zero with tag RAW (R91). -/
def State.claim (s : State) (r : StrandRef) (n : Nat) : State :=
  let x := s.strand r
  let regs := x.nextRegs n
  let m := s.claimed r
  let clear (T : Team) (v : Nat) : Team := T.putVec v m (fun _ => tRaw) ((T.lanesOf m).map (fun l => (l, 0)))
  (s.onTeam r.team (fun T => { regs.foldl clear T with pool := T.pool - n })).onStrand r (fun x => { x with cnt := x.cnt + n })

/-- Whether the oldest request of a kind can be granted: REGACQ of the bank, REGCLAIM of one team (R89). -/
def State.acqFits (s : State) (q : RegReq) : Bool :=
  decide (q.n * (s.team q.r.team).ngroups ≤ (s.bank q.r.team).pool)
def State.claimFits (s : State) (q : RegReq) : Bool := decide (q.n ≤ (s.team q.r.team).pool)
/-- No word issued earlier has still to write a register that a claim maps: a late result never lands in a new block (02 R41; R91). -/
def State.claimClear (s : State) (r : StrandRef) (n : Nat) : Bool :=
  ((s.strand r).nextRegs n).all (fun v => !(s.team r.team).regBusy v (s.claimed r))

/-- Takes a request off its bank's list. -/
def State.dropReq (s : State) (q : RegReq) : State :=
  s.setBank q.r.team { s.bank q.r.team with reqs := (s.bank q.r.team).reqs.filter (fun p => p.r ≠ q.r) }

/-- The issuing strand waits on a register request. -/
def State.await (s : State) (q : RegReq) : State :=
  let s1 := s.setBank q.r.team { s.bank q.r.team with reqs := (s.bank q.r.team).reqs ++ [q] }
  s1.onStrand q.r (fun x => { x with st := .blocked, wait := .register })

/-- REGACQ (R91). -/
def execRegacq (p : BitVec 3) (n : BitVec 4) (s : State) : Out := finish s do
  needPreds s [p]
  let q : RegReq := { r := s.cur, claim := false, pd := p, n := n.toNat }
  if 768 < (s.mine.heldBlocks + n.toNat) * s.mine.ngroups then .ok (s.answer s.cur p false)
  else if (s.bank s.cur.team).reqs.all (fun q => q.claim) && s.acqFits q then .ok ((s.acquire s.cur.team n.toNat).answer s.cur p true)
  else .ok (s.await q)

/-- REGREL (R91): never waits. -/
def execRegrel (p : BitVec 3) (n : BitVec 4) (s : State) : Out := finish s do
  needPreds s [p]
  if s.mine.pool < n.toNat then .ok (s.answer s.cur p false)
  else
    let t := s.cur.team
    let s1 := s.onMine (fun T => { T with pool := T.pool - n.toNat, heldBlocks := T.heldBlocks - n.toNat })
    .ok ((s1.setBank t { s1.bank t with pool := (s1.bank t).pool + n.toNat * s.mine.ngroups }).answer s.cur p true)

/-- REGGIVE (R91): never waits. -/
def execReggive (p : BitVec 3) (n : BitVec 4) (s : State) : Out := finish s do
  needPreds s [p]
  if s.me.cnt - s.me.wm < n.toNat then .ok (s.answer s.cur p false)
  else
    let s1 := s.onStrand s.cur (fun x => { x with cnt := x.cnt - n.toNat })
    .ok ((s1.onMine (fun T => { T with pool := T.pool + n.toNat })).answer s.cur p true)

/-- REGCLAIM (R91). -/
def execRegclaim (p : BitVec 3) (n : BitVec 4) (s : State) : Out := finish s do
  needPreds s [p]
  let q : RegReq := { r := s.cur, claim := true, pd := p, n := n.toNat }
  if 11 < s.me.cnt + n.toNat then .ok (s.answer s.cur p false)
  else if (s.bank s.cur.team).reqs.all (fun q => !(q.claim && q.r.team == s.cur.team)) && s.claimFits q then
    require (s.claimClear s.cur n.toNat) .stall
    .ok ((s.claim s.cur n.toNat).answer s.cur p true)
  else .ok (s.await q)

/-- VIDX (R94). -/
def execVidx (x : BitVec 2) (a : BitVec 6) (i : BitVec 12) (s : State) : Out := finish s do
  needScalars s [a]
  let v : BitVec 16 := (s.sreg a + sx64 i).setWidth 16
  .ok ((s.onMyStream (fun m => { m with xregs := SMap.set 0 m.xregs x.toNat v })).advance)

/-- The register that an index register and a base name, or the register-bound fault (R96, R97). -/
def indexed (s : State) (x : BitVec 2) (base : Nat) (others : List Nat) : Except Stop Nat := do
  let e := (s.myStream.xreg x.toNat).toNat + base
  checkBound s (e :: others.filter (fun f => !isPort f))
  .ok e

/-- VRDX (R96). -/
def execVrdx (x : BitVec 2) (d a : BitVec 7) (s : State) : Out := finish s do
  let e ← indexed s x a.toNat [d.toNat]
  vecWord s [e] d.toNat ruleMove (fun _ _ vs => plain (vs.headD 0))

/-- VWRX (R96). -/
def execVwrx (x : BitVec 2) (d a : BitVec 7) (s : State) : Out := finish s do
  let e ← indexed s x d.toNat [a.toNat]
  vecWord s [a.toNat] e ruleMove (fun _ _ vs => plain (vs.headD 0))

/-- VTAG (R98): REF cannot be set. DESIGN CHOICE (log 67): a VTAG of REF that also names an unmapped register takes the reference-tag trap. -/
def execVtag (t : BitVec 4) (d a : BitVec 7) (s : State) : Out := finish s do
  require (decide (t ≠ tRef)) (.trap (trapOf cRefTag s.me.mask))
  vecWord s [a.toNat] d.toNat (ruleConst t) (fun _ _ vs => plain (vs.headD 0))

/-! Events. -/

/-- CANDIDATE_URGENT (01 R17): a candidate that has been ready for 2,048 cycles is urgent. -/
def execCandidateUrgent (r : StrandRef) (s : State) : Out :=
  if s.candidate r && decide ((s.strand r).st = .running) && decide ((s.strand r).readyAt + 2048 ≤ s.clock) then .next (s.onStrand r (fun x => { x with urgent := true }))
  else .next s

/-- YIELD_EXPIRY (05 R110): a strand whose count has run out is ready again, from this cycle on. -/
def execYieldExpiry (r : StrandRef) (s : State) : Out :=
  let x := s.strand r
  if decide ((s.team r.team).held = .active) && decide (x.wait = .yield) && decide (x.yieldLeft = 0) then .next (s.wake r) else .next s

/-- The request of a bank that its detector denies now: the youngest, once condition D has held for 64 cycles (R92). -/
def State.denied (s : State) (b : Bank) : Option RegReq :=
  match b.dSince, b.reqs.getLast? with
  | some c, some q => if s.condD b && decide (c + 64 ≤ s.clock) then some q else none
  | _, _ => none

/-- QUOTA_DENIAL (R92): the detector of a core's active bank denies the youngest request, or else that of its shadow bank. -/
def execQuotaDenial (core : Nat) (s : State) : Out :=
  let k := s.core core
  match s.denied k.active with
  | some q =>
    .next (((s.dropReq q).answer q.r q.pd false).onCore core (fun k => { k with active := { k.active with dSince := none } }))
  | none =>
    match s.denied k.shadow with
    | some q =>
      .next (((s.dropReq q).answer q.r q.pd false).onCore core (fun k => { k with shadow := { k.shadow with dSince := none } }))
    | none => .next s

/-- REGISTER_REQUEST_GRANT (R89, R91): the oldest REGACQ of a core's active bank, or the oldest REGCLAIM of a team of it. -/
def execRegisterRequestGrant (core : Nat) (team : Option Nat) (s : State) : Out :=
  let rs := (s.core core).active.reqs
  match team with
  | none =>
    match rs.find? (fun q => !q.claim) with
    | some q => if s.acqFits q then .next (((s.dropReq q).acquire q.r.team q.n).answer q.r q.pd true) else .next s
    | none => .next s
  | some t =>
    match rs.find? (fun q => q.claim && q.r.team == t) with
    | some q => if s.claimFits q && s.claimClear q.r q.n then .next (((s.dropReq q).claim q.r q.n).answer q.r q.pd true) else .next s
    | none => .next s

end Sys2Proof.Machine
end

