-- ==== Sys2Proof/Machine/Element.lean ====
section
/-! DEFINITION. Vector element instructions: arithmetic, shifts, bitwise, moves, immediates, compares, dot products, counts and
random numbers (06 R116 to R128, R133 to R136). -/

namespace Sys2Proof.Machine

/-- The modes of a floating word, read when its first pass issues (R116). -/
structure FpMode where
  daz : Bool
  ftz : Bool
deriving DecidableEq, Repr

def State.fpMode (s : State) : FpMode := { daz := s.myStream.daz, ftz := s.myStream.ftz }

/-- Elements in ascending order; where `sr`, each takes one step of the generator (03 R68). -/
def elemLoop (sr : Bool) (f : Nat → Nat → Nat × Flags) : List Nat → W64 → List Nat × Flags × W64
  | [], g => ([], 0, g)
  | i :: rest, g =>
    let g1 := if sr then genStep g else g
    let c := f i (g1.toNat % 65536)
    let t := elemLoop sr f rest g1
    (c.1 :: t.1, c.2 ||| t.2.1, t.2.2)

/-- A lane's result from its elements. -/
def elemRes (w n : Nat) (sr : Bool) (g : W64) (f : Nat → Nat → Nat × Flags) : LaneRes :=
  let t := elemLoop sr f (List.range n) g
  { v := packElems w t.1, fl := t.2.1, gen := if sr then some t.2.2 else none }

/-- The tags of arithmetic (Table 6-1). -/
def arithTag (t : BitVec 4) : Bool := decide (t.toNat ≤ 3) || (decide (10 ≤ t.toNat) && decide (t.toNat ≤ 13))
/-- The integer tags. -/
def intTag (t : BitVec 4) : Bool := decide (t = 0) || (decide (10 ≤ t.toNat) && decide (t.toNat ≤ 13))
/-- The floating tags of arithmetic. -/
def fltTag (t : BitVec 4) : Bool := decide (1 ≤ t.toNat) && decide (t.toNat ≤ 3)

/-- An arithmetic word (R120): `fi` on exact integers, `ff` on exact values, with SAT and SR in m. DESIGN CHOICE (log 53): a subnormal
that FTZ flushes under VABS or VNEG sets UF and NX (03 R63). -/
def arithWord (s : State) (m : BitVec 3) (d : Nat) (srcs : List Nat) (fi : List Int → Int) (ff : List Val → Val × Flags) : Except Stop State :=
  let sat := m.getLsbD 0
  let sr := m.getLsbD 1
  let md := s.fpMode
  vecWord s srcs d (ruleTyped (if sr then fltTag else arithTag)) (fun l ts vs =>
    match kindOf (ts.headD 0) with
    | .int n I => elemRes I.w n false 0 (fun i _ => I.narrow sat (fi (vs.map (fun v => I.decode (elem I.w v i)))))
    | .flt n F => elemRes F.width n sr (s.mine.gen l) (fun i r =>
        let x := ff (vs.map (fun v => F.decodeDaz md.daz (elem F.width v i)))
        let y := F.flush md.ftz (F.rnd (if sr then 5 else 0) sat r x.1)
        (y.1, x.2 ||| y.2))
    | _ => plain 0)

def arg0 {α : Type} (d : α) (l : List α) : α := l.getD 0 d
def arg1 {α : Type} (d : α) (l : List α) : α := l.getD 1 d
def arg2 {α : Type} (d : α) (l : List α) : α := l.getD 2 d
def vzero : Val := .fin false 0 0

/-- VADD. -/
def execVadd (m : BitVec 3) (d a b : BitVec 7) (s : State) : Out :=
  finish s (arithWord s m d.toNat [a.toNat, b.toNat] (fun x => arg0 0 x + arg1 0 x) (fun x => Val.add false (arg0 vzero x) (arg1 vzero x)))
/-- VSUB. -/
def execVsub (m : BitVec 3) (d a b : BitVec 7) (s : State) : Out :=
  finish s (arithWord s m d.toNat [a.toNat, b.toNat] (fun x => arg0 0 x - arg1 0 x)
    (fun x => Val.add false (arg0 vzero x) (arg1 vzero x).negate))
/-- VMUL. -/
def execVmul (m : BitVec 3) (d a b : BitVec 7) (s : State) : Out :=
  finish s (arithWord s m d.toNat [a.toNat, b.toNat] (fun x => arg0 0 x * arg1 0 x) (fun x => Val.mul (arg0 vzero x) (arg1 vzero x)))
/-- VFMA: vd is the third source; one rounding. -/
def execVfma (m : BitVec 3) (d a b : BitVec 7) (s : State) : Out :=
  finish s (arithWord s m d.toNat [a.toNat, b.toNat, d.toNat] (fun x => arg0 0 x * arg1 0 x + arg2 0 x)
    (fun x => Val.fma (arg0 vzero x) (arg1 vzero x) (arg2 vzero x)))
/-- VMIN. -/
def execVmin (d a b : BitVec 7) (s : State) : Out :=
  finish s (arithWord s 0 d.toNat [a.toNat, b.toNat] (fun x => min (arg0 0 x) (arg1 0 x))
    (fun x => Val.minmax false (arg0 vzero x) (arg1 vzero x)))
/-- VMAX. -/
def execVmax (d a b : BitVec 7) (s : State) : Out :=
  finish s (arithWord s 0 d.toNat [a.toNat, b.toNat] (fun x => max (arg0 0 x) (arg1 0 x))
    (fun x => Val.minmax true (arg0 vzero x) (arg1 vzero x)))
/-- VABS. -/
def execVabs (m : BitVec 3) (d a : BitVec 7) (s : State) : Out :=
  finish s (arithWord s m d.toNat [a.toNat] (fun x => (arg0 0 x).natAbs) (fun x => ((arg0 vzero x).abs, (arg0 vzero x).nv)))
/-- VNEG. -/
def execVneg (m : BitVec 3) (d a : BitVec 7) (s : State) : Out :=
  finish s (arithWord s m d.toNat [a.toNat] (fun x => -(arg0 0 x)) (fun x => ((arg0 vzero x).negate, (arg0 vzero x).nv)))

/-- A bitwise word on 32 bits (R122). -/
def bitWord (s : State) (d : Nat) (srcs : List Nat) (f : List W32 → W32) : Out :=
  finish s (vecWord s srcs d ruleBitwise (fun _ _ vs => plain (f vs)))

/-- VAND. -/
def execVand (d a b : BitVec 7) (s : State) : Out := bitWord s d.toNat [a.toNat, b.toNat] (fun v => arg0 0 v &&& arg1 0 v)
/-- VOR. -/
def execVor (d a b : BitVec 7) (s : State) : Out := bitWord s d.toNat [a.toNat, b.toNat] (fun v => arg0 0 v ||| arg1 0 v)
/-- VXOR. -/
def execVxor (d a b : BitVec 7) (s : State) : Out := bitWord s d.toNat [a.toNat, b.toNat] (fun v => arg0 0 v ^^^ arg1 0 v)
/-- VNOT. -/
def execVnot (d a : BitVec 7) (s : State) : Out := bitWord s d.toNat [a.toNat] (fun v => ~~~(arg0 0 v))

/-- An integer word whose elements are computed from their codes and width (R121, R125). -/
def codeWord (s : State) (d : Nat) (srcs : List Nat) (f : Nat → List Nat → Nat) : Out :=
  finish s (vecWord s srcs d (ruleTyped intTag) (fun _ ts vs =>
    let k := kindOf (ts.headD 0)
    elemRes k.width k.count false 0 (fun i _ => (f k.width (vs.map (fun v => elem k.width v i)), 0))))

/-- VSHL (R121): a count of the width or more gives 0. -/
def execVshl (d a b : BitVec 7) (s : State) : Out :=
  codeWord s d.toNat [a.toNat, b.toNat] (fun w x => if arg1 0 x < w then arg0 0 x * 2 ^ arg1 0 x % 2 ^ w else 0)
/-- VSHR. -/
def execVshr (d a b : BitVec 7) (s : State) : Out :=
  codeWord s d.toNat [a.toNat, b.toNat] (fun w x => if arg1 0 x < w then arg0 0 x / 2 ^ arg1 0 x else 0)
/-- VSRA: copies of the element's top bit, on unsigned tags too. -/
def execVsra (d a b : BitVec 7) (s : State) : Out :=
  codeWord s d.toNat [a.toNat, b.toNat] (fun w x =>
    let c := min (arg1 0 x) w
    let top := arg0 0 x / 2 ^ (w - 1)
    arg0 0 x / 2 ^ c + top * (2 ^ w - 2 ^ (w - c)))

/-- VMOV (R122). -/
def execVmov (d a : BitVec 7) (s : State) : Out := finish s (vecWord s [a.toNat] d.toNat ruleMove (fun _ _ vs => plain (arg0 0 vs)))
/-- VMOVI (R123). -/
def execVmovi (d : BitVec 7) (i : BitVec 10) (s : State) : Out :=
  finish s (vecWord s [] d.toNat (ruleConst tI32) (fun _ _ _ => plain (sx32 i)))
/-- VIOTA (R123). -/
def execViota (d : BitVec 7) (i : BitVec 10) (s : State) : Out :=
  finish s (vecWord s [] d.toNat (ruleConst tI32) (fun l _ _ => plain (BitVec.ofNat 32 l + sx32 i)))
/-- VMOVS (R124). -/
def execVmovs (m : BitVec 3) (d : BitVec 7) (a : BitVec 6) (s : State) : Out := finish s do
  needScalars s [a]
  let v := if m.getLsbD 0 then hi32 (s.sreg a) else lo32 (s.sreg a)
  vecWord s [] d.toNat (ruleConst (if m.getLsbD 1 then tF32 else tI32)) (fun _ _ _ => plain v)
/-- VADDI (R125): the immediate is reduced to the element width. -/
def execVaddi (d a : BitVec 7) (i : BitVec 10) (s : State) : Out :=
  codeWord s d.toNat [a.toNat] (fun w x => (arg0 0 x + (i.toInt % (2 ^ w : Nat)).toNat) % 2 ^ w)

/-- The condition of VCMP on two values (R126). -/
def cmpInt (k : BitVec 3) (a b : Int) : Bool :=
  match k.toNat with
  | 0 => decide (a = b)
  | 1 => decide (a ≠ b)
  | 2 => decide (a < b)
  | 3 => decide (a ≤ b)
  | 4 => decide (b < a)
  | 5 => decide (b ≤ a)
  | _ => false
def cmpFlt (k : BitVec 3) (a b : Val) : Bool × Flags :=
  let nan := a.isNan || b.isNan
  let ordered := decide (2 ≤ k.toNat) && decide (k.toNat ≤ 5)
  let f := if ordered then flagIf nan fNV else a.nv ||| b.nv
  if nan then (decide (k.toNat = 1) || decide (k.toNat = 6), f) else (cmpInt k (Val.cmp a b) 0, f)

/-- VCMP (R126). -/
def execVcmp (p k : BitVec 3) (a b : BitVec 7) (f : BitVec 4) (s : State) : Out := finish s do
  needPreds s [p]
  let daz := s.fpMode.daz
  predWord s [a.toNat, b.toNat] p (ruleTyped (fun t => decide (t = tI32) || decide (t = tF32))) (fun l ts vs =>
    let x := arg0 0 vs
    let y := arg1 0 vs
    let c : Bool × Flags :=
      if ts.headD 0 = tI32 then (cmpInt k x.toInt y.toInt, 0)
      else cmpFlt k (fp32.decodeDaz daz x.toNat) (fp32.decodeDaz daz y.toNat)
    let old := (s.mine.pred p).getLsbD l
    (match f.toNat with | 0 => c.1 | 1 => old && c.1 | _ => old || c.1, c.2))

/-- PLOG in the active lanes (R127). -/
def plog (s : State) (d : BitVec 3) (srcs : List (BitVec 3)) (v : Mask) : Out := finish s do
  needPreds s (d :: srcs)
  .ok ((s.onMine (fun T => T.setPred d s.me.mask v)).advance)
/-- PAND. -/
def execPand (d a b : BitVec 3) (s : State) : Out := plog s d [a, b] (s.mine.pred a &&& s.mine.pred b)
/-- POR. -/
def execPor (d a b : BitVec 3) (s : State) : Out := plog s d [a, b] (s.mine.pred a ||| s.mine.pred b)
/-- PNOT. -/
def execPnot (d a : BitVec 3) (s : State) : Out := plog s d [a] (~~~(s.mine.pred a))

/-- VSEL (R128): both sources carry one tag. -/
def execVsel (m : BitVec 3) (d a b : BitVec 7) (s : State) : Out := finish s do
  needPreds s [m]
  let rule (ts : List (BitVec 4)) : Except Nat (BitVec 4) :=
    if arg0 0 ts = arg1 0 ts then ruleMove ts else .error cTag
  vecWord s [a.toNat, b.toNat] d.toNat rule (fun l _ vs => plain (if (s.mine.pred m).getLsbD l then arg0 0 vs else arg1 0 vs))

/-- The accumulator tag of VDOT (Table 6-4). -/
def dotTag (t : BitVec 4) : Option (BitVec 4) :=
  match t.toNat with
  | 2 | 3 | 4 | 5 => some tF32
  | 10 | 11 | 12 | 13 => some tI32
  | _ => none

/-- VDOT (R133). -/
def execVdot (d a b : BitVec 7) (s : State) : Out :=
  let md := s.fpMode
  let rule (ts : List (BitVec 4)) : Except Nat (BitVec 4) :=
    if arg0 0 ts = arg1 0 ts ∧ dotTag (arg0 0 ts) = some (arg2 0 ts) then .ok (arg2 0 ts) else .error cTag
  finish s (vecWord s [a.toNat, b.toNat, d.toNat] d.toNat rule (fun _ ts vs =>
    match kindOf (ts.headD 0) with
    | .int n I =>
      let ps := (List.range n).map (fun i => (I.decode (elem I.w (arg0 0 vs) i), I.decode (elem I.w (arg1 0 vs) i)))
      let y := dotInt (arg2 0 vs).toInt ps
      { v := BitVec.ofNat 32 y.1, fl := y.2, gen := none }
    | .flt n F =>
      let ps := (List.range n).map (fun i =>
        (F.decodeDaz md.daz (elem F.width (arg0 0 vs) i), F.decodeDaz md.daz (elem F.width (arg1 0 vs) i)))
      let y := fp32.flush md.ftz (dotStep fp32 false (fp32.decodeDaz md.daz (arg2 0 vs).toNat) ps)
      { v := BitVec.ofNat 32 y.1, fl := y.2 ||| (ps.foldl (fun f p => f ||| p.1.nv ||| p.2.nv) 0), gen := none }
    | _ => plain 0))

/-- VPOPC (R134). -/
def execVpopc (d a : BitVec 7) (s : State) : Out :=
  finish s (vecWord s [a.toNat] d.toNat (ruleAny tI32) (fun _ _ vs =>
    plain (BitVec.ofNat 32 (indicesWhere 32 (fun i => (arg0 0 vs).getLsbD i)).length)))
/-- VCLZ (R134). -/
def execVclz (d a : BitVec 7) (s : State) : Out :=
  finish s (vecWord s [a.toNat] d.toNat (ruleAny tI32) (fun _ _ vs =>
    plain (BitVec.ofNat 32 (if arg0 0 vs = 0 then 32 else 31 - Nat.log2 (arg0 0 vs).toNat))))

/-- VSEED (R135): a zero seed is stored as the first generator state. -/
def execVseed (a b : BitVec 7) (s : State) : Out := finish s do
  beginVec s [a.toNat, b.toNat] []
  tagChecks s [a.toNat, b.toNat] (ruleAny tRaw)
  let m := s.me.mask
  let out := s.mine.laneOut m [a.toNat, b.toNat] (fun _ _ vs =>
    let g := pair64 (arg0 0 vs) (arg1 0 vs)
    { v := 0, fl := 0, gen := some (if g = 0 then genSeed else g) })
  .ok ((s.onMine (fun T => (T.popAll [a.toNat, b.toNat] m).putGens out)).advance)

/-- VRAND (R136). -/
def execVrand (m : BitVec 3) (d : BitVec 7) (s : State) : Out :=
  finish s (vecWord s [] d.toNat (ruleConst (if m = 0 then tI32 else tF32)) (fun l _ _ =>
    let t := genStep (s.mine.gen l)
    let v := if m = 0 then lo32 t else BitVec.ofNat 32 (fp32.rnd 0 false 0 (.fin false (t.toNat / 2 ^ 40) (-24))).1
    { v := v, fl := 0, gen := some t }))

end Sys2Proof.Machine
end

