-- ==== Sys2Proof/Machine/Convert.lean ====
section
/-! DEFINITION. Conversions between formats: VCVT, VPACK, VUNPK (06 R129 to R131). -/

namespace Sys2Proof.Machine

/-- The tag a conversion names, when source and destination form an accepted pair; `vd`'s own tag, if it names a register, follows the
source's in the list. -/
def ruleConv (ok : BitVec 4 → Bool) (t : BitVec 4) (ts : List (BitVec 4)) : Except Nat (BitVec 4) :=
  if ok (ts.headD 0) then .ok t else .error cTag

/-- The sources of a conversion: va, and vd where it names a register, for the elements the word keeps (06 R117). -/
def convSrcs (d a : BitVec 7) : List Nat := if isPort d.toNat then [a.toNat] else [a.toNat, d.toNat]

/-- The old bits of the destination where they are kept: vd names a register that already has the destination tag (R130). -/
def keptBits (d : BitVec 7) (t : BitVec 4) (ts : List (BitVec 4)) (vs : List W32) : W32 :=
  if isPort d.toNat then 0 else if arg1 0 ts = t then arg1 0 vs else 0

/-- The pairs that VCVT accepts (R130). -/
def cvtPair (t u : BitVec 4) : Bool :=
  let flt (k : Kind) : Bool := match k with | .flt _ _ => true | _ => false
  let known (k : Kind) : Bool := match k with | .flt _ _ => true | .int _ _ => true | _ => false
  let a := kindOf u
  let b := kindOf t
  known a && known b && (flt a || flt b) && decide (t ≠ u) && decide (ceilDiv (max a.count b.count) (min a.count b.count) ≤ 4)

/-- CONV (R130): the exact value, one RND; DAZ on the source, FTZ on a result of 16 bits or more. -/
def conv (md : FpMode) (src dst : Kind) (mode : Nat) (sat : Bool) (r code : Nat) : Nat × Flags :=
  let x : Val := match src with
    | .int _ I => Val.ofInt (I.decode code)
    | .flt _ F => F.decodeDaz md.daz code
    | _ => vzero
  match dst with
  | .int _ I => let y := I.rnd mode r x; (y.1, y.2 ||| x.nv)
  | .flt _ F => let y := F.flush (md.ftz && decide (16 ≤ F.width)) (F.rnd mode sat r x); (y.1, y.2 ||| x.nv)
  | _ => (0, 0)

/-- A lane's result whose elements are either converted (some source element) or kept. Only converted ones take a step (03 R68). -/
def partLoop (sr : Bool) (f : Nat → Nat → Nat × Flags) (pick : Nat → Option Nat) (keep : Nat → Nat) : List Nat → W64 → List Nat × Flags × W64
  | [], g => ([], 0, g)
  | e :: rest, g =>
    match pick e with
    | some k =>
      let g1 := if sr then genStep g else g
      let c := f k (g1.toNat % 65536)
      let t := partLoop sr f pick keep rest g1
      (c.1 :: t.1, c.2 ||| t.2.1, t.2.2)
    | none =>
      let t := partLoop sr f pick keep rest g
      (keep e :: t.1, t.2.1, t.2.2)

/-- The whole lane. -/
def partRes (w n : Nat) (sr : Bool) (g : W64) (old : W32) (f : Nat → Nat → Nat × Flags) (pick : Nat → Option Nat) : LaneRes :=
  let t := partLoop sr f pick (elem w old) (List.range n) g
  { v := packElems w t.1, fl := t.2.1, gen := if sr then some t.2.2 else none }

/-- VCVT (R130). -/
def execVcvt (t : BitVec 4) (d a : BitVec 7) (r : BitVec 3) (sat : BitVec 1) (p : BitVec 2) (s : State) : Out :=
  let md := s.fpMode
  let dst := kindOf t
  let sr := decide (r.toNat = 5)
  finish s (vecWord s (convSrcs d a) d.toNat (ruleConv (cvtPair t) t) (fun l ts vs =>
    let src := kindOf (ts.headD 0)
    let ns := src.count
    let nd := dst.count
    let n := min ns nd
    let sbase := if nd ≤ ns then p.toNat * nd else 0
    let dbase := if nd ≤ ns then 0 else p.toNat * ns
    partRes dst.width nd sr (s.mine.gen l) (keptBits d t ts vs)
      (fun k r' => conv md src dst r.toNat (decide (sat = 1)) r' (elem src.width (arg0 0 vs) k))
      (fun e => if dbase ≤ e ∧ e < dbase + n ∧ sbase + (e - dbase) < ns then some (sbase + (e - dbase)) else none)))

/-- The pairs of VPACK and VUNPK (Table 6-3): elements per part. -/
def packPair (t u : BitVec 4) : Option Nat :=
  match u.toNat, t.toNat with
  | 0, 10 | 0, 11 => some 1
  | 10, 12 | 11, 13 => some 4
  | _, _ => none
def unpackPair (t u : BitVec 4) : Option Nat :=
  match u.toNat, t.toNat with
  | 10, 0 | 11, 0 => some 1
  | 12, 10 | 13, 11 | 8, 11 => some 4
  | _, _ => none

/-- VPACK (R131). -/
def execVpack (t : BitVec 4) (d a : BitVec 7) (sat : BitVec 1) (p : BitVec 2) (s : State) : Out :=
  finish s (vecWord s (convSrcs d a) d.toNat (ruleConv (fun u => (packPair t u).isSome) t) (fun _ ts vs =>
    let k := (packPair t (ts.headD 0)).getD 1
    match kindOf (ts.headD 0), kindOf t with
    | .int _ I, .int nd J =>
      partRes J.w nd false 0 (keptBits d t ts vs) (fun j _ => J.narrow (decide (sat = 1)) (I.decode (elem I.w (arg0 0 vs) j)))
        (fun e => if p.toNat * k ≤ e ∧ e < p.toNat * k + k then some (e - p.toNat * k) else none)
    | _, _ => plain 0))

/-- VUNPK (R131): E2M1 codes are zero-extended as codes. -/
def execVunpk (t : BitVec 4) (d a : BitVec 7) (p : BitVec 2) (s : State) : Out :=
  finish s (vecWord s (convSrcs d a) d.toNat (ruleConv (fun u => (unpackPair t u).isSome) t) (fun _ ts vs =>
    let k := (unpackPair t (ts.headD 0)).getD 1
    let src := kindOf (ts.headD 0)
    match kindOf t with
    | .int nd J =>
      partRes J.w nd false 0 (keptBits d t ts vs)
        (fun j _ => match src with
          | .int _ I => (J.wrap (I.decode (elem I.w (arg0 0 vs) j)), 0)
          | _ => (elem src.width (arg0 0 vs) j, 0))
        (fun e => if e < k ∧ p.toNat * k + e < src.count then some (p.toNat * k + e) else none)
    | _ => plain 0))

end Sys2Proof.Machine
end

