-- ==== Sys2Proof/Machine/Tiles.lean ====
section
/-! DEFINITION. Matrix arithmetic: pairings, A registers, B elements and scales in a window, steps, and results written to a window
(03 R58, R69 to R76; 13 R248 to R251, R255, R259, R260; 14 R284, R285). -/

namespace Sys2Proof.Machine

/-! Pairings (Tables 13-2 and 13-3). Tile kinds: 0 F32, 1 I32, 2 F64. -/

structure Pairing where
  K    : Nat
  kind : Nat
deriving DecidableEq, Repr

/-- The pairing of an A tag with B's format and scales (Table 13-3). -/
def pairing (tag : BitVec 4) (f skind : Nat) (scaled : Bool) : Option Pairing :=
  let a := tag.toNat
  let f8 (x : Nat) : Bool := decide (4 ≤ x) && decide (x ≤ 7)
  if !scaled && skind = 0 then
    if a = 15 then (match f with | 0 => some { K := 1, kind := 2 } | 14 => some { K := 256, kind := 1 } | 15 => some { K := 256, kind := 1 } | _ => none)
    else if a = 1 ∧ f = 1 then some { K := 8, kind := 0 }
    else if (a = 2 ∨ a = 3) ∧ (f = 2 ∨ f = 3) then some { K := 32, kind := 0 }
    else if f8 a && f8 f then some { K := 64, kind := 0 }
    else if a = 8 ∧ f = 8 then some { K := 128, kind := 0 }
    else if (a = 10 ∨ a = 11) ∧ (f = 10 ∨ f = 11) then some { K := 64, kind := 1 }
    else if (a = 12 ∨ a = 13) ∧ (f = 12 ∨ f = 13) then some { K := 128, kind := 1 }
    else none
  else if scaled && skind = 1 then
    if (f8 a || a == 10) && (f8 f || f == 10) then some { K := 64, kind := 0 }
    else if a = 8 ∧ f = 8 then some { K := 128, kind := 0 }
    else none
  else if scaled && skind = 2 && a = 8 && f = 9 then some { K := 128, kind := 0 }
  else none

/-- The tile kind that a word needs by A's tag alone; RAW takes B's format, other tags form no pairing. -/
def tagKind (tag : BitVec 4) (scaled : Bool) : Option Nat :=
  let a := tag.toNat
  if 1 ≤ a ∧ a ≤ 8 then some 0
  else if a = 10 then some (if scaled then 0 else 1)
  else if 11 ≤ a ∧ a ≤ 13 then some 1
  else none

/-- Tags that may carry E8M0 scales (Table 13-2). -/
def scaledTag (tag : BitVec 4) : Bool := (decide (4 ≤ tag.toNat) && decide (tag.toNat ≤ 8)) || decide (tag.toNat = 10)

/-- The data registers of A; a RAW A takes the format of B. -/
def aData (tag : BitVec 4) (f : Nat) : Nat :=
  match tag.toNat with
  | 1 => 8
  | 2 | 3 | 4 | 5 | 8 | 10 | 11 | 12 | 13 => 16
  | 6 | 7 => 13
  | 15 => (match f with | 14 => 16 | 15 => 8 | _ => 2)
  | _ => 1

/-- A format's number for A's elements. -/
def aFmt (tag : BitVec 4) (f : Nat) : Nat := if tag = tRaw then f else tag.toNat

/-- Register r of a row of A, as read at issue. -/
def aReg (a : SMap W32) (r row : Nat) : W32 := SMap.get 0 a (32 * r + row)
/-- Element k of a row of A (Table 13-2). -/
def aCode (a : SMap W32) (tag : BitVec 4) (f row k : Nat) : Nat :=
  if tag = tRaw then
    match f with
    | 0 => (pair64 (aReg a 0 row) (aReg a 1 row)).toNat
    | 14 => elem 2 (aReg a (k / 16) row) (k % 16)
    | _ => elem 1 (aReg a (k / 32) row) (k % 32)
  else
    let kd := kindOf tag
    elem kd.width (aReg a (k / kd.count) row) (k % kd.count)

/-! Elements (Table 9-7). -/

/-- The packing of a format in memory (R58): E3M2 and E2M3 occupy bits [5:0] of a byte. -/
def fmtKind (f : Nat) : Kind :=
  match f with
  | 0 => .flt 1 fp64
  | 14 => .int 16 { w := 2, sg := true }
  | 16 => .int 1 { w := 32, sg := true }
  | f => if 1 ≤ f ∧ f ≤ 13 then kindOf (BitVec.ofNat 4 f) else .none

/-- The value of an element that is summed in a floating format; INT8 is MXINT8 there (R54). -/
def fltVal (f code : Nat) : Val :=
  match fmtKind f with
  | .flt _ F => F.decode (code % 2 ^ F.width)
  | .int _ I => (Val.ofInt (I.decode code)).scale (if f = 10 then -6 else 0)
  | _ => .fin false 0 0
/-- The value of an element that is summed in I32 (R51). -/
def intVal (f code : Nat) : Int :=
  if f = 15 then (if code = 0 then -1 else 1)
  else match fmtKind f with
    | .int _ I => I.decode code
    | _ => 0

/-- The code of element n from a byte offset of a window. -/
def Team.element (U : Team) (off bits n : Nat) : Nat :=
  if 8 ≤ bits then natOfBytes (U.winBytes (off + n * (bits / 8)) (bits / 8))
  else (U.winByte (off + n * bits / 8)).toNat / 2 ^ (n * bits % 8) % 2 ^ bits

/-- The team whose window an address names. -/
def State.baseTeam (s : State) (t : Nat) (e : W64) : Nat := ((s.team t).rankTeam t (addrRank e)).getD t

/-! Tensors in a window (R248, R249). -/

/-- A matrix tensor as an operation sees it: its entry, and the windows of its elements and its scales. -/
structure Tensor where
  e : Entry
  u : Nat                             -- team of BASE
  v : Nat                             -- team of SCALE
deriving DecidableEq, Repr

def State.tensor (s : State) (t : Nat) (e : Entry) : Tensor := { e := e, u := s.baseTeam t e.base, v := s.baseTeam t e.scale }

/-- Columns that a scale row holds. -/
def Entry.sp (e : Entry) : Nat := roundUp (e.dim 0) 128
/-- Offset of the scale code of a row block and a column. -/
def Entry.scaleAt (e : Entry) (b n : Nat) : Nat := addrOff e.scale + b * e.sp + n
/-- Offset of the superscale of a row and a column. -/
def Entry.superAt (e : Entry) (k n : Nat) : Nat :=
  addrOff e.scale + ceilDiv (e.dim 1) 64 * e.sp + 4 * (k / 16384 * e.dim 0 + n)
/-- Offset of a row of elements. -/
def Entry.rowAt (e : Entry) (k : Nat) : Nat := addrOff e.base + k * (e.stride 1).toNat
/-- The rows that one scale code covers. -/
def Entry.blockRows (e : Entry) : Nat := if e.skind = 2 then 64 else 32
/-- Rows of scale codes of a scale tile (R249). -/
def Entry.blocks (e : Entry) : Nat := ceilDiv (e.dim 1) e.blockRows
/-- Bytes of a scale tile: its codes, and under SKIND 2 the superscales behind them (R249). -/
def Entry.scaleLen (e : Entry) : Nat :=
  e.blocks * e.sp + (if e.skind = 2 then 4 * (ceilDiv (e.dim 1) 16384 * e.dim 0) else 0)

/-- The element of row k and column n, or none outside the extents. -/
def State.tensorCode (s : State) (x : Tensor) (k n : Nat) : Option Nat :=
  if k < x.e.dim 1 ∧ n < x.e.dim 0 then some ((s.team x.u).element (x.e.rowAt k) (fmtBits x.e.fmt) n) else none
/-- The scale code that covers row k of column n. -/
def State.scaleCode (s : State) (x : Tensor) (k n : Nat) : Nat := ((s.team x.v).winByte (x.e.scaleAt (k / x.e.blockRows) n)).toNat
/-- The superscale that covers row k of column n. -/
def State.superScale (s : State) (x : Tensor) (k n : Nat) : Val := fp32.decode (natOfBytes ((s.team x.v).winBytes (x.e.superAt k n) 4))

/-- A value under an E8M0 code (R54, R70). -/
def scaled (code : Nat) (v : Val) : Val :=
  match e8m0 code with
  | some k => v.scale k
  | none => if v.isNan then v else .nan false

/-- B element (k, n) as a value, with the flags of reading it; none where its whole scale block lies outside the extents (R248). -/
def State.bVal (s : State) (x : Tensor) (k n : Nat) : Option (Val × Flags) :=
  let zero : Val := .fin false 0 0
  match x.e.skind with
  | 0 => some (match s.tensorCode x k n with | some c => fltVal x.e.fmt c | none => zero, 0)
  | 1 =>
    if x.e.dim 0 ≤ n ∨ x.e.dim 1 ≤ k / 32 * 32 then none
    else some (scaled (s.scaleCode x k n) (match s.tensorCode x k n with | some c => fltVal x.e.fmt c | none => zero), 0)
  | _ =>
    if x.e.dim 0 ≤ n ∨ x.e.dim 1 ≤ k / 64 * 64 then none
    else match s.tensorCode x k n with
      | none => some (zero, 0)
      | some c =>
        let q := s.scaleCode x k n
        if q = 255 then some (.nan false, 0) else some (qn4Exact (qn4c c * ((q : Int) + 1)) (s.superScale x k n))

/-! Steps. -/

/-- One step of an F32 or F64 tile element (R69 to R73). With QN4 the group sum is rounded before it is added (R72). -/
def fltStep (F : Fmt) (qn4 : Bool) (acc : Nat) (ps : List (Val × Val)) : Nat × Flags :=
  if qn4 then
    let g := dotExact false (.fin true 0 0) ps
    let t := F.rnd 0 false 0 g.1
    let x := Val.add false (F.decode acc) (F.decode t.1)
    let y := F.rnd 0 false 0 x.1
    (y.1, g.2 ||| t.2 ||| x.2 ||| y.2)
  else dotStep F false (F.decode acc) ps

/-- One step of a tile element of any kind, over pairs of values or of integers. -/
def tileStep (kind : Nat) (qn4 : Bool) (acc : Nat) (ps : List (Val × Val)) (is : List (Int × Int)) : Nat × Flags :=
  match kind with
  | 1 => dotInt ((IFmt.mk 32 true).decode acc) is
  | 2 => fltStep fp64 false acc ps
  | _ => fltStep fp32 qn4 acc ps

/-! Tiles in the accumulator memory (R242). -/

/-- The elements of row i of a tile, or of the F64 pair of tiles. -/
def Team.tileRow (T : Team) (kind tile i : Nat) : List Nat :=
  let row (t : Nat) : SMap W32 := SMap.slice T.acc (8192 * t + 256 * i) (8192 * t + 256 * (i + 1))
  let lo := row tile
  let hi := if kind = 2 then row (tile + 1) else []
  (List.range 256).map (fun n =>
    (SMap.get 0 lo (8192 * tile + 256 * i + n)).toNat + 2 ^ 32 * (SMap.get 0 hi (8192 * (tile + 1) + 256 * i + n)).toNat)
/-- Writes a tile, or an F64 pair, from its 8,192 elements in row order. -/
def Team.setTile (T : Team) (kind tile : Nat) (vs : List Nat) : Team :=
  let lo := SMap.setRun 0 T.acc (8192 * tile) (vs.map (fun v => BitVec.ofNat 32 v))
  if kind = 2 then { T with acc := SMap.setRun 0 lo (8192 * (tile + 1)) (vs.map (fun v => BitVec.ofNat 32 (v / 2 ^ 32))) }
  else { T with acc := lo }
def Team.tileVals (T : Team) (kind tile : Nat) : List Nat := (List.range 32).flatMap (T.tileRow kind tile)

/-- The flags of a list of results. -/
def orAll (l : List (Nat × Flags)) : Flags := l.foldl (fun f p => f ||| p.2) 0

/-- A product of an A panel and a B block, added to a tile (R255): new elements in row order, and flags. -/
def State.product (s : State) (T : Team) (p : Pairing) (tile : Nat) (tag : BitVec 4) (a : SMap W32) (asScaled : Bool) (x : Tensor) (rb cb : Nat) :
    List (Nat × Flags) :=
  let ks := List.range p.K
  let f := aFmt tag x.e.fmt
  let d := aData tag x.e.fmt
  let aVal (i k : Nat) : Val :=
    let v := fltVal f (aCode a tag x.e.fmt i k)
    if asScaled then scaled (elem 8 (aReg a d i) (k / 32)) v else v
  if p.kind = 1 then
    let cols := (List.range 256).map (fun n => ks.map (fun k =>
      match s.tensorCode x (p.K * rb + k) (256 * cb + n) with | some c => intVal x.e.fmt c | none => 0))
    (List.range 32).flatMap (fun i =>
      let row := ks.map (fun k => intVal f (aCode a tag x.e.fmt i k))
      ((T.tileRow 1 tile i).zip cols).map (fun q => tileStep 1 false q.1 [] (row.zip q.2)))
  else
    let cols := (List.range 256).map (fun n => ks.map (fun k => s.bVal x (p.K * rb + k) (256 * cb + n)))
    let read := cols.foldl (fun fl c => c.foldl (fun fl v => match v with | some v => fl ||| v.2 | none => fl) fl) (0 : Flags)
    (List.range 32).flatMap (fun i =>
      let row := ks.map (aVal i)
      ((T.tileRow p.kind tile i).zip cols).map (fun q =>
        let ps := (row.zip q.2).filterMap (fun r => match r.2 with | some v => some (r.1, v.1) | none => none)
        let y := tileStep p.kind (x.e.skind == 2) q.1 ps []
        (y.1, y.2 ||| read)))

/-! Results written to a window (R58, R259). -/

/-- Codes packed from the start of a run; bits of its last byte beyond them keep the old byte's. -/
def packRun (bits : Nat) (last : Byte) (codes : List Nat) : List Byte :=
  let w := bits * codes.length
  let n := ceilDiv w 8
  let total := codes.foldr (fun c acc => c % 2 ^ bits + 2 ^ bits * acc) 0
  let keep := if w % 8 = 0 then 0 else last.toNat / 2 ^ (w % 8) * 2 ^ w
  bytesOfNat n (total + keep)

/-- Writes bytes of a team's window. -/
def State.putWin (s : State) (u off : Nat) (bs : List Byte) : State :=
  if (s.team u).live then s.onTeam u (fun U => U.winStore off bs) else s

/-- Writes the codes of one row of a tensor from column n on. -/
def State.putRow (s : State) (x : Tensor) (k n : Nat) (codes : List Nat) : State :=
  let bits := fmtBits x.e.fmt
  let off := x.e.rowAt k + n * bits / 8
  let m := ceilDiv (bits * codes.length) 8
  s.putWin x.u off (packRun bits ((s.team x.u).winByte (off + m - 1)) codes)

/-- The code of a tile element in a format (R259, Table 3-6). -/
def tileConv (kind f mode : Nat) (sat : Bool) (r code : Nat) : Nat × Flags :=
  let src : Kind := match kind with
    | 1 => .int 1 { w := 32, sg := true }
    | 2 => .flt 1 fp64
    | _ => .flt 1 fp32
  if f = 15 then
    let x : Val := match src with
      | .int _ I => Val.ofInt (I.decode code)
      | .flt _ F => F.decode code
      | _ => .fin false 0 0
    let y := rndBin1 x
    (y.1, y.2 ||| x.nv)
  else match src, fmtKind f with
    | .int _ I, .int _ J => J.narrow sat (I.decode code)
    | k, d => conv { daz := false, ftz := false } k d mode sat r code

/-- The element formats of a block-scaled tensor (R74). -/
def blockFmt (f : Nat) : BlockFmt :=
  match f with
  | 4 => .flt e5m2 15
  | 5 => .flt e4m3 8
  | 6 => .flt e3m2 4
  | 7 => .flt e2m3 2
  | 8 => .flt e2m1 2
  | _ => .int8

/-- n states of a generator after each of n steps. -/
def genRun : Nat → W64 → List W64
  | 0, _ => []
  | n + 1, g => genStep g :: genRun n (genStep g)

end Sys2Proof.Machine
end

