-- ==== Sys2Proof/Machine/Matrix.lean ====
section
/-! DEFINITION. The matrix engine: reservation, the E-format words, acceptance, arbitration, execution, pairs, and the cluster barrier
(13 R242 to R265; 14 R283 to R286). -/

namespace Sys2Proof.Machine

/-! Reservation (R243, R244). -/

/-- A team's tiles are granted: zero, kind F32, the latch invalid. -/
def State.grantTiles (s : State) (t n : Nat) : State :=
  let q := quadOf (s.team t).core
  (s.onQuad q (fun Q => { Q with tiles := Q.tiles - n, entries := Q.entries - 1 })).onTeam t
    (fun T => { T with resv := some { n := n, kinds := [], latch := .none, urgent := false, headAt := s.clock }, acc := [] })

/-- Whether a quad can grant n tiles. -/
def Quad.fits (Q : Quad) (n : Nat) : Bool := decide (1 ≤ Q.entries) && decide (n ≤ Q.tiles)

/-- Ends a waiting MRSV. -/
def State.endMrsv (s : State) (quad : Nat) (w : MrsvReq) (v : Bool) : State :=
  (s.onQuad quad (fun Q => { Q with waits := Q.waits.filter (fun x => x.r ≠ w.r) })).answer w.r w.pd v

/-- MRSV (R243). -/
def execMrsv (p : BitVec 3) (n : BitVec 7) (s : State) : Out := finish s do
  needPreds s [p]
  let q := quadOf s.mine.core
  if s.mine.resv.isSome then .ok (s.answer s.cur p false)
  else if (s.quad q).waits.all (fun w => decide ((s.team w.r.team).held ≠ .active)) && (s.quad q).fits n.toNat then .ok ((s.grantTiles s.cur.team n.toNat).answer s.cur p true)
  else
    let w : MrsvReq := { r := s.cur, pd := p, n := n.toNat, waited := 0 }
    .ok ((s.onQuad q (fun Q => { Q with waits := Q.waits ++ [w] })).onStrand s.cur (fun x => { x with st := .blocked, wait := .mrsv }))

/-- MRSV_GRANT (R243): the quad's oldest request is granted where it fits; a request of a team that holds a reservation
is denied, and so is one that has waited 65,536 cycles. Requests
of teams that are switched out are passed over. -/
def execMrsvGrant (quad : Nat) (s : State) : Out :=
  match (s.quad quad).waits.find? (fun w => decide ((s.team w.r.team).held = .active)) with
  | none => .next s
  | some w =>
    if (s.team w.r.team).resv.isSome ∨ Config.reservationWait ≤ w.waited then .next (s.endMrsv quad w false)
    else if (s.quad quad).fits w.n then
      let s1 := (s.grantTiles w.r.team w.n).endMrsv quad w true
      let rest := (s1.quad quad).waits.filter (fun x => x.r.team == w.r.team)
      .next (rest.foldl (fun s x => s.endMrsv quad x false) s1)
    else .next s

/-- MRSV_TIMEOUT (R243): a wait of 65,536 cycles ends by DENY. -/
def execMrsvTimeout (quad : Nat) (r : StrandRef) (s : State) : Out :=
  match (s.quad quad).waits.find? (fun w => w.r == r) with
  | some w => if Config.reservationWait ≤ w.waited then .next (s.endMrsv quad w false) else .next s
  | none => .next s

/-- Whether an operation executes on the matrix engine. -/
def EngOp.matrix (e : EngOp) : Bool :=
  match e.kind with
  | .mzero _ _ | .mma _ _ _ _ _ _ _ _ _ _ _ | .mrd _ _ _ _ _ | .msta _ _ _ _ _ _ _ | .mqnt _ _ _ _ _ _ | .mpair _ _ _ _ _ _ _ _ => true
  | _ => false
/-- Whether an operation is a pair half. -/
def EngOp.half (e : EngOp) : Bool := match e.kind with | .mpair _ _ _ _ _ _ _ _ => true | _ => false

/-- MREL (R244): waits until every posted matrix operation has retired, or as a pair half has completed; then frees entry and tiles. -/
def execMrel (s : State) : Out :=
  let T := s.mine
  if T.engs.any (fun e => e.matrix && !(e.half && decide (e.stage = .done))) then .next (s.waitIn .again)
  else
    let s1 := match T.resv with
      | some v => (s.onQuad (quadOf T.core) (fun Q => { Q with tiles := Q.tiles + v.n, entries := Q.entries + 1 })).onMine
          (fun T => { T with resv := .none, acc := [] })
      | none => s
    .next s1.advance

/-! The checks at issue (R253). -/

def tileTrap (s : State) (tile : Nat) : Stop := boundTrap s.me.mask (0x80 + tile)

/-- Check 2: the one whole group of the strand's mask. While an earlier matrix word of the team waits for its unit, the next one waits to
issue: kinds and the latch are settled by acceptance (log 19). -/
def oneGroup (s : State) : Except Stop Nat := do
  let T := s.mine
  require (T.engs.all (fun e => !e.matrix || decide (e.stage ≠ .issued))) .stall
  match T.groupsOf s.me.mask with
  | [g] => if decide (T.groupMask g = s.me.mask) && decide (T.gw = 32) then .ok g else .error (.trap (trapOf cConverge s.me.mask))
  | _ => .error (.trap (trapOf cConverge s.me.mask))

def Resv.kind (v : Resv) (tile : Nat) : Nat := SMap.get 0 v.kinds tile

/-- Check 3 (R245): the tile is reserved, and its partner too where a pair is needed. -/
def tileOk (v : Resv) (tile : Nat) (pair : Bool) : Bool :=
  decide (tile < v.n) && (!pair || (decide (tile % 2 = 0) && decide (tile + 1 < v.n)))
def needTile (s : State) (tile : Nat) (pair : Resv → Bool) : Except Stop Resv :=
  match s.mine.resv with
  | some v => if tileOk v tile (pair v) then .ok v else .error (tileTrap s tile)
  | none => .error (tileTrap s tile)

/-- A word whose tile may hold any kind: an F64 tile brings its partner with it. -/
def anyTile (s : State) (tile : Nat) : Except Stop Resv := needTile s tile (fun v => v.kind tile == 2)

/-- MZERO (R257): the kind changes as the word issues. -/
def execMzero (la : BitVec 4) (k : BitVec 7) (t : BitVec 6) (s : State) : Out := finish s do
  let _ ← oneGroup s
  let v ← needTile s t.toNat (fun _ => decide (k = 2))
  let ks := SMap.set 0 v.kinds t.toNat k.toNat
  let ks := if k = 2 then SMap.set 0 ks (t.toNat + 1) 2 else ks
  .ok ((s.onMine (fun T => { T with resv := some { v with kinds := ks } })).post la 1 (.mzero t.toNat k.toNat))

/-- The registers of an A panel as the word issues, by 32 × register + row. -/
def panel (T : Team) (g va n : Nat) : SMap W32 :=
  SMap.ofRun 0 0 ((List.range n).flatMap (fun r => (List.range 32).map (fun i => T.vr (va + r) (32 * g + i))))

/-- Check 6: the data registers carry one tag of Table 13-2, the scale register RAW or N8x4. -/
def panelTags (T : Team) (g va d : Nat) (scale : Bool) (tag : BitVec 4) : Bool :=
  (decide (tag = tRaw) || (tagKind tag false).isSome)
  && (List.range d).all (fun r => T.vtag (va + r) g == tag)
  && (!scale || T.vtag (va + d) g == tRaw || T.vtag (va + d) g == 11)

/-- How many registers from va on are mapped, and how many of them RAW: a RAW A takes the format that B has at acceptance, so up to sixteen
registers may be read (R250). -/
def rawHeld (T : Team) (cnt g va : Nat) : Nat × Nat :=
  let rs := (List.range 16).map (fun r => va + r)
  ((rs.takeWhile (fun r => !unmapped cnt r)).length, (rs.takeWhile (fun r => T.vtag r g == tRaw)).length)

/-- MMA and MMAS (R253, R255; 14 R283). The registers of a RAW A that B's format at issue does not ask for are read with the others. -/
def mmaWord (sparse : Bool) (la : BitVec 4) (u : BitVec 1) (a : BitVec 7) (b t : BitVec 6) (s : State) : Out := finish s do
  needScalars s [b, b + 1]
  let T := s.mine
  let g ← oneGroup s
  let va := a.toNat
  let num := s.sreg b
  let coord := s.sreg (b + 1)
  let v ← needTile s t.toNat (fun _ => false)
  let withScales := !sparse && coord.getLsbD 63
  let hit := v.latch.any (fun l => l.group == g && l.va == va)
  let tag := match v.latch with | some l => if hit then l.tag else T.vtag va g | none => T.vtag va g
  require ((tagKind tag withScales).all (fun k => k == v.kind t.toNat)) (.trap (trapOf cTag s.me.mask))
  let f := if num.toNat < 4096 then (s.entry T.ctx num.toNat).fmt else 0
  let d := aData tag f
  let scale := withScales && scaledTag tag
  let n := d + bit1 scale
  let regs := (List.range n).map (fun r => va + r)
  if !hit then
    require (regs.all (fun r => !T.regBusy r s.me.mask)) .stall
    checkBound s regs
    require (panelTags T g va d scale tag) (.trap (trapOf cTag s.me.mask))
  let n' := if tag = tRaw then max n 16 else n
  let A := match v.latch with | some l => if hit then l.regs else panel T g va n' | none => panel T g va n'
  .ok (s.post la 1 (.mma sparse (decide (u = 1)) t.toNat g tag va A num coord 0 (if hit then (16, 16) else rawHeld T s.me.cnt g va)))

/-- MMA (R255). -/
def execMma (la : BitVec 4) (u : BitVec 1) (a : BitVec 7) (b t : BitVec 6) (s : State) : Out := mmaWord false la u a b t s
/-- MMAS (14 R283, R285). -/
def execMmas (la : BitVec 4) (u : BitVec 1) (a : BitVec 7) (b t : BitVec 6) (s : State) : Out := mmaWord true la u a b t s

/-- MRD (R258): posted in engine order, not counted. -/
def execMrd (la : BitVec 4) (a : BitVec 7) (b t : BitVec 6) (s : State) : Out := finish s do
  needScalars s [b]
  let g ← oneGroup s
  let v ← anyTile s t.toNat
  let kind := v.kind t.toNat
  let regs := (List.range 16).map (fun r => a.toNat + r)
  require (regs.all (fun r => !s.mine.regBusy r s.me.mask)) .stall
  require (decide (kind ≠ 2) || decide (a.toNat % 2 = 0)) (boundTrap s.me.mask a.toNat)
  checkBound s regs
  let j := (s.sreg b).toNat % (if kind = 2 then 32 else 16)
  .ok (s.post la 5 (.mrd t.toNat kind g a.toNat j))

/-- MSTA (R259). -/
def execMsta (la : BitVec 4) (sat : BitVec 1) (r : BitVec 3) (b t : BitVec 6) (s : State) : Out := finish s do
  needScalars s [b, b + 1]
  let g ← oneGroup s
  let v ← anyTile s t.toNat
  .ok (s.post la 1 (.msta t.toNat (v.kind t.toNat) g r.toNat (decide (sat = 1)) (s.sreg b) (s.sreg (b + 1))))

/-- MQNT (R260): reads no tile, but holds the team's entry (R245). -/
def execMqnt (la : BitVec 4) (r : BitVec 3) (b : BitVec 6) (s : State) : Out := finish s do
  needScalars s [b, b + 1, b + 2, b + 3]
  let g ← oneGroup s
  let _ ← needTile s 0 (fun _ => false)
  .ok (s.post la 1 (.mqnt g r.toNat (s.sreg b) (s.sreg (b + 1)) (s.sreg (b + 2)) (s.sreg (b + 3))))

/-- A pair half (R262). -/
def mpairWord (send : Bool) (la : BitVec 4) (p : BitVec 3) (b t : BitVec 6) (s : State) : Out := finish s do
  needScalars s [b]
  needPreds s [p]
  let g ← oneGroup s
  let v ← anyTile s t.toNat
  .ok (s.post la 1 (.mpair send t.toNat (v.kind t.toNat) g p.toNat (lo32 (s.sreg b)) (hi32 (s.sreg b)) []))
/-- MPAIR.SEND (R262). -/
def execMpairSend (la : BitVec 4) (p : BitVec 3) (b t : BitVec 6) (s : State) : Out := mpairWord true la p b t s
/-- MPAIR.RECV (R262). -/
def execMpairRecv (la : BitVec 4) (p : BitVec 3) (b t : BitVec 6) (s : State) : Out := mpairWord false la p b t s

/-- CBAR (R265). -/
def execCbar (s : State) : Out := finish s (s.arriveHere 16)

/-! Acceptance (R202, R246, R254). -/

/-- A rank with a live team in the issuing core's quad (Table 13-5, DETAIL 2). -/
def State.inQuad (s : State) (t : Nat) (e : W64) : Bool :=
  aperture e && (match (s.team t).rankTeam t (addrRank e) with
    | some u => (s.team u).live && !(s.team u).retiring && quadOf (s.team u).core == quadOf (s.team t).core
    | none => false)

/-- A run from a tensor's base lies in the named window (Table 13-5, DETAIL 4). -/
def State.baseHolds (s : State) (t : Nat) (base : W64) (n : Nat) : Bool :=
  addrPlain base && decide (addrOff base + n ≤ (s.team (s.baseTeam t base)).w)

/-- The bytes of a region of rows and 256 columns in range of the extents lie in their window, and so does the whole scale tile
(Table 13-5, DETAIL 4). -/
def State.regionIn (s : State) (t : Nat) (e : Entry) (k0 rows n0 : Nat) : Bool :=
  let k1 := min (k0 + rows) (e.dim 1)
  let n1 := min (n0 + 256) (e.dim 0)
  (decide (k1 ≤ k0) || decide (n1 ≤ n0) || s.baseHolds t e.base ((k1 - 1) * (e.stride 1).toNat + ceilDiv (n1 * fmtBits e.fmt) 8))
  && (e.skind == 0 || s.baseHolds t e.scale e.scaleLen)

def coordRb (c : W64) : Nat := (fld c 0 24).toNat
def coordCb (c : W64) : Nat := (fld c 24 24).toNat

/-- What a word asks of an entry, by DETAIL of Table 13-5. -/
structure EntryUse where
  fits  : Entry → Bool                -- the pairing, AS, SKIND and FMT of DETAIL 3
  inWin : Entry → Bool                -- DETAIL 4
  coord : Bool                        -- DETAIL 5
  dest  : Bool                        -- DETAIL 6

/-- The catalogue fault of an entry that a word cannot use, or the entry. -/
def State.useEntry (s : State) (t : Nat) (num : W64) (u : EntryUse) : Except UnitFault Entry :=
  let n := num.toNat % 4096
  let bad (d : Nat) : Except UnitFault Entry := .error { cause := cCatalogue, detail := d, code := n, addr := 0 }
  let e := s.entry (s.team t).ctx n
  if 4096 ≤ num.toNat then bad 0
  else if n = 0 ∨ !e.valid then bad 1
  else if !e.spad ∨ !s.inQuad t e.base ∨ (e.skind ≠ 0 ∧ !s.inQuad t e.scale) then bad 2
  else if e.ndim ≠ 2 ∨ !u.fits e then bad 3
  else if !u.inWin e then bad 4
  else if !u.coord then bad 5
  else if u.dest ∧ e.ro then bad 6
  else .ok e

/-- A bound fault found at acceptance. -/
def lateBound (code : Nat) : UnitFault := { cause := cBound, detail := 0, code := code, addr := 0 }

/-- The checks of an MMA or MMAS as its unit accepts it: the entry, then what A's tag left open (R250, R253; 14 R283). Gives the entry, the
pairing and the generator context. -/
def State.acceptMma (s : State) (t : Nat) (sparse : Bool) (tile : Nat) (tag : BitVec 4) (va : Nat) (num coord : W64)
    (held : Nat × Nat) : Except UnitFault (Entry × Nat) := do
  let as_ := coord.getLsbD 63
  let pair (e : Entry) : Option Pairing := pairing tag e.fmt e.skind as_
  let use : EntryUse :=
    { fits := fun e => decide (e.fmt < 16) && (pair e).isSome && e.pen == sparse && !(sparse && (as_ || decide (e.skind ≠ 0)))
      inWin := fun e =>
        if sparse then s.baseHolds t e.base (e.stride 1).toNat
        else match pair e with
          | some p => s.regionIn t e (p.K * coordRb coord) p.K (256 * coordCb coord)
          | none => true
      coord := if sparse then decide (fld coord 48 14 = 0) else decide (fld coord 48 15 = 0)
      dest := false }
  let e ← s.useEntry t num use
  let T := s.team t
  let p := (pair e).getD { K := 1, kind := 0 }
  match T.resv with
  | none => .error (lateBound (0x80 + tile))
  | some v =>
    if !tileOk v tile (p.kind == 2) then .error (lateBound (0x80 + tile))
    else if v.kind tile ≠ p.kind then .error { cause := cTag, detail := 0, code := 0, addr := 0 }
    else if tag = tRaw ∧ e.fmt = 0 ∧ va % 2 = 1 then .error (lateBound va)
    else if tag = tRaw ∧ held.1 < aData tag e.fmt then .error (lateBound (va + held.1))
    else if tag = tRaw ∧ held.2 < aData tag e.fmt then .error { cause := cTag, detail := 0, code := 0, addr := 0 }
    else if sparse then
      match T.gcs.find? (fun c => !c.rel && c.no == e.pctx) with
      | some c => .ok (e, c.uid)
      | none => .error (lateBound (0xC0 + e.pctx))
    else .ok (e, 0)

/-- The entry that an MSTA stores to (R259). -/
def State.acceptMsta (s : State) (t : Nat) (num coord : W64) : Except UnitFault Entry :=
  s.useEntry t num
    { fits := fun e => !e.pen && !coord.getLsbD 63 && decide (e.fmt ≠ 17) && decide (e.skind ≠ 2) && (decide (e.fmt ≠ 16) || decide (e.skind = 0))
      inWin := fun e => s.regionIn t e (32 * coordRb coord) 32 (256 * coordCb coord)
      coord := decide (fld coord 48 15 = 0)
      dest := true }

/-- The entries of an MQNT, the source before the destination (R260). -/
def State.acceptMqnt (s : State) (t : Nat) (num coord dnum dcoord : W64) : Except UnitFault (Entry × Entry) := do
  let use (c : W64) (fits : Entry → Bool) (dest : Bool) : EntryUse :=
    { fits := fun e => !e.pen && !c.getLsbD 63 && fits e
      inWin := fun e => s.regionIn t e (64 * coordRb c) 64 (256 * coordCb c)
      coord := decide (fld c 48 15 = 0)
      dest := dest }
  let x ← s.useEntry t num (use coord (fun e => decide (e.skind = 0) && decide (1 ≤ e.fmt) && decide (e.fmt ≤ 3)) false)
  let y ← s.useEntry t dnum (use dcoord (fun e => decide (e.skind ≠ 0)) true)
  .ok (x, y)

/-! The queue of an entry (R246, R247). -/

/-- Operations queued at the engine, oldest first. -/
def Team.matrixQueue (T : Team) : List EngOp := T.engs.filter (fun e => e.matrix && decide (e.stage = .accepted))

/-- The team of a grid at a linear index (R262). -/
def State.teamAt (s : State) (t idx : Nat) : Option Nat :=
  let T := s.team t
  let lin (U : Team) : Nat := U.tidx.1 + U.gdim.1 * (U.tidx.2.1 + U.gdim.2.1 * U.tidx.2.2)
  match s.teams.find? (fun p => p.2.live && !p.2.retiring && p.2.grid == T.grid && lin p.2 == idx) with
  | some p => some p.1
  | none => none

/-- A half that is pending: its unit has accepted it, and it has neither completed nor aborted. -/
def EngOp.pendingHalf (e : EngOp) : Bool := e.half && (decide (e.stage = .accepted) || decide (e.stage = .granted))

/-- A half's key: direction, partner and pair tag. -/
def EngOp.pairKey (e : EngOp) : Bool × W32 × W32 :=
  match e.kind with
  | .mpair send _ _ _ _ partner tag _ => (send, partner, tag)
  | _ => (false, 0, 0)

/-- The oldest pending half of a team with a key. -/
def Team.oldestHalf (T : Team) (key : Bool × W32 × W32) : Option EngOp := T.engs.find? (fun e => e.pendingHalf && e.pairKey == key)

/-- The half that matches a pending half, where there is one: the oldest of the other direction and the same tag of the team that it names,
which names its team (R262). -/
def State.partnerHalf (s : State) (t : Nat) (e : EngOp) : Option (Nat × EngOp) :=
  match s.teamAt t e.pairKey.2.1.toNat with
  | none => none
  | some u =>
    match (s.team u).engs.find? (fun o => o.pendingHalf && (o.pairKey.1 != e.pairKey.1) && o.pairKey.2.2 == e.pairKey.2.2
        && s.teamAt u o.pairKey.2.1.toNat == some t) with
    | some o => if (s.team t).oldestHalf e.pairKey == some e then some (u, o) else none
    | none => none

/-- Whether an operation stands at the head of its team's queue. -/
def State.atHead (s : State) (t : Nat) (e : EngOp) : Bool := match (s.team t).matrixQueue with | h :: _ => h.id == e.id | [] => false

/-- Pair-buffer entries that a tile of a kind takes. -/
def pairSize (kind : Nat) : Nat := if kind = 2 then 2 else 1

/-- The windows of a cluster's teams are whole again (11 R235). -/
def State.clusterWhole (s : State) (t : Nat) : Bool := (t :: (s.team t).cluster).all (fun u => (s.team u).unrestored.isEmpty)

/-- Whether an operation at the head of its queue is ready, but for the banks of the scratchpad (R247; log 18): an MMAS follows every earlier
EPLD of its context (14 R282), a SEND finds room in the receiving quad, a RECV has its SEND. -/
def State.ready (s : State) (t : Nat) (e : EngOp) : Bool :=
  let T := s.team t
  s.clusterWhole t && (match e.kind with
  | .mma true _ _ _ _ _ _ _ _ gc _ =>
    T.engs.all (fun o => decide (e.id ≤ o.id) || (match o.kind with | .epld c _ _ => decide (c ≠ gc) | _ => true))
  | .mpair true _ kind _ _ partner _ _ =>
    (match s.teamAt t partner.toNat with
     | some u => decide ((s.quad (quadOf (s.team u).core)).pairs + pairSize kind ≤ Config.quadPairs)
     | none => false)
  | .mpair false _ _ _ _ _ _ _ => (match s.partnerHalf t e with | some (u, a) => decide (a.stage = .granted) || s.atHead u a | none => false)
  | _ => true)

/-- The entries of a quad whose head operation is ready. -/
def State.contenders (s : State) (quad : Nat) : List (Nat × EngOp) :=
  (s.teams.filter (fun p => p.2.live && p.2.resv.isSome && quadOf p.2.core == quad)).filterMap (fun p =>
    match p.2.matrixQueue with
    | e :: _ => if s.ready p.1 e then some (p.1, e) else none
    | [] => none)

/-- Whether the head operation of a team's entry has waited as head for 4,096 cycles (R247). -/
def State.urgentEntry (s : State) (t : Nat) : Bool := (s.team t).resv.any (fun v => v.urgent || decide (v.headAt + 4096 ≤ s.clock))

/-- Whether entry a goes before entry b (R247): the urgent class, priority, age, core, slot. -/
def State.goesFirst (s : State) (a b : Nat × EngOp) : Bool :=
  let A := s.team a.1
  let B := s.team b.1
  if s.urgentEntry a.1 ≠ s.urgentEntry b.1 then s.urgentEntry a.1
  else if A.prio ≠ B.prio then decide (B.prio < A.prio)
  else if a.2.since ≠ b.2.since then decide (a.2.since < b.2.since)
  else if A.core ≠ B.core then decide (A.core < B.core)
  else decide (A.slot ≤ B.slot)

/-- The next operation of an entry becomes its head. -/
def State.newHead (s : State) (t : Nat) : State :=
  s.onTeam t (fun T => { T with resv := T.resv.map (fun v => { v with urgent := false, headAt := s.clock }) })

/-! Execution. -/

/-- An operation of the engine completes with a tile. -/
def State.putTile (s : State) (t : Nat) (e : EngOp) (kind tile : Nat) (r : List (Nat × Flags)) : State :=
  (s.onTeam t (fun T => T.setTile kind tile (r.map Prod.fst))).engDone t e (orAll r)

/-- MRD's registers (R258). -/
def Team.readSlice (T : Team) (tile kind g va j : Nat) (m : Mask) : Team :=
  let rows := (List.range 32).map (fun i => (32 * g + i, T.tileRow kind tile i))
  if kind = 2 then
    (List.range 8).foldl (fun (T : Team) q =>
      let vals (f : Nat → Nat) : List (Nat × W32) := rows.map (fun r => (r.1, BitVec.ofNat 32 (f (r.2.getD (8 * j + q) 0))))
      (T.putVec (va + 2 * q) m (fun _ => tRaw) (vals id)).putVec (va + 2 * q + 1) m (fun _ => tRaw) (vals (fun v => v / 2 ^ 32))) T
  else
    (List.range 16).foldl (fun (T : Team) q =>
      T.putVec (va + q) m (fun _ => if kind = 0 then tF32 else tI32)
        (rows.map (fun r => (r.1, BitVec.ofNat 32 (r.2.getD (16 * j + q) 0))))) T

/-- Writes rows of codes to a tensor: those of its extents, from column n0 on. -/
def State.putRows (s : State) (x : Tensor) (k0 n0 : Nat) (rows : List (List Nat)) : State :=
  let w := min (x.e.dim 0) (n0 + 256) - n0
  (rows.zip (List.range rows.length)).foldl (fun s p =>
    if k0 + p.2 < x.e.dim 1 ∧ n0 < x.e.dim 0 then s.putRow x (k0 + p.2) n0 (p.1.take w) else s) s

/-- Writes a row of scale codes, those of columns outside the extents too, as far as the scale tile of R249 has a place for them
(R260; log 51). -/
def State.putScales (s : State) (x : Tensor) (k0 n0 : Nat) (codes : List Nat) : State :=
  if k0 / x.e.blockRows < x.e.blocks ∧ n0 < x.e.sp then
    s.putWin x.v (x.e.scaleAt (k0 / x.e.blockRows) n0) ((codes.take (x.e.sp - n0)).map (fun c => BitVec.ofNat 8 c))
  else s

/-- A list of columns from a list of rows of 256. -/
def columns (rows : List (List Nat)) : List (List Nat) := (List.range 256).map (fun n => rows.map (fun r => r.getD n 0))

/-- MSTA at execution (R259). Under stochastic rounding row i draws from the generator of its lane, a step per written element.
DESIGN CHOICE (log 65): a block that lies partly inside the extents sets the flags of all its 32 elements, the rows outside among them. -/
def State.runMsta (s : State) (t : Nat) (e : EngOp) (tile kind g mode : Nat) (sat : Bool) (coord : W64) (ent : Entry) : State :=
  let x := s.tensor t ent
  let T := s.team t
  let k0 := 32 * coordRb coord
  let n0 := 256 * coordCb coord
  let cols := min 256 (ent.dim 0 - n0)
  let written (i : Nat) : Nat := if k0 + i < ent.dim 1 then cols else 0
  let gens := (List.range 32).map (fun i => genRun (written i) (T.gen (32 * g + i)))
  let rand (i n : Nat) : Nat := ((gens.getD i []).getD n 0).toNat % 65536
  let tileRows := (List.range 32).map (T.tileRow kind tile)
  let s1 := if mode = 5 then
      s.onTeam t (fun T => (List.range 32).foldl (fun T i =>
        match (gens.getD i []).getLast? with
        | some g' => { T with gens := SMap.set 0 T.gens (32 * g + i) g' }
        | .none => T) T)
    else s
  if ent.skind = 0 then
    let out := (tileRows.zip (List.range 32)).map (fun p =>
      (p.1.zip (List.range 256)).map (fun q => tileConv kind ent.fmt mode sat (rand p.2 q.2) q.1))
    let fl := (out.zip (List.range 32)).foldl (fun f p => f ||| orAll (p.1.take (written p.2))) 0
    (s1.putRows x k0 n0 (out.map (fun r => r.map Prod.fst))).engDone t e fl
  else
    let val (c : Nat) : Val := match kind with
      | 1 => Val.ofInt ((IFmt.mk 32 true).decode c)
      | 2 => fp64.decode c
      | _ => fp32.decode c
    let out := ((columns tileRows).zip (List.range 256)).map (fun p =>
      quantE8M0 (blockFmt ent.fmt) mode ((List.range 32).map (fun i => rand i p.2)) (p.1.map val))
    let fl := if k0 < ent.dim 1 then (out.take cols).foldl (fun f c => f ||| c.2.2) 0 else 0
    let rows := (List.range 32).map (fun i => out.map (fun c => c.2.1.getD i 0))
    ((s1.putRows x k0 n0 rows).putScales x k0 n0 (out.map (fun c => c.1))).engDone t e fl

/-- MQNT at execution (R260). -/
def State.runMqnt (s : State) (t : Nat) (e : EngOp) (mode : Nat) (coord dcoord : W64) (src dst : Entry) : State :=
  let x := s.tensor t src
  let y := s.tensor t dst
  let n0 := 256 * coordCb dcoord
  let k0 := 64 * coordRb dcoord
  let val (i n : Nat) : Val :=
    match s.tensorCode x (64 * coordRb coord + i) (256 * coordCb coord + n) with
    | some c => fltVal src.fmt c
    | none => .fin false 0 0
  let cols := min 256 (dst.dim 0 - n0)
  let block (h : Nat) : List (Nat × List Nat × Flags) := (List.range 256).map (fun n =>
    if dst.skind = 2 then quantQN4 (s.superScale y k0 (n0 + n)) ((List.range 64).map (fun i => val i n))
    else quantE8M0 (blockFmt dst.fmt) mode (List.replicate 32 0) ((List.range 32).map (fun i => val (32 * h + i) n)))
  let put (s : State) (h : Nat) : State :=
    let bs := block h
    let k := k0 + 32 * h
    let rows := (List.range dst.blockRows).map (fun i => bs.map (fun c => c.2.1.getD i 0))
    let fl := if k < dst.dim 1 then (bs.take cols).foldl (fun f c => f ||| c.2.2) 0 else 0
    (((s.putRows y k n0 rows).putScales y k n0 (bs.map (fun c => c.1))).orFlagsOf t e.strm fl)
  let s1 := put s 0
  let s2 := if dst.skind = 2 then s1 else put s1 1
  s2.engDone t e 0

/-- The faults of an MMAS (14 R286), or its tile. -/
def State.runMmas (s : State) (t : Nat) (e : EngOp) (tile : Nat) (tag : BitVec 4) (a : SMap W32) (coord : W64) (gc : Nat) (ent : Entry) : State :=
  let T := s.team t
  let p := (pairing tag ent.fmt 0 false).getD { K := 1, kind := 0 }
  let tr := coord.getLsbD 62
  let bits := fmtBits ent.fmt
  let x := s.tensor t ent
  let fault (cause code : Nat) (addr : Nat) : State := s.engFault t e { cause := cause, detail := 0, code := code, addr := BitVec.ofNat 64 addr }
  match T.gcs.find? (fun c => c.uid == gc) with
  | none => fault cNonInv 0 0
  | some c =>
    match (if c.st = 1 then loadState c.hdr c.words else .more) with
    | .ready P =>
      if tr && !c.inv then fault cNonInv c.no 0
      else
        let k0 := p.K * coordRb coord
        let n0 := 256 * coordCb coord
        let ks := List.range p.K
        let lists := ks.map (fun k => if tr then P.col c.hdr (k0 + k) else P.row c.hdr (k0 + k))
        match (lists.zip ks).find? (fun q => decide (256 < q.1.length)) with
        | some q => fault cPattern c.no (k0 + q.2)
        | none =>
          -- the present members of the block: k, n, the row in P, the position of the value
          let terms := (lists.zip ks).flatMap (fun q =>
            (q.1.filter (fun n => decide (n0 ≤ n) && decide (n < n0 + 256))).filterMap (fun n =>
              let r := if tr then n else k0 + q.2
              let col := if tr then k0 + q.2 else n
              if r < ent.dim 1 ∧ col < ent.dim 0 then some (q.2, n - n0, r, P.position c.hdr r col) else none))
          match terms.find? (fun m => decide ((ent.stride 1).toNat ≤ (m.2.2.2 * bits + bits - 1) / 8)) with
          | some m => fault cPattern c.no m.2.2.1
          | none =>
            let code (m : Nat) : Nat := (s.team x.u).element (addrOff ent.base) bits m
            let f := aFmt tag ent.fmt
            let cols := (List.range 256).map (fun n => (terms.filter (fun m => m.2.1 == n)).map (fun m => (m.1, code m.2.2.2)))
            let out := (List.range 32).flatMap (fun i =>
              ((T.tileRow p.kind tile i).zip cols).map (fun q =>
                if q.2.isEmpty then (q.1, 0)
                else tileStep p.kind false q.1
                  (q.2.map (fun m => (fltVal f (aCode a tag ent.fmt i m.1), fltVal ent.fmt m.2)))
                  (q.2.map (fun m => (intVal f (aCode a tag ent.fmt i m.1), intVal ent.fmt m.2)))))
            s.putTile t e p.kind tile out
    | _ => fault cNonInv c.no 0

/-- A granted operation executes (R255 to R260). -/
def State.runMatrix (s : State) (t : Nat) (e : EngOp) : State :=
  let T := s.team t
  let ent (i : Nat) : Entry := e.cats.getD i 0
  match e.kind with
  | .mzero tile kind => s.putTile t e kind tile (List.replicate 8192 (0, 0))
  | .mma false _ tile _ tag _ a _ coord _ _ =>
    let x := s.tensor t (ent 0)
    let as_ := coord.getLsbD 63
    let p := (pairing tag x.e.fmt x.e.skind as_).getD { K := 1, kind := 0 }
    s.putTile t e p.kind tile (s.product T p tile tag a as_ x (coordRb coord) (coordCb coord))
  | .mma true _ tile _ tag _ a _ coord gc _ => s.runMmas t e tile tag a coord gc (ent 0)
  | .mrd tile kind g va j => (s.onTeam t (fun T => T.readSlice tile kind g va j e.mask)).engDone t e 0
  | .msta tile kind g mode sat _ coord => s.runMsta t e tile kind g mode sat coord (ent 0)
  | .mqnt _ mode _ coord _ dcoord => s.runMqnt t e mode coord dcoord (ent 0) (ent 1)
  | .mpair true tile kind g pd partner tag _ =>
    -- the sender's tile waits in the receiving quad's pair buffer (R262)
    let q := match s.teamAt t partner.toNat with | some u => quadOf (s.team u).core | none => quadOf T.core
    (s.onQuad q (fun Q => { Q with pairs := Q.pairs + pairSize kind })).onTeam t (fun T =>
      T.putEng { e with stage := .granted
                        buffer := some q
                        kind := .mpair true tile kind g pd partner tag ((T.tileVals 0 tile ++ (if kind = 2 then T.tileVals 0 (tile + 1) else [])).map
                                  (fun v => BitVec.ofNat 32 v)) })
  | _ => s

/-- Whether an entry goes before every other ready one of its quad (R247). -/
def State.wins (s : State) (quad : Nat) (c : Nat × EngOp) : Bool := (s.contenders quad).all (fun d => d.1 == c.1 || s.goesFirst c d)

/-- MATRIX_ENGINE_GRANT (R247): the arbiter of a quad grants the engine to the entry that goes before every other ready one. A RECV's grant is
PAIR_MATCH. -/
def execMatrixEngineGrant (quad team : Nat) (s : State) : Out :=
  match (s.contenders quad).find? (fun c => c.1 == team) with
  | none => .next s
  | some c => if s.wins quad c && !(c.2.half && !c.2.pairKey.1) then .next ((s.runMatrix team c.2).newHead team) else .next s

/-- ENTRY_URGENT (R247): a head operation that has waited as head for 4,096 cycles makes its entry urgent. -/
def execEntryUrgent (quad team : Nat) (s : State) : Out :=
  let T := s.team team
  match T.resv with
  | some v =>
    if quadOf T.core = quad ∧ !T.matrixQueue.isEmpty ∧ v.headAt + 4096 ≤ s.clock then
      .next (s.onTeam team (fun T => { T with resv := some { v with urgent := true } }))
    else .next s
  | none => .next s

/-! Pairs (R262 to R264). -/

/-- A half completes with pd in its 32 lanes; the pair-buffer entries of a SEND that waited are free again. -/
def State.endHalf (s : State) (t : Nat) (e : EngOp) (ok : Bool) : State :=
  match e.kind with
  | .mpair _ _ kind _ pd _ _ _ =>
    let s1 := s.onTeam t (fun T => T.setPred (BitVec.ofNat 3 pd) e.mask (if ok then e.mask else 0))
    let s2 := match e.buffer with | some q => s1.onQuad q (fun Q => { Q with pairs := Q.pairs - pairSize kind }) | none => s1
    let s3 := s2.engDone t { e with buffer := none } 0
    if e.stage = .accepted then s3.newHead t else s3
  | _ => s

/-- PAIR_MATCH (R262, R263): a SEND and a RECV that name each other's teams, the oldest of their keys; the RECV, and a SEND that does not wait
in a buffer, stand at the heads of their queues. The RECV takes the engine of its quad (R247); neither half has waited for 65,536 cycles (R264). -/
def execPairMatch (sender sendOp receiver recvOp : Nat) (s : State) : Out :=
  match (s.team sender).eng? sendOp, (s.team receiver).eng? recvOp with
  | some a, some b =>
    let aligned := s.teamAt sender a.pairKey.2.1.toNat == some receiver && s.teamAt receiver b.pairKey.2.1.toNat == some sender
      && a.pairKey.2.2 == b.pairKey.2.2 && a.pairKey.1 && !b.pairKey.1 && a.pendingHalf && b.pendingHalf
    let oldest := (s.team sender).oldestHalf a.pairKey == some a && (s.team receiver).oldestHalf b.pairKey == some b
    let inTime := decide (s.clock < a.since + Config.reservationWait) && decide (s.clock < b.since + Config.reservationWait)
    if aligned && oldest && s.atHead receiver b && (decide (a.stage = .granted) || s.atHead sender a) && inTime
       && s.wins (quadOf (s.team receiver).core) (receiver, b) then
      match a.kind, b.kind with
      | .mpair _ tileA kindA _ _ _ _ data, .mpair _ tileB kindB _ _ _ _ _ =>
        if kindA ≠ kindB then .next ((s.endHalf sender a false).endHalf receiver b false)
        else
          let sent : List Nat :=
            if a.stage = .granted then
              (List.range 8192).map (fun i => (data.getD i 0).toNat + (if kindA = 2 then 2 ^ 32 * (data.getD (8192 + i) 0).toNat else 0))
            else (s.team sender).tileVals kindA tileA
          let add (x y : Nat) : Nat × Flags := match kindB with
            | 1 => dotInt ((IFmt.mk 32 true).decode x) [((IFmt.mk 32 true).decode y, 1)]
            | k =>
              let F := if k = 2 then fp64 else fp32
              let v := Val.add false (F.decode x) (F.decode y)
              let r := F.rnd 0 false 0 v.1
              (r.1, v.2 ||| r.2)
          let out := (((s.team receiver).tileVals kindB tileB).zip sent).map (fun p => add p.1 p.2)
          let s1 := (s.onTeam receiver (fun T => T.setTile kindB tileB (out.map Prod.fst))).orFlagsOf receiver b.strm (orAll out)
          .next ((s1.endHalf sender a true).endHalf receiver b true)
      | _, _ => .next s
    else .next s
  | _, _ => .next s

/-- PAIR_ABORT_TIMEOUT (R264): a half aborts 65,536 cycles after its acceptance, or when its partner's team or its own is gone; the half that
matches it aborts with it. -/
def execPairAbortTimeout (team op : Nat) (s : State) : Out :=
  match (s.team team).eng? op with
  | none => .next s
  | some e =>
    let gone := (s.team team).retiring || (s.teamAt team e.pairKey.2.1.toNat).isNone
    if e.pendingHalf && (gone || decide (e.since + Config.reservationWait ≤ s.clock)) then
      let s1 := s.endHalf team e false
      match s.partnerHalf team e with
      | some (u, o) => .next (s1.endHalf u o false)
      | none => .next s1
    else .next s

end Sys2Proof.Machine
end

