-- ==== Sys2Proof/Machine/Fabric.lean ====
section
/-! DEFINITION. The fabric: its six words, operations on this package, what comes back from other packages, collectives, remote enqueue, groups,
windows and links (24 R405 to R418). -/

namespace Sys2Proof.Machine

/-! The words (R408). Their numbers in the model: 0 FPUT, 1 FGET, 2 FATOM, 3 RENQ, 4 COLL, 5 FSIG. -/

/-- Fields of a control word (Table 24-2). -/
def ctlOp (c : W64) : Nat := (fld c 60 4).toNat
def ctlPkg (c : W64) : Nat := (fld c 40 14).toNat
def ctlLen (c : W64) : Nat := (fld c 0 40).toNat

/-- A control word keeps Table 24-2. -/
def controlOk (fn : Nat) (c : W64) : Bool :=
  decide (fld c 54 6 = 0)
  && (match fn with | 2 => decide (ctlOp c ≤ 6) | 5 => decide (ctlOp c ≤ 1) | _ => decide (ctlOp c = 0))
  && (decide (fn ≤ 1) || decide (ctlLen c = 0))

/-- Bytes of an atomic operation (Table 24-3). -/
def fatomSize (c : W64) : Nat := if 5 ≤ ctlOp c then 4 else 8

/-- The control word, then the remote address (R408). -/
def checkRemote (s : State) (fn : Nat) (c e : W64) (align : Nat) : Except Stop Unit := do
  require (controlOk fn c) (strandTrap s cPolicy c)
  require (canonical e && !aperture e) (strandTrap s cAccess e)
  require (decide (e.toNat % align = 0)) (strandTrap s cMisaligned e)

/-- FPUT (R409). -/
def execFput (la : BitVec 4) (a : BitVec 6) (s : State) : Out := finish s do
  needScalars s [a, a + 1, a + 2]
  let c := s.sreg (a + 2)
  checkRemote s 0 c (s.sreg a) 1
  checkRun s (s.sreg (a + 1)) (ctlLen c) 1
  .ok (s.post la 4 (.fabric 0 (s.sreg a) (s.sreg (a + 1)) c 0 0))

/-- FGET (R409). -/
def execFget (la : BitVec 4) (a : BitVec 6) (s : State) : Out := finish s do
  needScalars s [a, a + 1, a + 2]
  let c := s.sreg (a + 2)
  checkRemote s 1 c (s.sreg a) 1
  checkRun s (s.sreg (a + 1)) (ctlLen c) 1
  .ok (s.post la 4 (.fabric 1 (s.sreg a) (s.sreg (a + 1)) c 0 0))

/-- FATOM (R410): a result address of 0 discards the old value. -/
def execFatom (la : BitVec 4) (a : BitVec 6) (s : State) : Out := finish s do
  needScalars s [a, a + 1, a + 2, a + 3, a + 4]
  let c := s.sreg (a + 2)
  let n := fatomSize c
  checkRemote s 2 c (s.sreg a) n
  if s.sreg (a + 1) ≠ 0 then checkRun s (s.sreg (a + 1)) n n
  .ok (s.post la 4 (.fabric 2 (s.sreg a) (s.sreg (a + 1)) c (s.sreg (a + 3)) (s.sreg (a + 4))))

/-- RENQ (R415): the job record is checked as that of R303. -/
def execRenq (la : BitVec 4) (a : BitVec 6) (s : State) : Out := finish s do
  needScalars s [a, a + 1, a + 2, a + 3]
  let c := s.sreg (a + 2)
  checkRemote s 3 c (s.sreg a) 64
  checkRun s (s.sreg (a + 1)) 64 64
  .ok (s.post la 4 (.fabric 3 (s.sreg a) (s.sreg (a + 1)) c (s.sreg (a + 3)) 0))

/-- COLL (R414). -/
def execColl (la : BitVec 4) (a : BitVec 6) (s : State) : Out := finish s do
  needScalars s [a]
  checkRun s (s.sreg a) 64 64
  .ok (s.post la 4 (.fabric 4 (s.sreg a) 0 0 0 0))

/-- FSIG (R411). -/
def execFsig (la : BitVec 4) (a : BitVec 6) (s : State) : Out := finish s do
  needScalars s [a, a + 1, a + 2]
  let c := s.sreg (a + 2)
  checkRemote s 5 c (s.sreg a) 8
  .ok (s.post la 4 (.fabric 5 (s.sreg a) (s.sreg (a + 1)) c 0 0))

/-! The view of an operation. -/

/-- An engine operation of the fabric. -/
structure FabView where
  fn     : Nat
  remote : W64
  loc    : W64                        -- local address, or the value of FSIG
  ctl    : W64
  x      : W64
  y      : W64

def EngOp.fab (e : EngOp) : Option FabView :=
  match e.kind with
  | .fabric fn a b c d f => some { fn := fn, remote := a, loc := b, ctl := c, x := d, y := f }
  | _ => none
def FabView.pkg (v : FabView) : Nat := ctlPkg v.ctl
/-- The operation is addressed to this very package (R406). -/
def FabView.here (v : FabView) : Bool := v.pkg == Config.packageNumber.toNat

/-- A fabric fault (R418). -/
def fabFault (detail code : Nat) (addr : W64) : UnitFault := { cause := cFabric, detail := detail, code := code, addr := addr }
def FabView.fault (v : FabView) (detail : Nat) : UnitFault := fabFault detail v.pkg v.remote

/-- Everything an operation waits for once it is accepted: restored windows; for local operands in memory and for a release, the stream's
earlier accesses (R412); for FSIG, the stream's earlier FPUT, FATOM and FSIG to the same package (R411). -/
def State.fabReady (s : State) (t : Nat) (e : EngOp) (v : FabView) : Bool :=
  let T := s.team t
  s.clusterWhole t
  && (decide (v.fn = 1) || decide (v.fn = 2) || T.releasedBefore e.strm e.id)
  && (decide (v.fn ≠ 5) || T.engs.all (fun o => decide (e.id ≤ o.id) || decide (o.strm ≠ e.strm) || decide (o.stage = .done)
      || (match o.fab with | some w => w.pkg != v.pkg || !(([0, 2, 5] : List Nat).contains w.fn) | none => true)))

/-! Local operands (R412). -/

/-- The bytes of a local run: their places, the lowest address that does not translate, the lowest poisoned place among them. -/
structure LocalRun where
  locs   : List (Option Loc)
  bad    : Option (W64 × Nat)
  poison : Option Nat
  st     : State

def State.localRun (s : State) (t : Nat) (e : W64) (n : Nat) (need : Need) : LocalRun :=
  let r := s.locate t need (runParts e n)
  let hurt := r.locs.filterMap (fun l => match l with | some (.mem pa) => if need.r && r.st.poisoned pa 1 then some pa else none | _ => none)
  { locs := r.locs, bad := r.bad, poison := if hurt.isEmpty then none else some (hurt.foldl min (hurt.headD 0)), st := r.st }

/-- What a local run's failure makes of the operation (R412, 17 R311). -/
def LocalRun.fault (r : LocalRun) : Option UnitFault :=
  match r.bad, r.poison with
  | some b, _ => some (faultOf cPage b.2 b.1)
  | none, some pa => some (faultOf cMachine 0 (BitVec.ofNat 64 pa))
  | none, none => none

/-- Writes bytes at their places; with `free`, any of their units or none, of which it gives the number for each byte (log 2). -/
def State.putLocs (s : State) (locs : List (Option Loc)) (bs : List Byte) (free : Option (Nat → Nat)) : State :=
  let goes (i : Nat) : Bool := match free with | none => true | some unit => decide (Config.pick (s.nonce + unit i) % 2 = 0)
  let s1 := ((locs.zip bs).zip (List.range bs.length)).foldl (fun s p =>
    match p.1.1 with
    | some l => if goes p.2 then s.putByte l p.1.2 else s
    | none => s) s
  if free.isSome then s1.drew bs.length else s1

def State.getLocs (s : State) (locs : List (Option Loc)) : List Byte :=
  locs.map (fun l => match l with | some l => s.byteAt l | none => 0)

/-! Groups and windows (R406, R407). -/

/-- The member of a group on this package. -/
def State.member (s : State) (group : Option W32) : Option Nat :=
  match group with
  | none => none
  | some g =>
    match s.ctxs.find? (fun p => p.2.live && p.2.group == some g) with
    | some p => some p.1
    | none => none

/-- The permissions of a window, by bit. -/
def permR : Nat := 0
def permW : Nat := 1
def permA : Nat := 2

/-- One window holds a whole range and grants a permission. -/
def Context.grants (C : Context) (e : W64) (n perm : Nat) : Bool :=
  C.windows.any (fun w => decide (w.va ≤ e.toNat) && decide (e.toNat + n ≤ w.va + w.len) && w.perms.getLsbD perm)

/-- The places of a range of a context, through the pages that its windows pin; none where a page is gone. -/
def State.pinned (s : State) (ctx : Nat) (e : W64) (n : Nat) : Option (List Nat) :=
  (runParts e n).foldl (fun acc p => match acc, s.walk ctx (va48 p.1) with
    | some l, some f => some (l ++ (List.range p.2).map (fun i => f.pa (va48 p.1) + i))
    | _, _ => none) (some [])

/-- The target side of an access: the places, or DETAIL 1 or 2 (R418). -/
def State.target (s : State) (group : Option W32) (e : W64) (n perm : Nat) : Except Nat (List Nat) :=
  match s.member group with
  | none => .error 1
  | some c =>
    if !(s.ctx c).grants e n perm then .error 2
    else match s.pinned c e n with
      | some l => .ok l
      | none => .error 2

def memLocs (l : List Nat) : List (Option Loc) := l.map (fun pa => some (.mem pa))
def State.hurt (s : State) (l : List Nat) : Bool := l.any (fun pa => s.poisoned pa 1)

/-- The number at places. -/
def State.locsNat (s : State) (l : List Nat) : Nat := natOfBytes (s.getLocs (memLocs l))

/-- FATOM at its home slice: the new value and the flags (Table 24-3). -/
def fatomNew (op old x y : Nat) : Nat × Flags :=
  let i (v : Nat) : Int := (BitVec.ofNat 64 v).toInt
  match op with
  | 0 => atomFn 10 old x
  | 1 => (x, 0)
  | 2 => (if old = y then x else old, 0)
  | 3 => (if i old ≤ i x then x else old, 0)
  | 4 => (if i old ≤ i x then old else x, 0)
  | 5 => atomFn 0 old (x % 2 ^ 32)
  | _ => atomFn 9 old (x % 2 ^ 32)

/-- FSIG at its home slice. -/
def fsigNew (op old x : Nat) : Nat := if op = 0 then (old + x) % 2 ^ 64 else x

/-- Writes the target's bytes at its home slices; tags are cleared and lines filled (R409). -/
def State.putTarget (s : State) (l : List Nat) (bs : List Byte) : State := (s.putLocs (memLocs l) bs none).fillLocs (memLocs l) 0

/-- The run of an FPUT or FGET. -/
def FabView.run (v : FabView) : CopyRun :=
  let n := ctlLen v.ctl
  if v.fn = 0 then { dst := v.remote, nd := n, src := v.loc, ns := n } else { dst := v.loc, nd := n, src := v.remote, ns := n }

/-- The bytes of an FPUT or FGET on this package, from its local places and the target's; a word that is aligned at both ends is one unit
(R409). -/
def FabView.moves (v : FabView) (locals : List (Option Loc)) (l : List Nat) : List CopyByte :=
  ((locals.zip (memLocs l)).zip (List.range l.length)).map (fun p =>
    let x := if v.fn = 0 then p.1 else (p.1.2, p.1.1)
    { src := some x.1, dst := x.2, unit := v.run.unitOf 0 p.2 })

/-! Operations on this package (R406). -/

/-- FPUT, FGET, FATOM and FSIG looped back through the hub. -/
def State.loopback (s : State) (t : Nat) (e : EngOp) (v : FabView) : Out :=
  let group := (s.ctx (s.team t).ctx).group
  let len := ctlLen v.ctl
  let fails (s : State) (d : Nat) : Out := .next (s.engFault t e (v.fault d))
  match v.fn with
  | 0 | 1 =>
    if len = 0 then .next (s.engDone t e 0)
    else
      let put := v.fn == 0
      let r := s.localRun t v.loc len { r := put, w := !put }
      match r.st.target group v.remote len (if put then permW else permR) with
      | .error d => fails r.st d
      | .ok l =>
        if (r.locs.filterMap id).any (fun x => (l.map Loc.mem).contains x) then .next ((r.st.engDone t e 0).wreck (s.team t).ctx)
        else
          let bs := v.moves r.locs l
          let stop : Option UnitFault := match r.fault with
            | some f => some f
            | none => if r.st.hurt l && !put then some (v.fault 3) else none
          -- an FPUT of poisoned bytes moves none
          let held := put && r.poison.isSome && r.bad.isNone
          let goes (i : Nat) : Bool := !e.parts.contains i && !held && (stop.isNone || decide (Config.pick (s.nonce + i) % 2 = 0))
          let s1 := r.st.moveBytes r.st bs goes
          match stop with
          | some f => .next ((s1.drew len).engFault t e f)
          | none => .next ((s1.fillLocs (bs.map CopyByte.dst) 0).engDone t e 0)
  | 2 =>
    let n := fatomSize v.ctl
    let r := s.localRun t v.loc (if v.loc = 0 then 0 else n) { r := false, w := true }
    match r.st.target group v.remote n permA with
    | .error d => fails r.st d
    | .ok l =>
      if r.locs.any (fun x => (memLocs l).contains x) then .next ((r.st.engDone t e 0).wreck (s.team t).ctx)
      else match r.fault with
        | some f => .next (r.st.engFault t e f)
        | none =>
          if r.st.hurt l then fails r.st 3
          else
            let old := r.st.locsNat l
            let y := fatomNew (ctlOp v.ctl) old v.x.toNat v.y.toNat
            .next ((((r.st.putTarget l (bytesOfNat n y.1)).putLocs r.locs (bytesOfNat n old) none).fillLocs r.locs 0).engDone t e y.2)
  | 5 =>
    match s.target group v.remote 8 permA with
    | .error d => fails s d
    | .ok l =>
      if s.hurt l then fails s 3
      else .next ((s.putTarget l (bytesOfNat 8 (fsigNew (ctlOp v.ctl) (s.locsNat l) v.loc.toNat))).engDone t e 0)
  | _ => .next s

/-- One unit of an FPUT or FGET on this package moves ahead of the rest: bytes move in any order (R409). -/
def State.fabPart (s : State) (t : Nat) (e : EngOp) (v : FabView) (part : Nat) : State :=
  let put := v.fn == 0
  let r := s.localRun t v.loc (ctlLen v.ctl) { r := put, w := !put }
  if 1 < v.fn ∨ !v.here ∨ !s.fabReady t e v then s
  else match r.st.target (s.ctx (s.team t).ctx).group v.remote (ctlLen v.ctl) (if put then permW else permR) with
    | .error _ => s
    | .ok l =>
      let bs := (v.moves r.locs l).filter (fun b => b.unit == part)
      if e.parts.contains part ∨ bs.isEmpty ∨ (r.st.copyPoison bs).isSome then s
      else (r.st.moveBytes r.st bs (fun _ => true)).onTeam t (fun T => T.putEng { e with parts := part :: e.parts })

/-- An operation of another package at its home slice; one that its windows do not admit, or whose bytes are poisoned, is not performed, and
its own package learns why (R409 to R411, R416, R418). -/
def State.incoming (s : State) (group : Option W32) (addr : W64) (k : RemoteKind) : State :=
  let rmw (n : Nat) (f : Nat → Nat) : State :=
    match s.target group addr n permA with
    | .ok l => if decide (addr.toNat % n = 0) && !s.hurt l then s.putTarget l (bytesOfNat n (f (s.locsNat l))) else s
    | .error _ => s
  match k with
  | .put bs =>
    match s.target group addr bs.length permW with
    | .ok l => s.putTarget l bs
    | .error _ => s
  | .get n =>
    match s.target group addr n permR with
    | .ok l => s.fillLocs (memLocs l) 0
    | .error _ => s
  | .atom op x y => if op ≤ 6 then rmw (if 5 ≤ op then 4 else 8) (fun old => (fatomNew op old x.toNat y.toNat).1) else s
  | .sig op x => if op ≤ 1 then rmw 8 (fun old => fsigNew op old x.toNat) else s

/-- REMOTE_OPERATION (R416). -/
def execRemoteOperation (op : RemoteOp) (s : State) : Out :=
  match op.origin with
  | none => .next (s.incoming (some op.group) op.addr op.kind)
  | some (t, id) =>
    match (s.team t).eng? id with
    | none => .next s
    | some e =>
      match e.fab with
      | none => .next s
      | some v => if e.stage = .accepted ∧ v.here ∧ s.fabReady t e v then s.loopback t e v else .next s

/-! What another package's side reports (R413, R418). -/

/-- The job of a remote enqueue that has failed or ended: KILLED before COUNT (R415). -/
def State.endRemote (s : State) (t op : Nat) (killed : Bool) : State :=
  match s.remotes.find? (fun r => r.team == t && r.op == op) with
  | none => s
  | some r =>
    ({ s with remotes := s.remotes.filter (fun q => !(q.team == t && q.op == op)) }).jobEnds noCore (some (r.at_, r.pa)) killed

/-- The result of an operation on another package. -/
def State.fabResult (s : State) (t : Nat) (e : EngOp) (v : FabView) (res : FabricResult) : State :=
  let fails (s : State) (d : Nat) : State := s.engFault t e (v.fault d)
  let lost := s.removed.length == 32
  let alone := (s.ctx (s.team t).ctx).group.isNone
  let len := ctlLen v.ctl
  let transport (d : Nat) : Bool := decide (1 ≤ d) && decide (d ≤ 4)
  let able := !lost && !alone
  -- which failures can be reported: no member (1) of no group; no path (4) where none remains
  let shows (d : Nat) : Bool := transport d && (!alone || d == 1) && (!lost || alone || d == 4)
  match v.fn with
  | 0 =>
    if len = 0 then s.engDone t e 0
    else
      let r := s.localRun t v.loc len { r := true, w := false }
      match r.fault, res with
      | some f, _ => r.st.engFault t e f
      | none, .ok _ => if able then r.st.engDone t e 0 else s
      | none, .err d _ => if shows d then fails r.st d else s
  | 1 =>
    if len = 0 then s.engDone t e 0
    else
      let r := s.localRun t v.loc len { r := false, w := true }
      match res with
      | .ok bs =>
        if !able || bs.length ≠ len then s
        else match r.fault with
          | some f => (r.st.putLocs r.locs bs (some (v.run.unitOf 0))).engFault t e f
          | none => ((r.st.putLocs r.locs bs none).fillLocs r.locs 0).engDone t e 0
      | .err d bs =>
        if !shows d then s
        else if bs.length = len ∧ 3 ≤ d then fails (r.st.putLocs r.locs bs (some (v.run.unitOf 0))) d
        else fails s d
  | 2 =>
    let n := fatomSize v.ctl
    let r := s.localRun t v.loc (if v.loc = 0 then 0 else n) { r := false, w := true }
    match r.fault, res with
    | some f, _ => r.st.engFault t e f
    | none, .ok bs =>
      if !able || bs.length ≠ n then s
      else ((r.st.putLocs r.locs bs none).fillLocs r.locs 0).engDone t e (fatomNew (ctlOp v.ctl) (natOfBytes bs) v.x.toNat v.y.toNat).2
    | none, .err d _ => if shows d then fails r.st d else s
  | 3 =>
    match res with
    | .ok _ => if able then s.engDone t e 0 else s
    | .err d _ => if shows d || (d == 6 && able) then fails (s.endRemote t e.id true) d else s
  | _ =>
    match res with
    | .ok _ => if able then s.engDone t e 0 else s
    | .err d _ => if shows d then fails s d else s

/-! Collectives (R414). -/

/-- A collective descriptor (Table 24-5). -/
structure Coll where
  sound : Bool
  half  : Bool                        -- BF16 rather than FP32
  kind  : Nat
  rank  : Nat
  g     : Nat
  tag   : W32
  n     : Nat
  memb  : W64
  dst   : W64
  src   : W64

def collOf (d : BitVec 512) : Coll :=
  { sound := decide (fld d 293 219 = 0), half := d.getLsbD 291, kind := (fld d 288 3).toNat, rank := (fld d 272 16).toNat,
    g := (fld d 256 16).toNat, tag := fld d 224 32, n := (fld d 192 32).toNat, memb := fld d 128 64, dst := fld d 64 64, src := fld d 0 64 }

def Coll.size (c : Coll) : Nat := if c.half then 2 else 4
/-- Bytes of a member's source and destination. -/
def Coll.srcBytes (c : Coll) : Nat := c.size * c.n * (if c.kind = 2 then c.g else 1)
def Coll.dstBytes (c : Coll) : Nat := c.size * c.n * (if c.kind = 1 then c.g else 1)

/-- A run that an operand of a descriptor may name: canonical addresses, or a window of the cluster. -/
def State.runNamed (s : State) (t : Nat) (e : W64) (n : Nat) : Bool :=
  if aperture e then (s.aperturePlace t e n).isSome else rangeOk e n

/-- A descriptor that is not malformed, but for its member list (DETAIL 5). -/
def State.collSound (s : State) (t : Nat) (c : Coll) : Bool :=
  c.sound && decide (c.kind ≤ 2) && decide (1 ≤ c.g) && decide (c.g ≤ 4096) && decide (c.rank < c.g) && decide (1 ≤ c.n)
  && s.runNamed t c.memb (2 * c.g) && s.runNamed t c.src c.srcBytes && s.runNamed t c.dst c.dstBytes

/-- SUM (R414): exact, one rounding by RNE, the special cases of 03 R70. -/
def collSum (F : Fmt) (xs : List Nat) : Nat × Flags :=
  match xs with
  | [] => (0, 0)
  | x :: rest => dotStep F false (F.decode x) (rest.map (fun y => (F.decode y, .fin false 1 0)))

/-- Element i of a source. -/
def elemAt (bs : List Byte) (size i : Nat) : Nat := natOfBytes ((bs.drop (size * i)).take size)

/-- The destination's bytes from the sources in rank order, and the flags. -/
def Coll.result (c : Coll) (srcs : List (List Byte)) : List Byte × Flags :=
  if c.kind = 1 then (srcs.flatten, 0)
  else
    let F := if c.half then bf16 else fp32
    let first := if c.kind = 2 then c.rank * c.n else 0
    let out := (List.range c.n).map (fun i => collSum F (srcs.map (fun b => elemAt b c.size (first + i))))
    (out.flatMap (fun r => bytesOfNat c.size r.1), orAll out)

/-- The fault of a collective: the spec names no package for it, so its CODE is free (log 2). -/
def State.collFault (s : State) (t : Nat) (e : EngOp) (v : FabView) (d : Nat) : State :=
  (s.engFault t e (fabFault d (Config.pick s.nonce % 65536) v.remote)).drew 1

/-- A collective completes: `data` holds every member's source in rank order, of which this member's own is read here. -/
def State.collDone (s : State) (t : Nat) (e : EngOp) (v : FabView) (res : FabricResult) : State :=
  let c := collOf (e.cats.headD 0)
  let m := s.localRun t c.memb (2 * c.g) { r := true, w := false }
  let pkgs := let bs := m.st.getLocs m.locs; (List.range c.g).map (elemAt bs 2)
  let src := m.st.localRun t c.src c.srcBytes { r := true, w := false }
  let dst := src.st.localRun t c.dst c.dstBytes { r := false, w := true }
  let own := dst.st.getLocs src.locs
  match m.fault with
  | some f => m.st.engFault t e f
  | none =>
    if pkgs.getD c.rank 65536 ≠ Config.packageNumber.toNat then m.st.collFault t e v 5
    else match src.fault with
      | some f => src.st.engFault t e f
      | none =>
        let split (bs : List Byte) : List (List Byte) :=
          (List.range c.g).map (fun r => if r = c.rank then own else (bs.drop (r * c.srcBytes)).take c.srcBytes)
        match res with
        | .err d bs =>
          if d = 5 ∨ d = 1 then s.collFault t e v d
          else if d = 4 then
            (if bs.length = c.g * c.srcBytes then dst.st.putLocs dst.locs (c.result (split bs)).1 (some id) else dst.st).collFault t e v d
          else s
        | .ok bs =>
          if bs.length ≠ c.g * c.srcBytes || (s.removed.length == 32 && decide (1 < c.g)) || (s.ctx (s.team t).ctx).group.isNone then s
          else
            let y := c.result (split bs)
            match dst.fault with
            | some f => (dst.st.putLocs dst.locs y.1 (some id)).engFault t e f
            | none => ((dst.st.putLocs dst.locs y.1 none).fillLocs dst.locs 0).engDone t e y.2

/-- FABRIC_OPERATION_COMPLETE (R413, R418): what an operation on another package, or a collective, comes back with. -/
def execFabricOperationComplete (team op : Nat) (result : FabricResult) (s : State) : Out :=
  match (s.team team).eng? op with
  | none => .next s
  | some e =>
    match e.fab with
    | none => .next s
    | some v =>
      if e.stage ≠ .accepted ∨ !s.fabReady team e v then .next s
      else if v.fn = 4 then .next (s.collDone team e v result)
      else if v.here then .next s
      else .next (s.fabResult team e v result)

/-- COLL_JOIN_TIMEOUT (R418): 2^31 cycles after acceptance. -/
def execCollJoinTimeout (team op : Nat) (s : State) : Out :=
  match (s.team team).eng? op with
  | none => .next s
  | some e =>
    match e.fab with
    | none => .next s
    | some v =>
      if decide (v.fn = 4) && decide (e.stage = .accepted) && decide (e.since + 2 ^ 31 ≤ s.clock) then .next (s.collFault team e v 5)
      else .next s

/-- Reading a collective's descriptor at acceptance (R414): the operation goes on, or ends with a fault. A TAG that is still pending in its
context makes the result undefined. -/
def State.acceptColl (s : State) (t : Nat) (e : EngOp) (v : FabView) : Out :=
  let r := s.localRun t v.remote 64 { r := true, w := false }
  match r.fault with
  | some f => .next (r.st.engFault t e f)
  | none =>
    let d : BitVec 512 := BitVec.ofNat 512 (natOfBytes (r.st.getLocs r.locs))
    let c := collOf d
    let pending (T : Team) : Bool := decide (T.ctx = (s.team t).ctx) && T.engs.any (fun o => o.id != e.id
      && (decide (o.stage = .accepted)) && (match o.fab with | some w => w.fn == 4 && (collOf (o.cats.headD 0)).tag == c.tag | none => false))
    let e1 : EngOp := { e with cats := [d] }
    if !s.collSound t c then .next (r.st.collFault t e1 v 5)
    else
      let s1 := r.st.onTeam t (fun T => T.putEng e1)
      .next (if s.teams.any (fun p => pending p.2) then s1.wreck (s.team t).ctx else s1)

/-! Remote enqueue (R415). -/

/-- The origin's side as its unit accepts a RENQ, after the release: COUNT rises before the request leaves. -/
def State.acceptRenq (s : State) (t : Nat) (e : EngOp) (v : FabView) : State :=
  match s.spot t v.loc 64 { r := true, w := true } with
  | .fail a d => s.engFault t e (faultOf cPage d a)
  | .ok p s1 =>
    match s1.spotPoison p with
    | some pa => s1.engFault t e (faultOf cMachine 0 (BitVec.ofNat 64 pa))
    | none =>
      let r : RemoteTask := { team := t, op := e.id, at_ := p.place.1, pa := p.place.2, pkg := v.pkg, grid := none, ended := none }
      ({ s1 with remotes := s1.remotes ++ [r] }).jobWord noCore p.place.1 p.place.2 0 (· + 1)

/-- The target's side: the task's grid, or DETAIL of the refusal. The descriptor lies in an R window. -/
def State.enqueue (s : State) (group : Option W32) (desc arg : W64) (origin : Option (Nat × Nat)) : Except Nat (Nat × State) :=
  match s.target group desc 64 permR with
  | .error d => .error d
  | .ok l =>
    match s.member group with
    | none => .error 1
    | some c =>
      let n := 64 + 16 * min 16 (headRanges (s.getLocs (memLocs l)))
      match s.target group desc n permR with
      | .error d => .error d
      | .ok l =>
        if s.hurt l then .error 3
        else match s.serviceLaunch c desc true with
          | none => .error 6
          | some (L, K) =>
            if K.level ≠ 0 ∨ K.frame < 8 then .error 6
            else match s.newGrid { Grid.none with ctx := c, kernel := K, launch := L, task := true, remote := origin } 0 [] [] with
              | none => .error 6
              | some (g, s1) =>
                let C := s1.ctx c
                .ok (g, s1.store (C.framePa + ((s1.grid g).frame.toNat - C.frameVa.toNat) + 64) (bytesOfNat 8 arg.toNat))

/-- REMOTE_ENQUEUE_REQUEST (R415): the task is pushed on a deque of the target context that has room, or refused; a request of this package is
that of its accepted operation. -/
def execRemoteEnqueueRequest (group : W32) (addr arg : W64) (origin : Option (Nat × Nat)) (core : Nat) (s : State) : Out :=
  let room (s : State) (g : Nat) : Bool :=
    let c := (s.grid g).ctx
    decide (core < 192) && ((s.core core).active.ctx == some c || (s.core core).shadow.ctx == some c) && decide (0 < s.dequeFree core c)
  match origin with
  | none =>
    match s.enqueue (some group) addr arg none with
    | .ok (g, s1) => if room s1 g then .next (s1.push core g) else .next s
    | .error _ => .next s
  | some (t, id) =>
    match (s.team t).eng? id with
    | none => .next s
    | some e =>
      match e.fab with
      | none => .next s
      | some v =>
        if v.fn ≠ 3 ∨ !v.here ∨ e.stage ≠ .accepted then .next s
        else match s.enqueue (s.ctx (s.team t).ctx).group v.remote v.x (some (t, id)) with
          | .ok (g, s1) =>
            if room s1 g then
              let s2 := s1.push core g
              .next (({ s2 with remotes := s2.remotes.map (fun (r : RemoteTask) => if r.team = t ∧ r.op = id then { r with grid := some g } else r) }).engDone t e 0)
            else .next s
          | .error d => .next ((s.endRemote t id true).engFault t e (v.fault d))

/-- REMOTE_TASK_COMPLETION (R415): the completion of a task, or another package's refusal, reaches the origin. A completion from this package
is that of a task of it that has ended. -/
def execRemoteTaskCompletion (team op : Nat) (refused killed : Bool) (s : State) : Out :=
  match s.remotes.find? (fun r => r.team == team && r.op == op) with
  | none => .next s
  | some r =>
    let here := r.pkg == Config.packageNumber.toNat
    if refused then
      match (s.team team).eng? op with
      | some e =>
        match e.fab with
        | some v => if decide (e.stage = .accepted) && !here then .next ((s.endRemote team op true).engFault team e (v.fault 6)) else .next s
        | none => .next s
      | none => .next s
    else if here && r.ended != some killed then .next s
    else .next (s.endRemote team op killed)

/-! Farder's fabric service (R406, R407). -/

/-- FABRIC_GROUP_ATTACH (R406): one group at most, and one context of a group; or a detachment. -/
def execFabricGroupAttach (ctx : Nat) (group : Option W32) (s : State) : Out :=
  let C := s.ctx ctx
  let free := match group with | some _ => C.group.isNone && (s.member group).isNone | none => true
  if C.live && free then .next (s.setCtx ctx { C with group := group }) else .next s

/-- What a window's permissions ask of its pages. -/
def windowGrants (perms : BitVec 3) (p : W64) : Bool :=
  (p.getLsbD 1 || !(perms.getLsbD permR || perms.getLsbD permA)) && (p.getLsbD 2 || !(perms.getLsbD permW || perms.getLsbD permA))

/-- FABRIC_WINDOW_REGISTER (R407): Farder registers a range whose pages it has pinned. -/
def execFabricWindowRegister (ctx : Nat) (base : W64) (len : Nat) (perms : BitVec 3) (s : State) : Out :=
  let C := s.ctx ctx
  if C.live && decide (C.windows.length < 64) && decide (base.toNat % 4096 = 0) && decide (len % 4096 = 0) && decide (0 < len)
     && rangeOk base len && s.mapped ctx base len (windowGrants perms) then
    .next (s.setCtx ctx { C with windows := C.windows ++ [{ va := base.toNat, len := len, perms := perms }] })
  else .next s

/-- FABRIC_WINDOW_REMOVE (R407): with an operation of this package still on its way to the context, the result is undefined. -/
def execFabricWindowRemove (ctx index : Nat) (s : State) : Out :=
  let C := s.ctx ctx
  let coming (p : Nat × Team) : Bool := decide ((s.ctx p.2.ctx).group = C.group) && C.group.isSome
    && p.2.engs.any (fun e => decide (e.stage = .accepted) && (match e.fab with | some v => v.fn != 4 && v.here | none => false))
  if C.windows.length ≤ index then .next s
  else
    let s1 := s.setCtx ctx { C with windows := C.windows.eraseIdx index }
    .next (if s.teams.any coming then s1.wreck ctx else s1)

/-! Links (R405, R418). -/

/-- FABRIC_LINK_RETRY_LIMIT (R418): the link leaves the routes; what was on it goes another way. -/
def execFabricLinkRetryLimit (link : Nat) (s : State) : Out :=
  if link < 32 then .next { s with removed := SMap.flag s.removed link true } else .next s

/-- FABRIC_FLIT_CRC_ERROR (R405): the flit is replayed from the sender's buffer. -/
def execFabricFlitCrcError (link : Nat) (s : State) : Out :=
  if link < 32 ∧ !SMap.has s.removed link then .next { s with fabLinks := SMap.set 0 s.fabLinks link (SMap.get 0 s.fabLinks link + 1) } else .next s

end Sys2Proof.Machine
end

