-- ==== Sys2Proof/Machine/Accept.lean ====
section
/-! DEFINITION. Acceptance of an engine word by its unit (09 R193, R202; 13 R246, R254, R255, R262; 17 R298; 19 R358; 24 R414, R415). -/

namespace Sys2Proof.Machine

/-- Whether a unit can take an operation now: the X pipe holds a stream's engine words in issue order, the counter of the class has room, and
so has the queue of the team's entry. -/
def State.unitFree (s : State) (t : Nat) (e : EngOp) : Bool :=
  let T := s.team t
  decide (e.stage = .issued) && s.hub.railsOn
  && T.engs.all (fun o => decide (e.id ≤ o.id) || decide (o.strm ≠ e.strm) || decide (o.stage ≠ .issued))
  && (decide (4 < e.cls) || decide ((T.stream e.strm).counter e.cls < 63))
  && (!e.matrix || decide (T.matrixQueue.length < Config.matrixQueue))

/-- What acceptance reads and settles: the entries of the operation's catalogue numbers, and the operation as its unit holds it. -/
structure Accepted where
  cats : List Entry
  kind : EngKind

/-- The checks that a unit makes on the entries a word names (R202). -/
def State.readEntries (s : State) (t : Nat) (e : EngOp) : Except UnitFault Accepted := do
  match e.kind with
  | .mma sparse keep tile g tag va a num coord _ held =>
    let (x, uid) ← s.acceptMma t sparse tile tag va num coord held
    .ok { cats := [x], kind := .mma sparse keep tile g tag va a num coord uid held }
  | .msta _ _ _ _ _ num coord =>
    let x ← s.acceptMsta t num coord
    .ok { cats := [x], kind := e.kind }
  | .mqnt _ _ num coord dnum dcoord =>
    let (x, y) ← s.acceptMqnt t num coord dnum dcoord
    .ok { cats := [x, y], kind := e.kind }
  | .cpyt dnum dtile snum stile size _ =>
    let (x, y) ← s.acceptCpyt t dnum dtile snum stile size
    .ok { cats := [x, y], kind := e.kind }
  | .tpref num _ _ _ => .ok { cats := [s.entry (s.team t).ctx (num.toNat % 4096)], kind := e.kind }
  | .tflush num _ _ => .ok { cats := [s.entry (s.team t).ctx (num.toNat % 4096)], kind := e.kind }
  | k => .ok { cats := [], kind := k }

/-- The A latch after an MMA or MMAS (13 R255). -/
def Team.latchAfter (T : Team) (k : EngKind) : Team :=
  match k with
  | .mma _ keep _ g tag va a _ _ _ _ =>
    { T with resv := T.resv.map (fun v => { v with latch := if keep then some { group := g, va := va, tag := tag, regs := a } else .none }) }
  | _ => T

/-- The unit has an operation: it is counted in its class, and one that enters an empty queue is its head. -/
def State.takeEng (s : State) (t : Nat) (e : EngOp) (a : Accepted) : State :=
  let T := s.team t
  let e1 : EngOp := { e with stage := .accepted, since := s.clock, cats := a.cats, kind := a.kind }
  let s1 := s.onTeam t (fun T =>
    let m := T.stream e.strm
    ((T.putEng e1).setStream e.strm (if e.cls ≤ 4 then m.count e.cls (m.counter e.cls + 1) else m)).latchAfter a.kind)
  if e.matrix && T.matrixQueue.isEmpty then s1.newHead t else s1

/-- What acceptance itself brings about: a walk joins its die's list, a pair half that names no team of its grid aborts, a fabric word
reads its descriptor or counts itself in its job. -/
def State.uponAccept (s : State) (t : Nat) (e : EngOp) : Out :=
  match e.kind with
  | .publish _ _ => .next { s with walks := s.walks ++ [(dieOf (s.team t).core, t, e.id)] }
  | .mpair _ _ _ _ _ partner _ _ => if (s.teamAt t partner.toNat).isNone then .next (s.endHalf t e false) else .next s
  | _ =>
    match e.fab with
    | some v => if v.fn = 4 then s.acceptColl t e v else if v.fn = 3 then .next (s.acceptRenq t e v) else .next s
    | none => .next s

/-- Whether the fabric reads memory as it accepts a word: the stream's earlier accesses come first (24 R412, R415). -/
def State.fabWaits (s : State) (t : Nat) (e : EngOp) : Bool :=
  match e.fab with
  | some v => (v.fn == 3 || v.fn == 4) && !s.fabReady t e v
  | none => false

/-- X_PIPE_ACCEPT (R193, R202, R246): the unit takes the word, or finds it at fault: then the trap is precise at the word. A word whose strand is
gone is dropped where it is at fault. -/
def execXPipeAccept (team op : Nat) (s : State) : Out :=
  match (s.team team).eng? op with
  | none => .next s
  | some e =>
    if !s.unitFree team e || s.fabWaits team e then .next s
    else match s.readEntries team e with
      | .ok a =>
        match ((s.takeEng team e a).team team).eng? op with
        | some e1 => (s.takeEng team e a).uponAccept team e1
        | none => .next s
      | .error f =>
        if e.sid = some Config.splitRecords then .next ((s.onTeam team (fun T => T.dropEng op)).accMoved team)
        else if s.stoppable { team := team, strm := e.strm, sid := e.sid } op then .next (s.refuseEng team e f)
        else .next s

end Sys2Proof.Machine
end

