-- ==== Sys2Proof/Machine/Contexts.lean ====
section
/-! DEFINITION. Contexts and bundles (05 R105; 20 R371, R383; 23 R387, R393; 25 R425, R426). -/

namespace Sys2Proof.Machine

/-- Whether a range lies, page after page, in one run of physical memory. -/
def State.oneRun (s : State) (ctx : Nat) (e : W64) (pa n : Nat) : Bool :=
  decide (pa + n ≤ Config.hbmEnd) && rangeOk e n && decide (e.toNat % 4096 = pa % 4096)
  && (pagesOf e n).all (fun va => match s.walk ctx va with
    | some l => decide (l.pa va + (va48 e - va48 e / 4096 * 4096) = pa + (va - va48 e / 4096 * 4096))
    | none => false)

/-- Whether a range lies in pages with these physical bases (11 R220). -/
def State.pinnedPages (s : State) (ctx : Nat) (e : W64) (n : Nat) (pages : List Nat) : Bool :=
  rangeOk e n && (pagesOf e n).map (fun va => (s.walk ctx va).map (fun l => l.pa va)) == pages.map some
  && pages.all (fun p => decide (p + 4096 ≤ Config.hbmEnd))

/-- What a context holds when it is created (R387). -/
def planContext (p : ContextPlan) : Context :=
  { Context.none with
    live := true, satpRoot := p.satpRoot, trapqVa := p.trapqVa, trapqPages := p.trapqPages, trapqN := p.trapqN, notifyHart := p.notifyHart
    walkVa := p.walkVa, saveVa := p.saveVa, frameVa := p.frameVa, framePa := p.framePa, frameSize := p.frameSize, heapVa := p.heapVa, heapSize := p.heapSize }

/-- CONTEXT_CREATE (R387): Farder places the trap queue, pinned in its pages, the walk area of each die (19 R358), and the frame arena,
pinned in one run of memory (log 17), and clears the queue's counters (11 R220). -/
def execContextCreate (ctx : Nat) (plan : ContextPlan) (s : State) : Out :=
  let n := plan.trapqN
  let s1 := s.setCtx ctx (planContext plan)
  if s.hub.booted && !(s.ctx ctx).live && decide (ctx < 65536) && decide (plan.satpRoot % 4096 = 0) && (List.range 11).any (fun i => n == 2 ^ (6 + i))
     && decide (plan.trapqVa.toNat % 64 = 0) && s1.pinnedPages ctx plan.trapqVa (64 + 192 * n) plan.trapqPages
     && rangeOk plan.walkVa (8 * walkAreaBytes) && s1.mapped ctx plan.walkVa (8 * walkAreaBytes) (fun _ => true)
     && decide (plan.frameVa.toNat % 64 = 0) && s1.oneRun ctx plan.frameVa plan.framePa plan.frameSize
     && decide (plan.heapVa.toNat % spanBytes = 0) && decide (plan.notifyHart < 16) then
    .next (s1.storeNat ((planContext plan).trapqAt 0) 16 0)
  else .next s

/-! Bundles (R393). -/

/-- The bytes of a kernel record (Table 20-2). -/
def recordBytes (K : Kernel) : List Byte :=
  let w6 := K.lanes + K.level * 2 ^ 12 + bit1 K.lw * 2 ^ 15 + K.regs * 2 ^ 16
  let w7 := K.spad + K.frame * 2 ^ 32
  let roles (i : Nat) : Nat := (List.range 16).foldl (fun n k => n + (K.roles.getD (16 * i + k) 0).toNat * 2 ^ (4 * k)) 0
  [K.centry.toNat, K.aentry.toNat, K.cb.toNat, K.ce.toNat, K.spda.toNat, K.spdn.toNat, w6, w7, roles 0, roles 1, 0, 0, 0, 0, 0, 0].flatMap (bytesOfNat 8)

/-- The bytes of words. -/
def wordBytes (ws : List W32) : List Byte := ws.flatMap (fun w => bytesOfNat 4 w.toNat)

/-- Whether an image is one that the loader makes: extents and entries (05 R105, R426), directive values (20 R371, 08 R170), LW only in an
image translated from Tolay-1 (R394). -/
def KernelImage.sound (i : KernelImage) (isa : Nat) : Bool :=
  let K := i.kernel
  decide (K.cb.toNat % 12 = 0) && decide (i.code.length % 3 = 0) && decide (K.ce.toNat = K.cb.toNat + 4 * i.code.length)
  && decide (K.ce.toNat ≤ 2 ^ 47) && decide (K.centry = K.cb) && (decide (K.aentry = 0) ||
    (decide (K.aentry.toNat % 12 = 0) && decide (K.cb < K.aentry) && decide (K.aentry < K.ce)))
  && decide (1 ≤ K.lanes) && decide (K.lanes ≤ 1024) && decide (K.level ≤ 7) && decide (K.regs ≤ 11) && (K.lw == decide (isa = 1))
  && decide (K.spad % 16384 = 0) && decide (K.spad ≤ 8355840) && decide (K.frame % 64 = 0) && decide (K.frame ≤ 1048576)
  && decide (K.roles.length = 32) && decide (K.spdn.toNat = 4 * i.spdata.length) && decide (K.spdn.toNat ≤ K.spad)
  && decide (i.krec.toNat % 64 = 0) && decide (i.daddr.toNat % 64 = 0) && (decide (K.spda = 0) == i.spdata.isEmpty)
  -- the initialiser is no part of the code extent (10 R213)
  && (i.spdata.isEmpty || decide (K.spda.toNat + K.spdn.toNat ≤ K.cb.toNat) || decide (K.ce ≤ K.spda))

/-- The address of the record of a kernel of an image. -/
def recordAt (kernels : List KernelImage) (k : Nat) : W64 := match kernels[k]? with | some i => i.krec | none => 0

/-- A word of an initialiser as the loader writes it (21 R383). -/
def InitItem.value (kernels : List KernelImage) (x : InitItem) : W32 :=
  match x with
  | .word v => v
  | .krecLo k => fld (recordAt kernels k) 0 32
  | .krecHi k => fld (recordAt kernels k) 32 32

/-- Names that initialisers use are kernels of the image (21 R383). -/
def InitItem.named (n : Nat) (x : InitItem) : Bool :=
  match x with
  | .word _ => true
  | .krecLo k => decide (k < n)
  | .krecHi k => decide (k < n)

/-- The runs of memory that the loader writes for the kernels of an image: every code extent and record first, then the initialisers
(21 R383). -/
def imageRuns (kernels : List KernelImage) : List (W64 × List Byte) :=
  kernels.flatMap (fun i => [(i.kernel.cb, wordBytes i.code), (i.krec, recordBytes i.kernel)])
  ++ kernels.flatMap (fun i => [(i.kernel.spda, wordBytes (i.spdata.map (InitItem.value kernels))),
                                (i.daddr, wordBytes (i.data.map (InitItem.value kernels)))])

/-- BUNDLE_LOAD (R393): the loader places the kernels of a bundle of interface version 1 in memory that the context has mapped, and their
records on pages that the context cannot write (20 R371). -/
def execBundleLoad (ctx : Nat) (version isa : Nat) (images : List KernelImage) (s : State) : Out :=
  let runs := imageRuns images
  if (s.ctx ctx).live && decide (version = 1) && (decide (isa = 1) || decide (isa = 2))
     && images.all (fun i => KernelImage.sound i isa && (i.spdata ++ i.data).all (InitItem.named images.length)
          && s.mapped ctx i.krec 128 (fun p => !p.getLsbD 2))
     && runs.all (fun r => rangeOk r.1 r.2.length && s.mapped ctx r.1 r.2.length (fun _ => true)) then
    let s1 := runs.foldl (fun s r => s.putCtx ctx r.1 r.2) s
    .next (images.foldl (fun s i => s.dropCode ctx (va48 i.kernel.cb) (4 * i.code.length)) s1)
  else .next s

end Sys2Proof.Machine
end

