-- ==== Sys2Proof/Machine/Control.lean ====
section
/-! DEFINITION. Control flow: branches, calls, division, YIELD, TRAP and BKPT (05 R100 to R110, 11 R226; 02 R38). -/

namespace Sys2Proof.Machine

/-- The conditions of Table 5-1 over a signed value. -/
def condHolds (k : BitVec 3) (v : W64) : Bool :=
  match k.toNat with
  | 0 => decide (v = 0)
  | 1 => decide (v ≠ 0)
  | 2 => decide (v.toInt < 0)
  | 3 => decide (0 ≤ v.toInt)
  | 4 => decide (0 < v.toInt)
  | _ => decide (v.toInt ≤ 0)

/-- The target of the J, C and D formats (02 R43). -/
def targetOf {n : Nat} (pc : W64) (o : BitVec n) : W64 := packetOf pc + 12 * sx64 o

/-- The checks of a transfer (R103): alignment of a register's target, then the code extent. DESIGN CHOICE (log 65): a target with bit 63 set
is read as unsigned in the test for a multiple of 12. -/
def checkTarget (s : State) (t : W64) (fromReg : Bool) : Except Stop Unit := do
  require (!fromReg || decide (t.toNat % 12 = 0)) (.trap { cause := cTarget, detail := 0, code := 0, mask := s.me.mask, addr := t })
  require (decide (s.mine.cb ≤ t) && decide (t < s.mine.ce))
    (.trap { cause := cFetch, detail := 0, code := 0, mask := s.me.mask, addr := t })

/-- The word ends its packet with no transfer. -/
def fallThrough (s : State) : State := s.goto (nextPacket s.me.pc)

/-- NOP (R38). -/
def execNop (s : State) : Out := .next (s.onStrand s.cur Strand.advanceNop)

/-- BRA (R102). -/
def execBra (o : BitVec 24) (s : State) : Out := finish s do
  let t := targetOf s.me.pc o
  checkTarget s t false
  .ok (s.goto t)

/-- BRC (R102). -/
def execBrc (a : BitVec 6) (k : BitVec 3) (o : BitVec 15) (s : State) : Out := finish s do
  needScalars s [a]
  if condHolds k (s.sreg a) then
    let t := targetOf s.me.pc o
    checkTarget s t false
    .ok (s.goto t)
  else .ok (fallThrough s)

/-- A transfer to the address in a scalar (BRI, RET). -/
def transferTo (s : State) (a : BitVec 6) : Except Stop State := do
  needScalars s [a]
  checkTarget s (s.sreg a) true
  .ok (s.goto (s.sreg a))

/-- BRI (R102). -/
def execBri (a : BitVec 6) (s : State) : Out := finish s (transferTo s a)

/-- CALL (R102): the return address goes to s63. -/
def execCall (o : BitVec 24) (s : State) : Out := finish s do
  needScalars s [63]
  let t := targetOf s.me.pc o
  checkTarget s t false
  .ok ((s.putSreg 63 (nextPacket s.me.pc)).goto t)

/-- RET (R102) is BRI of s63. -/
def execRet (s : State) : Out := finish s (transferTo s 63)

/-- LOOP (R102): the scalar is decremented whether or not the transfer takes place. -/
def execLoop (a : BitVec 6) (k : BitVec 3) (o : BitVec 15) (s : State) : Out := finish s do
  needScalars s [a]
  let v := s.sreg a - 1
  if condHolds k v then
    let t := targetOf s.me.pc o
    checkTarget s t false
    .ok ((s.putSreg a v).goto t)
  else .ok (fallThrough (s.putSreg a v))

/-- DIVB (R21, R108). -/
def execDivb (p : BitVec 3) (i : BitVec 1) (o : BitVec 20) (s : State) : Out := finish s do
  needPreds s [p]
  let m := s.me.mask
  let pv := s.mine.pred p
  let t := if i = 1 then m &&& ~~~pv else m &&& pv
  let f := m &&& ~~~t
  let target := targetOf s.me.pc o
  if t = 0 then .ok (fallThrough s)
  else do
    checkTarget s target false
    if f = 0 then .ok (s.goto target) else s.divideHere t f target (nextPacket s.me.pc)

/-- JOIN (R22, R109). -/
def execJoin (s : State) : Out := finish s s.joinHere

/-- END (R23). -/
def execEndStrand (s : State) : Out := .next (s.endStrandOf s.cur)

/-- YIELD (R110): not ready for n + 1 cycles. -/
def execYield (n : BitVec 16) (s : State) : Out :=
  .next (s.onStrand s.cur (fun x => { x.advance with yieldLeft := n.toNat + 1, wait := .yield }))

/-- TRAP (11 R226). -/
def execTrap (n : BitVec 16) (s : State) : Out :=
  .next (s.trapHere { cause := cTrap, detail := 0, code := n.toNat, mask := s.me.mask, addr := 0 })

/-- BKPT (11 R226). -/
def execBkpt (n : BitVec 16) (s : State) : Out :=
  .next (s.trapHere { cause := cBkpt, detail := 0, code := n.toNat, mask := s.me.mask, addr := 0 })

end Sys2Proof.Machine
end

