-- ==== Sys2Proof/Machine/CrossLane.lean ====
section
/-! DEFINITION. Cross-lane operations (07 R144 to R154) and saliency selection (13 R261). -/

namespace Sys2Proof.Machine

/-- The lane at a position of a lane's group. -/
def Team.laneAt (T : Team) (l k : Nat) : Nat := l / T.gw * T.gw + k
/-- A lane's value; a lane that does not exist reads zero (R145). -/
def Team.anyLane (T : Team) (r l : Nat) : W32 := if l < T.lanes then T.vr r l else 0

/-- VSHFL (R147). -/
def execVshfl (m : BitVec 3) (d a b : BitVec 7) (s : State) : Out :=
  let T := s.mine
  let rule (ts : List (BitVec 4)) : Except Nat (BitVec 4) := if arg1 0 ts = tI32 then ruleMove ts else .error cTag
  finish s (vecWord s [a.toNat, b.toNat] d.toNat rule (fun l _ vs =>
    let k := (arg1 0 vs).toNat % 32
    let src := (if m = 0 then k else Nat.xor (l % T.gw) k) % T.gw
    plain (T.anyLane a.toNat (T.laneAt l src))))

/-- VBCST (R148): a source lane whose group has another tag is a mismatch of the reading group; the trap names every failing group (04 R83). -/
def execVbcst (d a b : BitVec 7) (s : State) : Out := finish s do
  let T := s.mine
  let m := s.me.mask
  let rule (ts : List (BitVec 4)) : Except Nat (BitVec 4) := if arg1 0 ts = tI32 then ruleMove ts else .error cTag
  beginVec s [a.toNat, b.toNat] [d.toNat]
  let src (l : Nat) : Nat := (T.vr b.toNat l).toNat % 1024
  let bad := (T.groupsOf m).filter (fun g => decide (T.vtag b.toNat g ≠ tI32) || (T.lanesOf (m &&& T.groupMask g)).any (fun l =>
    decide (src l < T.lanes) && decide (T.vtag a.toNat (src l / T.gw) ≠ T.vtag a.toNat g)))
  tagTrap T m cTag bad
  vecWord s [a.toNat, b.toNat] d.toNat rule (fun l _ _ => plain (T.anyLane a.toNat (src l)))

/-- One tag in every group of the strand's mask (R149): else a trap over all active lanes. -/
def oneTag (s : State) (a : Nat) (ok : BitVec 4 → Bool) : Except Stop (BitVec 4) := do
  let T := s.mine
  let m := s.me.mask
  let gs := T.groupsOf m
  let t := T.vtag a (gs.headD 0)
  require (gs.all (fun g => T.vtag a g == t) && ok t) (.trap (trapOf cTag m))
  .ok t

/-- The operations of VRED and VSCAN. -/
inductive RedOp where
  | add | min | max | and | or | xor
deriving DecidableEq, Repr

/-- The tags each operation accepts (Table 7-3). -/
def RedOp.tagOk (o : RedOp) (t : BitVec 4) : Bool :=
  match o with
  | .add | .min | .max => decide (t = tI32) || decide (t = tF32)
  | _ => decide (t = tI32) || decide (t = tRaw)

/-- The identity of an exclusive scan (R150). -/
def RedOp.identity (o : RedOp) (t : BitVec 4) : W32 :=
  match o with
  | .min => if t = tF32 then 0x7F800000 else 0x7FFFFFFF
  | .max => if t = tF32 then 0xFF800000 else 0x80000000
  | .and => BitVec.allOnes 32
  | _ => 0

/-- One value reduced over a non-empty list of terms (R149): F32 sums are exact and rounded once; FPMODE applies. -/
def RedOp.reduce (o : RedOp) (md : FpMode) (t : BitVec 4) (xs : List W32) : W32 × Flags :=
  match o with
  | .and => (xs.foldl (fun a x => a &&& x) (BitVec.allOnes 32), 0)
  | .or => (xs.foldl (fun a x => a ||| x) 0, 0)
  | .xor => (xs.foldl (fun a x => a ^^^ x) 0, 0)
  | o =>
    if t = tF32 then
      let vs := xs.map (fun x => fp32.decodeDaz md.daz x.toNat)
      match o with
      | .add =>
        let y := dotExact false (vs.headD vzero) (vs.tail.map (fun v => (v, oneV)))
        let z := fp32.flush md.ftz (fp32.rnd 0 false 0 y.1)
        (BitVec.ofNat 32 z.1, y.2 ||| z.2)
      | o =>
        let y := vs.tail.foldl (fun a v =>
          let c := Val.minmax (decide (o = .max)) a.1 v
          (c.1, a.2 ||| c.2)) (vs.headD vzero, (vs.headD vzero).nv)
        let z := fp32.flush md.ftz (fp32.rnd 0 false 0 y.1)
        (BitVec.ofNat 32 z.1, y.2 ||| z.2)
    else
      match o with
      | .add => let y := dotInt 0 (xs.map (fun x => (x.toInt, 1))); (BitVec.ofNat 32 y.1, y.2)
      | .min => (xs.foldl (fun a x => if x.slt a then x else a) (xs.headD 0), 0)
      | _ => (xs.foldl (fun a x => if a.slt x then x else a) (xs.headD 0), 0)
where
  oneV : Val := .fin false 1 0

/-- The operation of VRED's m. -/
def redOfM (m : Nat) : RedOp := match m with | 0 => .add | 1 => .min | 2 => .max | 3 => .and | 4 => .or | _ => .xor
/-- The operation of VSCAN's m[1:0]. -/
def scanOfM (m : Nat) : RedOp := match m with | 0 => .add | 1 => .min | 2 => .max | _ => .or

/-- VRED (R149). -/
def execVred (m : BitVec 3) (d a : BitVec 7) (s : State) : Out := finish s do
  beginVec s [a.toNat] [d.toNat]
  let o := redOfM m.toNat
  let t ← oneTag s a.toNat o.tagOk
  let T := s.mine
  let y := o.reduce s.fpMode t ((T.lanesOf s.me.mask).map (T.vr a.toNat))
  vecWord s [a.toNat] d.toNat (ruleConst t) (fun _ _ _ => { v := y.1, fl := y.2, gen := none })

/-- VSCAN (R150): each output is its exact prefix, rounded once. -/
def execVscan (m : BitVec 3) (d a : BitVec 7) (s : State) : Out := finish s do
  beginVec s [a.toNat] [d.toNat]
  let o := scanOfM (m.toNat % 4)
  let t ← oneTag s a.toNat o.tagOk
  let T := s.mine
  let md := s.fpMode
  let excl := m.getLsbD 2
  vecWord s [a.toNat] d.toNat (ruleConst t) (fun l _ _ =>
    let ls := (T.lanesOf s.me.mask).filter (fun k => if excl then decide (k < l) else decide (k ≤ l))
    if ls.isEmpty then plain (o.identity t)
    else
      let y := o.reduce md t (ls.map (T.vr a.toNat))
      { v := y.1, fl := y.2, gen := none })

/-- VBAL (R151). -/
def execVbal (m : BitVec 3) (d : BitVec 7) (p : BitVec 3) (s : State) : Out := finish s do
  needPreds s [p]
  let T := s.mine
  let act := s.me.mask &&& T.pred p
  vecWord s [] d.toNat (ruleConst tI32) (fun l _ _ =>
    plain (BitVec.ofNat 32 (if m = 0 then T.laneWord act (l / T.gw) else T.count act)))

/-- VCONF (R152). -/
def execVconf (m : BitVec 3) (d a : BitVec 7) (s : State) : Out := finish s do
  beginVec s [a.toNat] [d.toNat]
  let _ ← oneTag s a.toNat (fun t => decide (t = tI32) || decide (t = tRaw))
  let T := s.mine
  let same (l : Nat) : List Nat := (T.lanesOf s.me.mask).filter (fun k => decide (T.vr a.toNat k = T.vr a.toNat l))
  vecWord s [a.toNat] d.toNat (ruleConst tI32) (fun l _ _ =>
    plain (BitVec.ofNat 32 (if m = 0 then ((same l).filter (fun k => decide (k < l))).length else (same l).headD l)))

/-- VISECT (R153, R154). -/
def execVisect (m : BitVec 3) (d a b : BitVec 7) (s : State) : Out :=
  let T := s.mine
  let rule := ruleTypedTo (fun t => decide (t = tI32) || decide (t = tRaw)) tI32
  finish s (vecWord s [a.toNat, b.toNat] d.toNat rule (fun l _ vs =>
    if m = 0 then
      let ls := T.lanesOf (s.me.mask &&& T.groupMask (l / T.gw))
      let va (k : Nat) : Nat := (T.vr a.toNat k).toNat
      let vb (k : Nat) : Nat := (T.vr b.toNat k).toNat
      let last := ls.getLastD l
      let lim := min (va last) (vb last)
      let hit := match ls.find? (fun k => vb k == va l) with | some k => k % T.gw | none => 0xFF
      let advA := (ls.filter (fun k => decide (va k ≤ lim))).length
      let advB := (ls.filter (fun k => decide (vb k ≤ lim))).length
      plain (BitVec.ofNat 32 (advB * 2 ^ 16 + advA * 2 ^ 8 + hit))
    else
      let c := arg0 0 vs
      let w := arg1 0 vs
      match (List.range 32).find? (fun i => c.getLsbD i) with
      | none => plain (BitVec.allOnes 32)
      | some p => plain (BitVec.ofNat 32 ((indicesWhere p (fun i => w.getLsbD i)).length * 2 ^ 8 + p))))

/-- Saliencies of a segment in MSAL's order: descending, NaN after every number, ties to the lower index (13 R261). -/
def salBefore (x y : Nat × Val) : Bool :=
  if x.2.isNan then y.2.isNan && decide (x.1 < y.1)
  else if y.2.isNan then true
  else decide (0 < Val.cmp x.2 y.2) || (decide (Val.cmp x.2 y.2 = 0) && decide (x.1 < y.1))

/-- The rank of an element among all. -/
def salRank (es : List (Nat × Val)) (x : Nat × Val) : Nat := (es.filter (fun y => salBefore y x)).length

/-- MSAL (13 R261): BF16 products of two segments of 16 lanes in each group; vd gives k and takes the bitmap. -/
def execMsal (d a b : BitVec 7) (s : State) : Out :=
  let T := s.mine
  let rule (ts : List (BitVec 4)) : Except Nat (BitVec 4) :=
    if ts = [2#4, 2#4, tI32] then .ok tI32 else .error cTag
  finish s (vecWord s [a.toNat, b.toNat, d.toNat] d.toNat rule (fun l _ _ =>
    let ls := (T.lanesOf s.me.mask).filter (fun k => decide (k / 16 = l / 16))
    let k := min ((T.vr d.toNat (ls.headD l)).toNat % 64) 32
    let es := ls.flatMap (fun x => [0, 1].map (fun j =>
      let p := (Val.mul (bf16.decode (elem 16 (T.vr a.toNat x) j)) (bf16.decode (elem 16 (T.vr b.toNat x) j))).1
      (2 * (x % 16) + j, bf16.decode (bf16.rnd 0 false 0 p.abs).1)))
    plain (BitVec.ofNat 32 (es.foldl (fun w e => if salRank es e < k then w + 2 ^ e.1 else w) 0))))

end Sys2Proof.Machine
end

