-- ==== Sys2Proof/Machine/Hub.lean ====
section
/-! DEFINITION. The hub die and what reaches the package from outside: SEMA, SHCTL and the Shutter, comparators' registers, firmware slots and
the heartbeat, SPDM, ports, power, and errors (11 R227, R230; 17 R293, R311, R312; 18 R315; 23 R384 to R403). -/

namespace Sys2Proof.Machine

/-! Guarded resources (R396). -/

/-- Whether a requester can reach the hub: a port with its link up, or the harts. -/
def Hub.reaches (h : Hub) (who : Requester) : Bool :=
  match who with
  | .port0 => h.portUp.1
  | .port1 => h.portUp.2
  | .harts => true

def Hub.holds (h : Hub) (who : Requester) : Bool := h.semaHeld && decide (h.semaHolder = who)

/-- Entries of the management error log: 1 a guarded write that was ignored, 2 a die-to-die link down, 3 a thermal trip. -/
def Hub.note (h : Hub) (kind place : Nat) : Hub := { h with errLog := h.errLog ++ [(kind, place)] }

/-- A write to a guarded resource: ignored and logged unless SEMA's holder makes it. -/
def State.guardedWrite (s : State) (who : Requester) (place : Nat) (f : State → State) : Out :=
  if !s.hub.reaches who then .next s
  else if s.hub.holds who then .next (f s)
  else .next { s with hub := s.hub.note 1 place }

/-- A requester's number in HOLDER, and in the order of reads of one cycle. -/
def requesterNo (who : Requester) : Nat :=
  match who with
  | .port0 => 0
  | .port1 => 1
  | .harts => 2

/-- SEMA_READ (R396): a read of a free SEMA takes it. The reads of one cycle come in the order port 0, port 1, harts. -/
def execSemaRead (who : Requester) (s : State) : Out :=
  let h := s.hub
  let late := match h.semaAt with | some (c, k) => decide (c = s.now) && decide (requesterNo who < k) | none => false
  if !h.reaches who || late then .next s
  else
    let holder := if h.semaHeld then h.semaHolder else who
    let v := 8 + 2 * requesterNo holder + bit1 (!h.semaHeld)
    .next { s with hub := { h with semaHeld := true, semaHolder := holder, semaRead := BitVec.ofNat 64 v,
                                   semaAt := some (s.now, requesterNo who) } }

/-- SEMA_WRITE (R396). -/
def execSemaWrite (who : Requester) (s : State) : Out :=
  if s.hub.reaches who && s.hub.holds who then .next { s with hub := { s.hub with semaHeld := false } } else .next s

/-- COMPARATOR_WRITE (11 R227, R230): register `reg` of a core's comparators, four to each. A port needs SEMA; the harts do not. Until eight cycles
after a write, words may still meet the setting that it replaced. -/
def execComparatorWrite (who : Requester) (core reg : Nat) (val : W64) (s : State) : Out :=
  let write (s : State) : State :=
    let c := SMap.get Comparator.reset (s.core core).cmps (reg / 4)
    let new : CmpRegs := match reg % 4 with
      | 0 => { c.regs with ctl := val }
      | 1 => { c.regs with lo := val }
      | 2 => { c.regs with hi := val }
      | _ => { c.regs with qual := val }
    s.onCore core (fun k => { k with cmps := SMap.put k.cmps (reg / 4) { regs := new, olds := c.olds.filter (fun p => decide (p.2 ≤ s.clock ∧ s.clock < p.2 + 8)) ++ [(c.regs, s.clock)] } })
  if 192 ≤ core ∨ 32 ≤ reg then .next s
  else if who = .harts then .next (write s)
  else s.guardedWrite who (0x10000100 + 0x10000 * core + 8 * reg) write

/-! The Shutter (R400). -/

/-- The fields of SHCTL that a write changes. -/
def Hub.setShctl (h : Hub) (v : W64) : Hub := { h with shCause := fld v 24 8, shEtrap := v.getLsbD 2, shEcmp := v.getLsbD 1 }
def Hub.rearm (h : Hub) : Hub := { h with shLatched := false, shMiss := 0 }

/-- SHCTL_FIRE (R400): a write with FIRE; with REARM too, either may come first (log 2). -/
def execShctlFire (who : Requester) (val : W64) (s : State) : Out :=
  if !val.getLsbD 0 then .next s
  else s.guardedWrite who 0x2000 (fun s =>
    let s1 := { s with hub := s.hub.setShctl val }
    if val.getLsbD 8 then
      (if Config.pick s.nonce % 2 = 0 then State.shutter { s1 with hub := s1.hub.rearm } 3
       else let s2 := s1.shutter 3; { s2 with hub := s2.hub.rearm }).drew 1
    else s1.shutter 3)

/-- SHCTL_REARM (R400): a write with REARM and without FIRE. -/
def execShctlRearm (who : Requester) (val : W64) (s : State) : Out :=
  if !val.getLsbD 8 || val.getLsbD 0 then .next s
  else s.guardedWrite who 0x2000 (fun s => { s with hub := (s.hub.setShctl val).rearm })

/-- The strand states, in the order of their numbers. -/
def stateNo (x : StrandState) : Nat :=
  match x with
  | .free => 0
  | .running => 1
  | .suspended => 2
  | .waiting => 3
  | .parked => 4
  | .blocked => 5

/-- A core's snapshot. -/
def State.snapshot (s : State) (core t : Nat) : Snapshot :=
  let k := s.core core
  let slots := k.active.slots
  let strands (u : Nat) : List Strand := ((s.strandsOf u .c) ++ (s.strandsOf u .a)).map s.strand
  { core := core, cycle := t + Config.cycleSkew (dieOf core) % 17
    rootPcs := slots.map (fun p => (p.1, (s.team p.2).cs.root.pc, (s.team p.2).as.root.pc))
    states := slots.map (fun p => (p.1, (List.range 6).map (fun i => (strands p.2).countP (fun x => stateNo x.st == i))))
    counters := slots.flatMap (fun p => [(2 * p.1, (List.range 5).map (fun i => SMap.get 0 (s.team p.2).cs.counters i)),
                                         (2 * p.1 + 1, (List.range 5).map (fun i => SMap.get 0 (s.team p.2).as.counters i))])
    occupancy := slots.map (fun p => (p.1, (List.range (8 * (s.team p.2).lanes)).map (fun i => (SMap.get [] (s.team p.2).queues i).length)))
    tlbMisses := k.tlbMisses, l1dMisses := k.l1dMisses }

/-- SHUTTER_LATCH (R400): 32 cycles after the trigger. -/
def execShutterLatch (s : State) : Out :=
  match s.hub.shPending with
  | none => .next s
  | some t =>
    if t + 32 ≤ s.now then
      .next { s with hub := { s.hub with shPending := none, shLatched := true,
                                         snaps := (List.range 192).map (fun c => s.snapshot c t) } }
    else .next s

/-! Registers without a row of their own (R396, R397, R402; log 6). -/

/-- What a slot-control write does (R397, R398). -/
def Hub.slotWrite (h : Hub) (off : Nat) (v : W64) : Hub :=
  let n := Config.slotCommand off v
  let bit (i : Nat) : Bool := decide (n / 2 ^ i % 2 = 1)
  let h1 := if bit 2 then
      { h with farderNext := bit 0, schedNext := bit 1, slotFailed := if bit 0 then (h.slotFailed.1, false) else (false, h.slotFailed.2) }
    else h
  let good := if h.farderB then h.slotGood.2 else h.slotGood.1
  if bit 3 && good then { h1 with svnMin := max h.svnMin (if h.farderB then h.farder.2 else h.farder.1).svn } else h1

/-- REGISTER_WRITE (R396): SHCTL without FIRE or REARM, slot control, and the power cap; every other offset ignores writes (R385). -/
def execRegisterWrite (who : Requester) (off : Nat) (val : W64) (s : State) : Out :=
  if off = 0x2000 then
    (if val.getLsbD 0 || val.getLsbD 8 then .next s else s.guardedWrite who off (fun s => { s with hub := s.hub.setShctl val }))
  else if 0x3000 ≤ off ∧ off < 0x4000 then s.guardedWrite who off (fun s => { s with hub := s.hub.slotWrite off val })
  else if off = 0x4000 + 8 * (Config.powerWord % 512) then s.guardedWrite who off (fun s => { s with hub := { s.hub with powerCap := val } })
  else .next s

/-! Boot (R397, R398). -/

/-- The slot that the security controller boots, if either will do. -/
def bootSlot (first : Bool) (ok : Bool → Bool) : Option Bool :=
  if ok first then some first else if ok (!first) then some (!first) else none

/-- The package resets: what is fused or held in the slots stays, and the security controller boots. -/
def State.reboot (s : State) : State :=
  let h := s.hub
  let sound (i : FwImage) : Bool := i.signed && decide (h.svnMin ≤ i.svn)
  let f := bootSlot h.farderNext (fun b => sound (if b then h.farder.2 else h.farder.1) && !(if b then h.slotFailed.2 else h.slotFailed.1))
  let c := bootSlot h.schedNext (fun b => sound (if b then h.sched.2 else h.sched.1))
  let kept : Hub := { Hub.reset with farder := h.farder, sched := h.sched, farderNext := h.farderNext, schedNext := h.schedNext,
                                     slotFailed := h.slotFailed, slotGood := h.slotGood, svnMin := h.svnMin }
  let hub : Hub := match f, c with
    | some fb, some cb =>
      { kept with farderB := fb, schedB := cb, farderNext := fb, schedNext := cb, booted := true,
                  trial := !(if fb then h.slotGood.2 else h.slotGood.1) }
    | _, _ => { kept with farderB := h.farderNext, schedB := h.schedNext, recovery := true }
  { State.reset with agenda := s.agenda, nonce := s.nonce, lastTeam := s.lastTeam, lastGrid := s.lastGrid, lastOp := s.lastOp,
                     lastTrap := s.lastTrap, hub := hub }

/-- PACKAGE_RESET (R397). -/
def execPackageReset (s : State) : Out := .next s.reboot

/-- IMAGE_DOWNLOAD (R397): in recovery, into a slot. -/
def execImageDownload (port : Nat) (scheduler slotB : Bool) (image : FwImage) (s : State) : Out :=
  let h := s.hub
  let up := if port = 0 then h.portUp.1 else port == 1 && h.portUp.2
  let into (p : FwImage × FwImage) : FwImage × FwImage := if slotB then (p.1, image) else (image, p.2)
  let clear (p : Bool × Bool) : Bool × Bool := if slotB then (p.1, false) else (false, p.2)
  if !up || !h.recovery then .next s
  else if scheduler then .next { s with hub := { h with sched := into h.sched, schedNext := slotB } }
  else .next { s with hub := { h with farder := into h.farder, farderNext := slotB, slotFailed := clear h.slotFailed, slotGood := clear h.slotGood } }

/-- Cycles of 60 s (00 R2). -/
def trialCycles : Nat := 60 * 1300000000

/-- HEARTBEAT (R398). -/
def execHeartbeat (s : State) : Out :=
  let h := s.hub
  if h.booted && h.trial && decide (s.now ≤ h.leftReset + trialCycles) then
    .next { s with hub := { h with trial := false, slotGood := if h.farderB then (h.slotGood.1, true) else (true, h.slotGood.2) } }
  else .next s

/-- HEARTBEAT_TIMEOUT (R398). -/
def execHeartbeatTimeout (s : State) : Out :=
  let h := s.hub
  if h.booted && h.trial && decide (h.leftReset + trialCycles < s.now) then
    .next (State.reboot { s with hub := { h with slotFailed := if h.farderB then (h.slotFailed.1, true) else (true, h.slotFailed.2),
                                                 farderNext := !h.farderB } })
  else .next s

/-! SPDM (R399); request codes and the order of the first three requests are those of SPDM 1.3 (log 6). -/

/-- DEVID (Table 23-2). -/
def devid : W64 :=
  let step := match Config.stepping % 3 with | 0 => 0x00 | 1 => 0x01 | _ => 0x10
  BitVec.ofNat 64 (0x4C4E * 2 ^ 48 + 0x0768 * 2 ^ 32 + step * 2 ^ 24 + 0x02 * 2 ^ 16)

/-- A request on a port. One that comes before its connection is set up is answered by an error, which carries nothing. -/
def State.spdmReply (s : State) (port code need reaches : Nat) (digests : List (BitVec 512)) (bytes : List (BitVec 4096)) : Out :=
  let h := s.hub
  let up := if port = 0 then h.portUp.1 else port == 1 && h.portUp.2
  let level := SMap.get 0 h.spdm port
  if !up || h.recovery then .next s
  else if need ≤ level then
    .next { s with hub := { h with spdm := SMap.set 0 h.spdm port (if reaches = 1 then 1 else max level reaches),
                                   replies := h.replies ++ [{ port := port, request := code, digests := digests, bytes := bytes }] } }
  else .next { s with hub := { h with replies := h.replies ++ [{ port := port, request := 0, digests := [], bytes := [] }] } }

/-- GET_VERSION (R399). -/
def execGetVersion (port : Nat) (s : State) : Out := s.spdmReply port 0x84 0 1 [] []
/-- GET_CAPABILITIES (R399). -/
def execGetCapabilities (port : Nat) (s : State) : Out := s.spdmReply port 0xE1 1 2 [] []
/-- NEGOTIATE_ALGORITHMS (R399). -/
def execNegotiateAlgorithms (port : Nat) (s : State) : Out := s.spdmReply port 0xE3 2 3 [] []
/-- GET_DIGESTS (R399). -/
def execGetDigests (port : Nat) (s : State) : Out := s.spdmReply port 0x81 3 3 [] [Config.spdmBytes 0x81 0]
/-- GET_CERTIFICATE (R399). -/
def execGetCertificate (port : Nat) (s : State) : Out := s.spdmReply port 0x82 3 3 [] [Config.spdmBytes 0x82 0]
/-- CHALLENGE (R399). -/
def execChallenge (port nonce : Nat) (s : State) : Out := s.spdmReply port 0x83 3 3 [] [Config.spdmBytes 0x83 nonce]

/-- The measurement blocks. -/
def Hub.measurement (h : Hub) (i : Nat) : BitVec 512 :=
  match i with
  | 3 => (if h.farderB then h.farder.2 else h.farder.1).measure
  | 4 => (if h.schedB then h.sched.2 else h.sched.1).measure
  | 5 => Config.fixedMeasure (5 + h.svnMin)
  | 6 => Config.devidMeasure devid
  | i => Config.fixedMeasure i

/-- GET_MEASUREMENTS (R399): one block, or with index 255 all six; a signature goes with them. -/
def execGetMeasurements (port index : Nat) (s : State) : Out :=
  let ds := if index = 255 then [1, 2, 3, 4, 5, 6] else if 1 ≤ index ∧ index ≤ 6 then [index] else []
  if ds.isEmpty then s.spdmReply port 0 0 0 [] []
  else s.spdmReply port 0xE0 3 3 (ds.map s.hub.measurement) [Config.spdmBytes 0xE0 s.nonce]

/-! Ports (R395, R396). -/

/-- PORT_LINK_UP (R395): to any rate and width of PCIe 6.0 up to x16. -/
def execPortLinkUp (port rate width : Nat) (s : State) : Out :=
  let h := s.hub
  if 1 ≤ rate ∧ rate ≤ 6 ∧ [1, 2, 4, 8, 16].contains width then
    match port with
    | 0 => .next { s with hub := { h with portUp := (true, h.portUp.2), portRate := ((rate, width), h.portRate.2) } }
    | 1 => .next { s with hub := { h with portUp := (h.portUp.1, true), portRate := (h.portRate.1, (rate, width)) } }
    | _ => .next s
  else .next s

/-- PORT_LINK_DOWN (R396). -/
def execPortLinkDown (port : Nat) (s : State) : Out :=
  let down (who : Requester) (h : Hub) : Hub := if h.holds who then { h with semaHeld := false } else h
  match port with
  | 0 => .next { s with hub := { down .port0 s.hub with portUp := (false, s.hub.portUp.2), portRate := ((0, 0), s.hub.portRate.2) } }
  | 1 => .next { s with hub := { down .port1 s.hub with portUp := (s.hub.portUp.1, false), portRate := (s.hub.portRate.1, (0, 0)) } }
  | _ => .next s

/-! Power (R293, R402). -/

/-- POWER_HOLDOFF (R402). -/
def execPowerHoldoff (cycles : Nat) (s : State) : Out := .next { s with hub := { s.hub with holdoff := s.hub.holdoff + cycles } }

/-- A strand stops with a machine-check; what it waited for is given up. -/
def State.tripStrand (s : State) (r : StrandRef) : State :=
  let x := s.strand r
  if x.st = .running ∨ x.st = .blocked then
    (s.onStrand r (fun x => { x with wait := .nothing })).takeTrap r (trapOf cMachine x.mask) x.pc x.pc
  else s

/-- THERMAL_TRIP (R402): every strand that runs or waits on a core is stopped, and both ports are told. -/
def execThermalTrip (s : State) : Out :=
  let ts := (s.teams.filter (fun p => p.2.live && decide (p.2.held ≠ .saved))).map Prod.fst
  let s1 := { s with rings := s.rings.filter (fun w => !ts.contains w.r.team)
                     quads := s.quads.map (fun (q : Nat × Quad) => (q.1, { q.2 with waits := q.2.waits.filter (fun w => !ts.contains w.r.team) }))
                     cores := s.cores.map (fun (k : Nat × Core) =>
                       (k.1, { k.2 with active := { k.2.active with reqs := [] }, shadow := { k.2.shadow with reqs := [] } })) }
  let s2 := ts.foldl (fun s t => s.onTeam t (fun T => { T with cs := { T.cs with calls := [] }, as := { T.as with calls := [] } })) s1
  let s3 := ts.foldl (fun s t => (s.strandsOf t .c ++ s.strandsOf t .a).foldl State.tripStrand s) s2
  .next { s3 with hub := { s3.hub.note 3 0 with railsOn := false, told := (s3.hub.note 3 0).told ++ [(3, 0), (3, 1)] } }

/-- WAY_GATE (17 R293): the lines of two ways leave the slice. -/
def execWayGate (slice pair : Nat) (s : State) : Out :=
  let key := 8 * slice + pair
  if slice < 384 ∧ pair < 8 ∧ s.gatedWays.all (fun p => p.1 ≠ key) then
    .next { s with l2 := s.l2.filter (fun l => !(l.slice == slice && l.way / 2 == pair)), gatedWays := SMap.put s.gatedWays key 0 }
  else .next s

/-- WAY_WAKE (17 R293): a gated pair begins to wake; 1,024 cycles later it is usable, invalid. -/
def execWayWake (slice pair : Nat) (s : State) : Out :=
  let key := 8 * slice + pair
  match s.gatedWays.find? (fun p => p.1 == key) with
  | none => .next s
  | some p =>
    if p.2 = 0 then .next { s with gatedWays := SMap.put s.gatedWays key (s.clock + 1) }
    else if p.2 - 1 + 1024 ≤ s.clock then .next { s with gatedWays := SMap.erase s.gatedWays key }
    else .next s

/-! Errors (17 R311, R312; 18 R315; 23 R403). -/

def State.counted (s : State) : State := { s with hub := { s.hub with errors := s.hub.errors + 1 } }
def State.poisonAt (s : State) (pa : Nat) : State := { s with poison := SMap.flag s.poison (pa / 128) true }

/-- L2_ECC_ERROR (17 R311): of a line that the L2 holds. -/
def execL2EccError (pa : Nat) (dirty : Bool) (kind : ErrorKind) (s : State) : Out :=
  if !s.l2.any (fun l => runsMeet l.bytes [(pa, 1)]) then .next s
  else match kind with
    | .corrected => .next s.counted
    | .refetch => .next (s.dropLines [(pa, 1)])
    | .uncorrectable => if dirty then .next (s.poisonAt pa) else .next (s.dropLines [(pa, 1)])

/-- What the HBM controller makes of an error (18 R315). -/
def State.hbmError (s : State) (pa : Nat) (kind : ErrorKind) : State :=
  match kind with
  | .uncorrectable => if pa < Config.hbmEnd then s.poisonAt pa else s
  | _ => s

/-- HBM_ECC_ERROR (18 R315). -/
def execHbmEccError (pa : Nat) (kind : ErrorKind) (s : State) : Out := .next (s.hbmError pa kind)
/-- PATROL_SCRUB (18 R315). -/
def execPatrolScrub (pa : Nat) (kind : ErrorKind) (s : State) : Out := .next (s.hbmError pa kind)

/-- An operation in flight over a link that goes down ends with a machine-check (17 R312): an access in its lanes that are not yet performed,
an engine operation after acceptance, a walk with its trace undone (19 R357), a ring word that waits. -/
def State.cutOff (s : State) (team op : Nat) : State :=
  let T := s.team team
  match T.acc? op with
  | some a =>
    let cut (l : LaneAcc) : LaneAcc := match l.at_, l.st with
      | .global, .toTranslate => { l with st := .failed cMachine 0 }
      | .global, .ready pa => { l with st := .failed cMachine (BitVec.ofNat 64 pa) }
      | _, _ => l
    s.onTeam team (fun T => T.putAcc op (a.lanes.map cut))
  | none =>
    match T.eng? op with
    | some e =>
      if e.stage = .accepted ∨ e.stage = .granted then
        match e.kind with
        | .publish _ _ | .repub _ _ _ =>
          let objs := match s.walking.find? (fun p => p.1 == op) with | some p => p.2.objs | none => []
          (objs.foldl (fun s o => s.setObjState o.2 0) s).walked team e (some (faultOf cMachine 0 0))
        | _ => s.engFault team e (faultOf cMachine 0 0)
      else s
    | none =>
      match s.rings.find? (fun w => w.r.team == team && w.before == op) with
      | some w =>
        let x := s.strand w.r
        State.takeTrap { s with rings := s.rings.filter (fun v => v.r ≠ w.r) } w.r
          { cause := cMachine, detail := 0, code := 0, mask := x.mask, addr := BitVec.ofNat 64 w.pa } x.pc x.pc
      | none => s

/-- DIE_LINK_CRC_ERROR (17 R312): a retry of the flit on the link, or the first of another flit (log 2); the 64th takes the link down,
and Farder is told. -/
def execDieLinkCrcError (link : Nat) (ops : List (Nat × Nat)) (s : State) : Out :=
  let n := SMap.get 0 s.links link
  if 64 ≤ n then .next s
  else
    let n1 := if Config.pick s.nonce % 2 = 0 then n + 1 else 1
    let s1 := State.drew { s with links := SMap.put s.links link n1 } 1
    if n1 < 64 then .next s1
    else .next (ops.foldl (fun s p => s.cutOff p.1 p.2)
      { s1 with hub := { s1.hub.note 2 link with told := (s1.hub.note 2 link).told ++ [(2, link)] } })

/-- SRAM_ECC_ERROR (R403): an error in a core SRAM is corrected, or causes a refetch, or stops the strand that holds or reads the state, at its
next word. -/
def execSramEccError (r : Option StrandRef) (lanes : Mask) (kind : ErrorKind) (s : State) : Out :=
  match kind, r with
  | .corrected, _ => .next s.counted
  | .refetch, _ => .next s
  | .uncorrectable, none => .next s
  | .uncorrectable, some r =>
    let x := s.strand r
    let m := lanes &&& x.mask
    if (decide (x.st = .running) || (decide (x.st = .blocked) && x.wait.retries)) && decide (m ≠ 0) && !s.untranslated r then
      .next (s.takeTrap r { cause := cMachine, detail := 0, code := 0, mask := m, addr := 0 } x.pc x.pc)
    else .next s

end Sys2Proof.Machine
end

