-- ==== Sys2Proof/Machine/Queue.lean ====
section
/-! DEFINITION. Queue words and the team barrier (08 R163 to R168). -/

namespace Sys2Proof.Machine

/-- QCFG (R163): references never travel through queues. -/
def execQcfg (q : BitVec 3) (t : BitVec 4) (s : State) : Out := finish s do
  require (decide (t ≠ tRef)) (.trap (trapOf cRefTag s.me.mask))
  .ok ((s.onMine (fun T => { T with qtags := SMap.set tRaw T.qtags q.toNat t })).advance)

/-- QSTAT (R165, Table 8-2). -/
def execQstat (d : BitVec 6) (q : BitVec 3) (s : State) : Out := finish s do
  needScalars s [d]
  let occ := (s.mine.lanesOf s.me.mask).map (fun l => (s.mine.queue q.toNat l).length)
  let v := leastOf 0 occ + occ.foldl max 0 * 2 ^ 4 + (s.mine.qtag q.toNat).toNat * 2 ^ 9 + bit1 s.otherClosed * 2 ^ 16
           + (occ.filter (fun n => n = 0)).length * 2 ^ 32 + (occ.filter (fun n => n = Config.queueDepth)).length * 2 ^ 48
  .ok ((s.putSreg d (BitVec.ofNat 64 v)).advance)

/-- QDRN (R164): filled entries go at once, reserved ones when their values arrive. -/
def execQdrn (q : BitVec 3) (s : State) : Out :=
  let drain (es : List QEntry) : List QEntry := (es.filter (fun e => e.val.isNone)).map (fun e => { e with drop := true })
  .next ((s.onMine (fun T => (T.lanesOf s.me.mask).foldl (fun T l => T.setQueue q.toNat l (drain (T.queue q.toNat l))) T)).advance)

/-- TBAR (R166 to R168). -/
def execTbar (n : BitVec 4) (s : State) : Out := finish s (s.arriveHere n.toNat)

end Sys2Proof.Machine
end

