-- ==== Sys2Proof/Machine/Scalar.lean ====
section
/-! DEFINITION. Scalar arithmetic and special registers (05 R111 to R115; 04 R85, R99). -/

namespace Sys2Proof.Machine

/-- A SALU word: s[sd] from s[sa] and s[sb], the REF tag cleared (R111, 04 R85). -/
def salu (s : State) (d a b : BitVec 6) (f : W64 → W64 → W64) : Out := finish s do
  needScalars s [d, a, b]
  .ok ((s.putSreg d (f (s.sreg a) (s.sreg b))).advance)

/-- A truth value as a scalar. -/
def boolWord (c : Bool) : W64 := if c then 1 else 0

/-- SADD. -/
def execSadd (d a b : BitVec 6) (s : State) : Out := salu s d a b (fun x y => x + y)
/-- SSUB. -/
def execSsub (d a b : BitVec 6) (s : State) : Out := salu s d a b (fun x y => x - y)
/-- SMUL. -/
def execSmul (d a b : BitVec 6) (s : State) : Out := salu s d a b (fun x y => x * y)
/-- SMULH: bits [127:64] of the signed product. -/
def execSmulh (d a b : BitVec 6) (s : State) : Out :=
  salu s d a b (fun x y => ((x.signExtend 128) * (y.signExtend 128)).extractLsb' 64 64)
/-- SAND. -/
def execSand (d a b : BitVec 6) (s : State) : Out := salu s d a b (fun x y => x &&& y)
/-- SOR; with sa = sb it copies the REF tag (04 R85). -/
def execSor (d a b : BitVec 6) (s : State) : Out := finish s do
  needScalars s [d, a, b]
  let ref := decide (a = b) && s.myStream.sref a
  .ok ((s.onMyStream (fun m => m.setSreg d (m.sreg a ||| m.sreg b) ref)).advance)
/-- SXOR. -/
def execSxor (d a b : BitVec 6) (s : State) : Out := salu s d a b (fun x y => x ^^^ y)
/-- SSHL. -/
def execSshl (d a b : BitVec 6) (s : State) : Out := salu s d a b (fun x y => x <<< (y.toNat % 64))
/-- SSHR. -/
def execSshr (d a b : BitVec 6) (s : State) : Out := salu s d a b (fun x y => x >>> (y.toNat % 64))
/-- SSRA. -/
def execSsra (d a b : BitVec 6) (s : State) : Out := salu s d a b (fun x y => x.sshiftRight (y.toNat % 64))
/-- SMIN. -/
def execSmin (d a b : BitVec 6) (s : State) : Out := salu s d a b (fun x y => if x.slt y then x else y)
/-- SMAX. -/
def execSmax (d a b : BitVec 6) (s : State) : Out := salu s d a b (fun x y => if x.slt y then y else x)
/-- SLT. -/
def execSlt (d a b : BitVec 6) (s : State) : Out := salu s d a b (fun x y => boolWord (x.slt y))
/-- SLTN. -/
def execSltn (d a b : BitVec 6) (s : State) : Out := salu s d a b (fun x y => boolWord (x.ult y))
/-- SSEL: the old value of s[sd] selects; the REF tag comes with the source (04 R85). -/
def execSsel (d a b : BitVec 6) (s : State) : Out := finish s do
  needScalars s [d, a, b]
  let src := if s.sreg d ≠ 0 then a else b
  .ok ((s.onMyStream (fun m => m.setSreg d (m.sreg src) (m.sref src))).advance)

/-- SADDI (R112). -/
def execSaddi (d a : BitVec 6) (i : BitVec 12) (s : State) : Out := finish s do
  needScalars s [d, a]
  .ok ((s.putSreg d (s.sreg a + sx64 i)).advance)
/-- SLUI (R112). -/
def execSlui (d : BitVec 6) (i : BitVec 18) (s : State) : Out := finish s do
  needScalars s [d]
  .ok ((s.putSreg d (sx64 i <<< 12)).advance)

/-! Special registers (Table 5-4). -/

/-- The identity of a strand as SID [8:0] with the stream in bit 9. -/
def sidWord (r : StrandRef) : Nat := r.sid.getD 0x100 + 512 * bit1 (decide (r.strm = .a))

/-- TEAMSHAPE (Table 5-5). -/
def teamShape (T : Team) : Nat :=
  T.lanes + T.ngroups * 2 ^ 16 + bit1 T.as.present * 2 ^ 35 + T.level * 2 ^ 36 + bit1 T.lw * 2 ^ 39
/-- PLACE (Table 5-6). -/
def placeWord (T : Team) : Nat := T.core % 24 + dieOf T.core * 2 ^ 8 + Config.packageNumber.toNat * 2 ^ 32
/-- REGSTAT (Table 4-3). -/
def regstat (T : Team) (x : Strand) : Nat := x.cnt + x.wm * 2 ^ 8 + T.pool * 2 ^ 12 + T.heldBlocks * 2 ^ 32
/-- The role of the lowest group of a mask (01 R26). -/
def roleOf (T : Team) (m : Mask) : Nat := (T.roles.getD ((T.groupsOf m).headD 0) 0).toNat

/-- The value of a special register (Table 5-4). -/
def specialReg (s : State) (n : Nat) : W64 :=
  let T := s.mine
  if 0x020 ≤ n ∧ n ≤ 0x027 then SMap.get 0 T.displays (n - 0x020)
  else match n with
    | 0x000 => BitVec.ofNat 64 (roleOf T s.me.mask)
    | 0x001 => BitVec.ofNat 64 (teamShape T)
    | 0x002 => BitVec.ofNat 64 T.tidx.1
    | 0x003 => BitVec.ofNat 64 T.tidx.2.1
    | 0x004 => BitVec.ofNat 64 T.tidx.2.2
    | 0x005 => BitVec.ofNat 64 T.gdim.1
    | 0x006 => BitVec.ofNat 64 T.gdim.2.1
    | 0x007 => BitVec.ofNat 64 T.gdim.2.2
    | 0x008 => BitVec.ofNat 64 T.crank
    | 0x009 => BitVec.ofNat 64 (placeWord T)
    | 0x00A => BitVec.ofNat 64 (T.ctx % 65536)
    | 0x00B => (s.grid T.grid).id
    | 0x00C => BitVec.ofNat 64 (sidWord s.cur)
    | 0x010 => s.myStream.fpmode
    | 0x011 => zx64 s.myStream.fpflags
    | 0x012 => BitVec.ofNat 64 (regstat T s.me)
    | 0x018 => BitVec.ofNat 64 (s.now + Config.cycleSkew (dieOf T.core) % 17)
    | _ => (s.core T.core).lclock

/-- SRD (R113). -/
def execSrd (d : BitVec 6) (n : BitVec 12) (s : State) : Out := finish s do
  needScalars s [d]
  .ok ((s.putSreg d (specialReg s n.toNat)).advance)

/-- SWR (R113): FPMODE and FPFLAGS alone are writable; FPMODE refuses a value with reserved bits (03 R63). -/
def execSwr (a : BitVec 6) (n : BitVec 12) (s : State) : Out := finish s do
  needScalars s [a]
  let v := s.sreg a
  if n = 0x010 ∧ v.toNat < 4 then .ok ((s.onMyStream (fun m => { m with fpmode := v })).advance)
  else if n = 0x011 then .ok ((s.onMyStream (fun m => m.setFlags v)).advance)
  else .error (.trap s.illegal)

end Sys2Proof.Machine
end

