-- ==== Sys2Proof/Machine/Special.lean ====
section
/-! DEFINITION. The special functions (07 R138 to R143). Each result is drawn from the values that R139 admits; which of them the
hardware returns is free, but for the values the spec prints (log 7). -/

namespace Sys2Proof.Machine

/-! Fixed point with 256 fractional bits. -/

def fxOne : Nat := 2 ^ 256
def fxLn2 : Nat := 0xb17217f7d1cf79abc9e3b39803f2f6af40f343267298b62d8a0d175b8baafa2b
def fxPi : Nat := 0x3243f6a8885a308d313198a2e03707344a4093822299f31d0082efa98ec4e6c89

/-- A signed fixed-point value of an exact value; F32 inputs of the functions' domains have no bits below. -/
def toFx (x : Val) : Int :=
  match x with
  | .fin neg m e =>
    let k : Nat := if 0 ≤ e + 256 then m * 2 ^ (e + 256).toNat else m / 2 ^ (-(e + 256)).toNat
    if neg then -(k : Int) else k
  | _ => 0

/-- Σ of terms of a series: each next term is t × x ÷ 2^256 ÷ d(n). -/
def fxSeries (x : Int) (d : Nat → Nat) : Nat → Nat → Int → Int
  | 0, _, _ => 0
  | k + 1, n, t => t + fxSeries x d k (n + 1) (t * x / fxOne / (d n : Int))

/-- 2^a for |a| ≤ 1/2: the exponential series of a ln 2. -/
def fxExp2 (a : Int) : Nat := (fxSeries (a * fxLn2 / fxOne) (fun n => n + 1) 60 0 fxOne).toNat

/-- Σ z^(2k+1) ÷ (2k+1). -/
def fxAtanh (z2 : Int) : Nat → Nat → Int → Int
  | 0, _, _ => 0
  | k + 1, n, t => t / (n : Int) + fxAtanh z2 k (n + 2) (t * z2 / fxOne)

/-- log2 a for a in [1/2, 2]. -/
def fxLog2 (a : Int) : Int :=
  let z := (a - fxOne) * fxOne / (a + fxOne)
  2 * fxAtanh (z * z / fxOne) 90 1 z * fxOne / fxLn2

/-- sin(π t) for t in [0, 1/2]. -/
def fxSinPi (t : Nat) : Nat :=
  let x : Int := (t * fxPi / fxOne : Nat)
  (fxSeries (-(x * x / fxOne)) (fun n => (2 * n + 2) * (2 * n + 3)) 40 0 x).toNat

/-- Integer square root, from the highest of n bits down. -/
def isqrt (x : Nat) : Nat → Nat → Nat
  | 0, r => r
  | k + 1, r => if (r + 2 ^ k) * (r + 2 ^ k) ≤ x then isqrt x k (r + 2 ^ k) else isqrt x k r

/-! Choosing an admitted value (R139). -/

/-- The flags of a result that is not exact. -/
def inexactFlags (mag : Nat) : Flags := fNX ||| flagIf (decide (mag < 2 ^ 23)) fUF

/-- A result within 1 ulp of a value that is not representable: one of the two adjacent F32 values. `mag` is the magnitude code of the
one towards zero. -/
def pick1 (op : Nat) (a : W32) (neg : Bool) (mag : Nat) : Nat × Flags :=
  let c := mag + Config.specialPick op a % 2
  (fp32.signed neg c, inexactFlags c)

/-- The F32 magnitudes within 2 ulp of y = Y ÷ 2^256, Y > 0 (R139). -/
def within2 (Y : Nat) : List Nat :=
  let c := (fp32.rnd 1 false 0 (.fin false Y (-256))).1
  let lg : Int := (Nat.log2 Y : Int) - 256
  let ulp : Int := (if lg < -126 then -126 else lg) - 23
  let u : Nat := 2 ^ (ulp + 256).toNat
  ((List.range 7).map (fun i => c + i - 4)).filter (fun k =>
    let v := (toFx (fp32.decode k)).toNat
    decide (v < Y + 2 * u) && decide (Y < v + 2 * u) && decide (k < 0x7F800000))

/-- A result within 2 ulp. -/
def pick2 (op : Nat) (a : W32) (neg : Bool) (Y : Nat) : Nat × Flags :=
  let l := within2 Y
  let c := l.getD (Config.specialPick op a % l.length) 0
  (fp32.signed neg c, inexactFlags c)

def nanCode : Nat := fp32.canonNaN
def one32 : Nat := 0x3F800000
def minusOne32 : Nat := 0xBF800000
def half : Val := .fin false 1 (-1)
def oneV : Val := .fin false 1 0
def twoV : Val := .fin false 2 0

/-- VEXPF (R140, Table 7-2): 2^a for a in [-0.5, 0.5]; three values are fixed on every stepping (10). -/
def exp2F (a : W32) (x : Val) : Nat × Flags :=
  match x with
  | .nan b => (nanCode, flagIf b fNV)
  | .inf neg => (if neg then 0 else fp32.infCode false, 0)
  | x =>
    if x.isZero then (one32, 0)
    else if 0 < Val.cmp x.abs half then (nanCode, fNV)
    else if a = 0x3F000000 then (0x3FB504F3, fNX)
    else if a = 0xBF000000 then (0x3F3504F3, fNX)
    else if a = 0x3E800000 then (0x3F9837F0, fNX)
    else pick1 0x40 a false (fp32.rnd 1 false 0 (.fin false (fxExp2 (toFx x)) (-256))).1

/-- VLOGF: log2 a for a in [0.5, 2]. -/
def log2F (a : W32) (x : Val) : Nat × Flags :=
  match x with
  | .nan b => (nanCode, flagIf b fNV)
  | .inf neg => if neg then (nanCode, fNV) else (fp32.infCode false, 0)
  | x =>
    if x.isZero then (fp32.infCode true, fDZ)
    else if x.neg ∨ Val.cmp x half < 0 ∨ 0 < Val.cmp x twoV then (nanCode, fNV)
    else if Val.cmp x half = 0 then (minusOne32, 0)
    else if Val.cmp x oneV = 0 then (0, 0)
    else if Val.cmp x twoV = 0 then (one32, 0)
    else
      let y := fxLog2 (toFx x)
      pick2 0x44 a (decide (y < 0)) y.natAbs

/-- VRCP: 1/a; the value of VRCP(1.5) is printed (15, worked program attn, note 13). -/
def rcpF (a : W32) (x : Val) : Nat × Flags :=
  match x with
  | .nan b => (nanCode, flagIf b fNV)
  | .inf neg => (fp32.signed neg 0, 0)
  | .fin neg m e =>
    if m = 0 then (fp32.infCode neg, fDZ)
    else
      let exact := decide (m = 2 ^ Nat.log2 m)
      let y : Val := if exact then .fin neg 1 (-e - Nat.log2 m) else .fin neg (2 ^ 80 / m) (-e - 80)
      let t := fp32.rnd 1 false 0 y
      if t.2.getLsbD 2 then (fp32.infCode neg, fOF ||| fNX)
      else if exact then (t.1, 0)
      else if a = 0x3FC00000 then (0x3F2AAAAB, fNX)
      else pick1 0x45 a neg (t.1 % 2 ^ 31)

/-- VRSQ: 1/√a for a > 0. -/
def rsqF (a : W32) (x : Val) : Nat × Flags :=
  match x with
  | .nan b => (nanCode, flagIf b fNV)
  | .inf neg => if neg then (nanCode, fNV) else (0, 0)
  | .fin neg m e =>
    if m = 0 then (fp32.infCode neg, fDZ)
    else if neg then (nanCode, fNV)
    else
      let m2 := if e % 2 = 0 then m else 2 * m
      let e2 := if e % 2 = 0 then e else e - 1
      let lg := Nat.log2 m2
      if m2 = 2 ^ lg ∧ lg % 2 = 0 then ((fp32.rnd 1 false 0 (.fin false 1 (-(e2 / 2) - (lg / 2 : Nat)))).1, 0)
      else pick1 0x46 a false (fp32.rnd 1 false 0 (.fin false (isqrt (2 ^ 128 / m2) 65 0) (-(e2 / 2) - 64))).1

/-- VSINP: sin(πa); r = a - 2 RNE_INT(a/2), formed exactly. -/
def sinpF (a : W32) (x : Val) : Nat × Flags :=
  match x with
  | .nan b => (nanCode, flagIf b fNV)
  | .inf _ => (nanCode, fNV)
  | .fin neg m e =>
    if m = 0 then (fp32.signed neg 0, 0)
    else if 0 ≤ e then (0, 0)
    else
      -- |a| mod 2 in units of 2^e, folded to [-1, 1] and to its sign
      let p := (-e).toNat
      let r := m % 2 ^ (p + 1)
      let up := decide (2 ^ p < r)
      let t := if up then 2 ^ (p + 1) - r else r
      let sign := neg != up
      if t = 0 ∨ t = 2 ^ p then (0, 0)
      else if 2 * t = 2 ^ p then (if sign then minusOne32 else one32, 0)
      else
        let fold := if 2 ^ p < 2 * t then 2 ^ p - t else t
        pick2 0x47 a sign (fxSinPi (fold * 2 ^ 256 / 2 ^ p))

/-- A special function of one F32 source: DAZ on it, FTZ on the result (R138). -/
def specialWord (s : State) (d a : BitVec 7) (f : W32 → Val → Nat × Flags) : Out :=
  let md := s.fpMode
  finish s (vecWord s [a.toNat] d.toNat (ruleTyped (fun t => decide (t = tF32))) (fun _ _ vs =>
    let y := fp32.flush md.ftz (f (arg0 0 vs) (fp32.decodeDaz md.daz (arg0 0 vs).toNat))
    { v := BitVec.ofNat 32 y.1, fl := y.2, gen := none }))

/-- VEXPF. -/
def execVexpf (d a : BitVec 7) (s : State) : Out := specialWord s d a exp2F
/-- VLOGF. -/
def execVlogf (d a : BitVec 7) (s : State) : Out := specialWord s d a log2F
/-- VRCP. -/
def execVrcp (d a : BitVec 7) (s : State) : Out := specialWord s d a rcpF
/-- VRSQ. -/
def execVrsq (d a : BitVec 7) (s : State) : Out := specialWord s d a rsqF
/-- VSINP. -/
def execVsinp (d a : BitVec 7) (s : State) : Out := specialWord s d a sinpF

/-- Rounding to an integral value (R141). -/
def rndIntegral (mode r : Nat) (x : Val) : Nat × Flags :=
  match x with
  | .nan b => (nanCode, flagIf b fNV)
  | .inf neg => (fp32.infCode neg, 0)
  | .fin neg m e =>
    if 0 ≤ e then ((fp32.rnd 1 false 0 (.fin neg m e)).1, 0)
    else
      let k := roundTo mode neg r m e 0
      ((fp32.rnd 1 false 0 (.fin neg k 0)).1, flagIf (decide (m % 2 ^ (-e).toNat ≠ 0)) fNX)

/-- VRNDI (R141): SR takes one step in every active lane. -/
def execVrndi (m : BitVec 3) (d a : BitVec 7) (s : State) : Out :=
  let md := s.fpMode
  let sr := decide (m.toNat = 5)
  finish s (vecWord s [a.toNat] d.toNat (ruleTyped (fun t => decide (t = tF32))) (fun l _ vs =>
    let g := genStep (s.mine.gen l)
    let y := fp32.flush md.ftz (rndIntegral m.toNat (g.toNat % 65536) (fp32.decodeDaz md.daz (arg0 0 vs).toNat))
    { v := BitVec.ofNat 32 y.1, fl := y.2, gen := if sr then some g else none }))

/-- VSCLB (R142). Beyond 2^±1000 every count gives the same result. -/
def execVsclb (d a b : BitVec 7) (s : State) : Out :=
  let md := s.fpMode
  let rule (ts : List (BitVec 4)) : Except Nat (BitVec 4) :=
    if arg0 0 ts = tF32 ∧ arg1 0 ts = tI32 then .ok tF32 else .error cTag
  finish s (vecWord s [a.toNat, b.toNat] d.toNat rule (fun _ _ vs =>
    let x := fp32.decodeDaz md.daz (arg0 0 vs).toNat
    let y := fp32.flush md.ftz (fp32.rnd 0 false 0 (x.scale (clampInt (-1000) 1000 (arg1 0 vs).toInt)))
    { v := BitVec.ofNat 32 y.1, fl := y.2 ||| x.nv, gen := none }))

/-- VEXPX (R143). -/
def execVexpx (d a : BitVec 7) (s : State) : Out :=
  let md := s.fpMode
  finish s (vecWord s [a.toNat] d.toNat (ruleTypedTo (fun t => decide (t = tF32)) tI32) (fun _ _ vs =>
    let x := fp32.decodeDaz md.daz (arg0 0 vs).toNat
    match x with
    | .nan _ => { v := 0x7FFFFFFF, fl := fNV, gen := none }
    | .inf _ => plain 0x7FFFFFFF
    | x => if x.isZero then { v := 0x80000000, fl := fDZ, gen := none } else plain (BitVec.ofInt 32 x.log2)))

/-- VEXPX.MANT (R143): the significand in [1, 2). -/
def execVexpxMant (d a : BitVec 7) (s : State) : Out :=
  let md := s.fpMode
  finish s (vecWord s [a.toNat] d.toNat (ruleTyped (fun t => decide (t = tF32))) (fun _ _ vs =>
    let x := fp32.decodeDaz md.daz (arg0 0 vs).toNat
    let y := fp32.rnd 0 false 0 (if x.isZero then x else x.scale (-x.log2))
    { v := BitVec.ofNat 32 y.1, fl := y.2 ||| x.nv, gen := none }))

end Sys2Proof.Machine
end

