-- ==== Sys2Proof/Machine/Dispatch.lean ====
section
/-! DEFINITION. The dispatch of every row of the opcode table to its meaning. -/

namespace Sys2Proof.Machine

/-- One step of the machine for row `i`: an instruction word as executed by the strand `s.cur`, or an event. -/
def exec (i : Instr) (s : State) : Host.Outcome State Fault Refusal :=
  match i with
  | .nop => Sys2Proof.Machine.execNop s
  | .bra o => Sys2Proof.Machine.execBra o s
  | .brc a k o => Sys2Proof.Machine.execBrc a k o s
  | .bri a => Sys2Proof.Machine.execBri a s
  | .call o => Sys2Proof.Machine.execCall o s
  | .ret => Sys2Proof.Machine.execRet s
  | .divb p imm o => Sys2Proof.Machine.execDivb p imm o s
  | .join => Sys2Proof.Machine.execJoin s
  | .endStrand => Sys2Proof.Machine.execEndStrand s
  | .yield n => Sys2Proof.Machine.execYield n s
  | .loop a k o => Sys2Proof.Machine.execLoop a k o s
  | .trap n => Sys2Proof.Machine.execTrap n s
  | .bkpt n => Sys2Proof.Machine.execBkpt n s
  | .sysc n => Sys2Proof.Machine.execSysc n s
  | .sadd d a b => Sys2Proof.Machine.execSadd d a b s
  | .ssub d a b => Sys2Proof.Machine.execSsub d a b s
  | .smul d a b => Sys2Proof.Machine.execSmul d a b s
  | .smulh d a b => Sys2Proof.Machine.execSmulh d a b s
  | .sand d a b => Sys2Proof.Machine.execSand d a b s
  | .sor d a b => Sys2Proof.Machine.execSor d a b s
  | .sxor d a b => Sys2Proof.Machine.execSxor d a b s
  | .sshl d a b => Sys2Proof.Machine.execSshl d a b s
  | .sshr d a b => Sys2Proof.Machine.execSshr d a b s
  | .ssra d a b => Sys2Proof.Machine.execSsra d a b s
  | .smin d a b => Sys2Proof.Machine.execSmin d a b s
  | .smax d a b => Sys2Proof.Machine.execSmax d a b s
  | .slt d a b => Sys2Proof.Machine.execSlt d a b s
  | .sltn d a b => Sys2Proof.Machine.execSltn d a b s
  | .ssel d a b => Sys2Proof.Machine.execSsel d a b s
  | .saddi d a imm => Sys2Proof.Machine.execSaddi d a imm s
  | .slui d imm => Sys2Proof.Machine.execSlui d imm s
  | .srd d n => Sys2Proof.Machine.execSrd d n s
  | .swr a n => Sys2Proof.Machine.execSwr a n s
  | .regacq p n => Sys2Proof.Machine.execRegacq p n s
  | .regrel p n => Sys2Proof.Machine.execRegrel p n s
  | .reggive p n => Sys2Proof.Machine.execReggive p n s
  | .regclaim p n => Sys2Proof.Machine.execRegclaim p n s
  | .vidx x a imm => Sys2Proof.Machine.execVidx x a imm s
  | .vrdx x d a => Sys2Proof.Machine.execVrdx x d a s
  | .vwrx x d a => Sys2Proof.Machine.execVwrx x d a s
  | .vtag t d a => Sys2Proof.Machine.execVtag t d a s
  | .vadd m d a b => Sys2Proof.Machine.execVadd m d a b s
  | .vsub m d a b => Sys2Proof.Machine.execVsub m d a b s
  | .vmul m d a b => Sys2Proof.Machine.execVmul m d a b s
  | .vfma m d a b => Sys2Proof.Machine.execVfma m d a b s
  | .vmin d a b => Sys2Proof.Machine.execVmin d a b s
  | .vmax d a b => Sys2Proof.Machine.execVmax d a b s
  | .vabs m d a => Sys2Proof.Machine.execVabs m d a s
  | .vneg m d a => Sys2Proof.Machine.execVneg m d a s
  | .vand d a b => Sys2Proof.Machine.execVand d a b s
  | .vor d a b => Sys2Proof.Machine.execVor d a b s
  | .vxor d a b => Sys2Proof.Machine.execVxor d a b s
  | .vnot d a => Sys2Proof.Machine.execVnot d a s
  | .vshl d a b => Sys2Proof.Machine.execVshl d a b s
  | .vshr d a b => Sys2Proof.Machine.execVshr d a b s
  | .vsra d a b => Sys2Proof.Machine.execVsra d a b s
  | .vmov d a => Sys2Proof.Machine.execVmov d a s
  | .vmovi d imm => Sys2Proof.Machine.execVmovi d imm s
  | .viota d imm => Sys2Proof.Machine.execViota d imm s
  | .vmovs m d a => Sys2Proof.Machine.execVmovs m d a s
  | .vaddi d a imm => Sys2Proof.Machine.execVaddi d a imm s
  | .vcmp p k a b f => Sys2Proof.Machine.execVcmp p k a b f s
  | .vsel m d a b => Sys2Proof.Machine.execVsel m d a b s
  | .vcvt t d a r sat p => Sys2Proof.Machine.execVcvt t d a r sat p s
  | .vpack t d a sat p => Sys2Proof.Machine.execVpack t d a sat p s
  | .vunpk t d a p => Sys2Proof.Machine.execVunpk t d a p s
  | .vdot d a b => Sys2Proof.Machine.execVdot d a b s
  | .vpopc d a => Sys2Proof.Machine.execVpopc d a s
  | .vclz d a => Sys2Proof.Machine.execVclz d a s
  | .pand d a b => Sys2Proof.Machine.execPand d a b s
  | .por d a b => Sys2Proof.Machine.execPor d a b s
  | .pnot d a => Sys2Proof.Machine.execPnot d a s
  | .vseed a b => Sys2Proof.Machine.execVseed a b s
  | .vrand m d => Sys2Proof.Machine.execVrand m d s
  | .leal la v imm e => Sys2Proof.Machine.execLeal la v imm e s
  | .vexpf d a => Sys2Proof.Machine.execVexpf d a s
  | .vrndi m d a => Sys2Proof.Machine.execVrndi m d a s
  | .vsclb d a b => Sys2Proof.Machine.execVsclb d a b s
  | .vexpx d a => Sys2Proof.Machine.execVexpx d a s
  | .vexpxMant d a => Sys2Proof.Machine.execVexpxMant d a s
  | .vlogf d a => Sys2Proof.Machine.execVlogf d a s
  | .vrcp d a => Sys2Proof.Machine.execVrcp d a s
  | .vrsq d a => Sys2Proof.Machine.execVrsq d a s
  | .vsinp d a => Sys2Proof.Machine.execVsinp d a s
  | .vshfl m d a b => Sys2Proof.Machine.execVshfl m d a b s
  | .vbcst d a b => Sys2Proof.Machine.execVbcst d a b s
  | .vred m d a => Sys2Proof.Machine.execVred m d a s
  | .vscan m d a => Sys2Proof.Machine.execVscan m d a s
  | .vbal m d p => Sys2Proof.Machine.execVbal m d p s
  | .vconf m d a => Sys2Proof.Machine.execVconf m d a s
  | .visect m d a b => Sys2Proof.Machine.execVisect m d a b s
  | .lds la v imm k z => Sys2Proof.Machine.execLds la v imm k z s
  | .sts la v imm k z => Sys2Proof.Machine.execSts la v imm k z s
  | .atoms la v h imm k g => Sys2Proof.Machine.execAtoms la v h imm k g s
  | .cass la v imm k z => Sys2Proof.Machine.execCass la v imm k z s
  | .waits => Sys2Proof.Machine.execWaits s
  | .qcfg q t => Sys2Proof.Machine.execQcfg q t s
  | .qstat d q => Sys2Proof.Machine.execQstat d q s
  | .qdrn q => Sys2Proof.Machine.execQdrn q s
  | .tbar n => Sys2Proof.Machine.execTbar n s
  | .ldl la v imm e z => Sys2Proof.Machine.execLdl la v imm e z s
  | .stl la v imm e z => Sys2Proof.Machine.execStl la v imm e z s
  | .atoml la v h imm e g => Sys2Proof.Machine.execAtoml la v h imm e g s
  | .ld la v imm k z => Sys2Proof.Machine.execLd la v imm k z s
  | .st la v imm k z => Sys2Proof.Machine.execSt la v imm k z s
  | .ldg la v imm k z => Sys2Proof.Machine.execLdg la v imm k z s
  | .stg la v imm k z => Sys2Proof.Machine.execStg la v imm k z s
  | .atom la v h imm k g => Sys2Proof.Machine.execAtom la v h imm k g s
  | .cas la v imm k z => Sys2Proof.Machine.execCas la v imm k z s
  | .waitc k n => Sys2Proof.Machine.execWaitc k n s
  | .fence sat => Sys2Proof.Machine.execFence sat s
  | .pref la v imm k => Sys2Proof.Machine.execPref la v imm k s
  | .xprb la d a f => Sys2Proof.Machine.execXprb la d a f s
  | .catset la d a => Sys2Proof.Machine.execCatset la d a s
  | .catget la d a w => Sys2Proof.Machine.execCatget la d a w s
  | .catld la a n => Sys2Proof.Machine.execCatld la a n s
  | .catfree la a => Sys2Proof.Machine.execCatfree la a s
  | .ldref la v imm k => Sys2Proof.Machine.execLdref la v imm k s
  | .ldrefS la v imm k => Sys2Proof.Machine.execLdrefS la v imm k s
  | .stref la v imm k => Sys2Proof.Machine.execStref la v imm k s
  | .strefS la v imm k => Sys2Proof.Machine.execStrefS la v imm k s
  | .mrsv p n => Sys2Proof.Machine.execMrsv p n s
  | .mrel => Sys2Proof.Machine.execMrel s
  | .mzero la k t => Sys2Proof.Machine.execMzero la k t s
  | .mma la u a b t => Sys2Proof.Machine.execMma la u a b t s
  | .mmas la u a b t => Sys2Proof.Machine.execMmas la u a b t s
  | .mrd la a b t => Sys2Proof.Machine.execMrd la a b t s
  | .msta la sat r b t => Sys2Proof.Machine.execMsta la sat r b t s
  | .mqnt la r b => Sys2Proof.Machine.execMqnt la r b s
  | .msal d a b => Sys2Proof.Machine.execMsal d a b s
  | .mpairSend la p b t => Sys2Proof.Machine.execMpairSend la p b t s
  | .mpairRecv la p b t => Sys2Proof.Machine.execMpairRecv la p b t s
  | .cbar => Sys2Proof.Machine.execCbar s
  | .ldsc la v imm k z => Sys2Proof.Machine.execLdsc la v imm k z s
  | .stsc la v imm k z => Sys2Proof.Machine.execStsc la v imm k z s
  | .epld la a x => Sys2Proof.Machine.execEpld la a x s
  | .epgen la d a x => Sys2Proof.Machine.execEpgen la d a x s
  | .epinv la d a x => Sys2Proof.Machine.execEpinv la d a x s
  | .epctxAcq la d a => Sys2Proof.Machine.execEpctxAcq la d a s
  | .epctxRel la => Sys2Proof.Machine.execEpctxRel la s
  | .epstat la d v x => Sys2Proof.Machine.execEpstat la d v x s
  | .tpref la d a => Sys2Proof.Machine.execTpref la d a s
  | .tflush la a => Sys2Proof.Machine.execTflush la a s
  | .cpy la d a => Sys2Proof.Machine.execCpy la d a s
  | .cpyt la d a => Sys2Proof.Machine.execCpyt la d a s
  | .rclaim la d a => Sys2Proof.Machine.execRclaim la d a s
  | .rcommit la d a => Sys2Proof.Machine.execRcommit la d a s
  | .rawait la d a => Sys2Proof.Machine.execRawait la d a s
  | .rretire la d a => Sys2Proof.Machine.execRretire la d a s
  | .spawn la d a => Sys2Proof.Machine.execSpawn la d a s
  | .jobnew la d a => Sys2Proof.Machine.execJobnew la d a s
  | .jobwait la d a => Sys2Proof.Machine.execJobwait la d a s
  | .icinv la a => Sys2Proof.Machine.execIcinv la a s
  | .objnew la d a => Sys2Proof.Machine.execObjnew la d a s
  | .publish la a => Sys2Proof.Machine.execPublish la a s
  | .objinfo la d a => Sys2Proof.Machine.execObjinfo la d a s
  | .launch la d a => Sys2Proof.Machine.execLaunch la d a s
  | .waitch la d => Sys2Proof.Machine.execWaitch la d s
  | .fput la a => Sys2Proof.Machine.execFput la a s
  | .fget la a => Sys2Proof.Machine.execFget la a s
  | .fatom la a => Sys2Proof.Machine.execFatom la a s
  | .renq la a => Sys2Proof.Machine.execRenq la a s
  | .coll la a => Sys2Proof.Machine.execColl la a s
  | .fsig la a => Sys2Proof.Machine.execFsig la a s
  | .candidateUrgent r => Sys2Proof.Machine.execCandidateUrgent r s
  | .yieldExpiry r => Sys2Proof.Machine.execYieldExpiry r s
  | .quotaDenial core => Sys2Proof.Machine.execQuotaDenial core s
  | .registerRequestGrant core team => Sys2Proof.Machine.execRegisterRequestGrant core team s
  | .loadComplete team op lane => Sys2Proof.Machine.execLoadComplete team op lane s
  | .memoryAccessPerform team op lane viaL1 => Sys2Proof.Machine.execMemoryAccessPerform team op lane viaL1 s
  | .translationWalkComplete team op lane => Sys2Proof.Machine.execTranslationWalkComplete team op lane s
  | .pageFaultPark team op => Sys2Proof.Machine.execPageFaultPark team op s
  | .xPipeAccept team op => Sys2Proof.Machine.execXPipeAccept team op s
  | .matrixEngineGrant quad team => Sys2Proof.Machine.execMatrixEngineGrant quad team s
  | .entryUrgent quad team => Sys2Proof.Machine.execEntryUrgent quad team s
  | .mrsvGrant quad => Sys2Proof.Machine.execMrsvGrant quad s
  | .mrsvTimeout quad r => Sys2Proof.Machine.execMrsvTimeout quad r s
  | .pairMatch sender sendOp receiver recvOp => Sys2Proof.Machine.execPairMatch sender sendOp receiver recvOp s
  | .pairAbortTimeout team op => Sys2Proof.Machine.execPairAbortTimeout team op s
  | .copyOperationComplete team op => Sys2Proof.Machine.execCopyOperationComplete team op s
  | .ephemerisOperationComplete team op => Sys2Proof.Machine.execEphemerisOperationComplete team op s
  | .engineOperationRetire team strm cls => Sys2Proof.Machine.execEngineOperationRetire team strm cls s
  | .deferredTrap team => Sys2Proof.Machine.execDeferredTrap team s
  | .publicationWalk die => Sys2Proof.Machine.execPublicationWalk die s
  | .ringWaitGrant r => Sys2Proof.Machine.execRingWaitGrant r s
  | .taskDispatch core place => Sys2Proof.Machine.execTaskDispatch core place s
  | .taskSteal core victim => Sys2Proof.Machine.execTaskSteal core victim s
  | .taskRetire team => Sys2Proof.Machine.execTaskRetire team s
  | .unitPlacement grid places => Sys2Proof.Machine.execUnitPlacement grid places s
  | .gridUrgent grid => Sys2Proof.Machine.execGridUrgent grid s
  | .gridEnd grid => Sys2Proof.Machine.execGridEnd grid s
  | .trapQueueDrain ctx => Sys2Proof.Machine.execTrapQueueDrain ctx s
  | .resume ctx seq opts => Sys2Proof.Machine.execResume ctx seq opts s
  | .resumePublish ctx seq => Sys2Proof.Machine.execResumePublish ctx seq s
  | .skip ctx seq opts => Sys2Proof.Machine.execSkip ctx seq opts s
  | .kill ctx seq => Sys2Proof.Machine.execKill ctx seq s
  | .killteam ctx seq => Sys2Proof.Machine.execKillteam ctx seq s
  | .bankSwitch cores => Sys2Proof.Machine.execBankSwitch cores s
  | .spillSave core => Sys2Proof.Machine.execSpillSave core s
  | .shadowLoad core ctx image places => Sys2Proof.Machine.execShadowLoad core ctx image places s
  | .windowRestore team rowset => Sys2Proof.Machine.execWindowRestore team rowset s
  | .stripeWake core stripe => Sys2Proof.Machine.execStripeWake core stripe s
  | .wayGate slice pair => Sys2Proof.Machine.execWayGate slice pair s
  | .wayWake slice pair => Sys2Proof.Machine.execWayWake slice pair s
  | .comparatorWrite who core reg val => Sys2Proof.Machine.execComparatorWrite who core reg val s
  | .semaRead who => Sys2Proof.Machine.execSemaRead who s
  | .semaWrite who => Sys2Proof.Machine.execSemaWrite who s
  | .registerWrite who off val => Sys2Proof.Machine.execRegisterWrite who off val s
  | .shctlFire who val => Sys2Proof.Machine.execShctlFire who val s
  | .shctlRearm who val => Sys2Proof.Machine.execShctlRearm who val s
  | .shutterLatch => Sys2Proof.Machine.execShutterLatch s
  | .heartbeat => Sys2Proof.Machine.execHeartbeat s
  | .heartbeatTimeout => Sys2Proof.Machine.execHeartbeatTimeout s
  | .packageReset => Sys2Proof.Machine.execPackageReset s
  | .imageDownload port scheduler slotB image => Sys2Proof.Machine.execImageDownload port scheduler slotB image s
  | .getVersion port => Sys2Proof.Machine.execGetVersion port s
  | .getCapabilities port => Sys2Proof.Machine.execGetCapabilities port s
  | .negotiateAlgorithms port => Sys2Proof.Machine.execNegotiateAlgorithms port s
  | .getDigests port => Sys2Proof.Machine.execGetDigests port s
  | .getCertificate port => Sys2Proof.Machine.execGetCertificate port s
  | .challenge port nonce => Sys2Proof.Machine.execChallenge port nonce s
  | .getMeasurements port index => Sys2Proof.Machine.execGetMeasurements port index s
  | .portLinkDown port => Sys2Proof.Machine.execPortLinkDown port s
  | .powerHoldoff cycles => Sys2Proof.Machine.execPowerHoldoff cycles s
  | .thermalTrip => Sys2Proof.Machine.execThermalTrip s
  | .l2EccError pa dirty kind => Sys2Proof.Machine.execL2EccError pa dirty kind s
  | .hbmEccError pa kind => Sys2Proof.Machine.execHbmEccError pa kind s
  | .patrolScrub pa kind => Sys2Proof.Machine.execPatrolScrub pa kind s
  | .dieLinkCrcError link ops => Sys2Proof.Machine.execDieLinkCrcError link ops s
  | .fabricLinkRetryLimit link => Sys2Proof.Machine.execFabricLinkRetryLimit link s
  | .remoteOperation op => Sys2Proof.Machine.execRemoteOperation op s
  | .remoteEnqueueRequest group addr arg origin core => Sys2Proof.Machine.execRemoteEnqueueRequest group addr arg origin core s
  | .remoteTaskCompletion team op refused killed => Sys2Proof.Machine.execRemoteTaskCompletion team op refused killed s
  | .fabricOperationComplete team op result => Sys2Proof.Machine.execFabricOperationComplete team op result s
  | .collJoinTimeout team op => Sys2Proof.Machine.execCollJoinTimeout team op s
  | .rootLaunch ctx desc => Sys2Proof.Machine.execRootLaunch ctx desc s
  | .contextCreate ctx plan => Sys2Proof.Machine.execContextCreate ctx plan s
  | .bundleLoad ctx version isa images => Sys2Proof.Machine.execBundleLoad ctx version isa images s
  | .pageFaultService ctx vpn ptes copy => Sys2Proof.Machine.execPageFaultService ctx vpn ptes copy s
  | .extentRevoke team index => Sys2Proof.Machine.execExtentRevoke team index s
  | .shootdown ctx base len => Sys2Proof.Machine.execShootdown ctx base len s
  | .fabricGroupAttach ctx group => Sys2Proof.Machine.execFabricGroupAttach ctx group s
  | .fabricWindowRegister ctx base len perms => Sys2Proof.Machine.execFabricWindowRegister ctx base len perms s
  | .null r => Sys2Proof.Machine.execNull r s
  | .log r => Sys2Proof.Machine.execLog r s
  | .time r => Sys2Proof.Machine.execTime r s
  | .map r base ptes => Sys2Proof.Machine.execMap r base ptes s
  | .unmap r ptes => Sys2Proof.Machine.execUnmap r ptes s
  | .protect r ptes => Sys2Proof.Machine.execProtect r ptes s
  | .handler r => Sys2Proof.Machine.execHandler r s
  | .resumerec r => Sys2Proof.Machine.execResumerec r s
  | .setbypass r => Sys2Proof.Machine.execSetbypass r s
  | .notify r => Sys2Proof.Machine.execNotify r s
  | .exit r => Sys2Proof.Machine.execExit r s
  | .scratchpadAccessPerform team op lane => Sys2Proof.Machine.execScratchpadAccessPerform team op lane s
  | .sramEccError r lanes kind => Sys2Proof.Machine.execSramEccError r lanes kind s
  | .fabricFlitCrcError link => Sys2Proof.Machine.execFabricFlitCrcError link s
  | .portLinkUp port rate width => Sys2Proof.Machine.execPortLinkUp port rate width s
  | .fabricWindowRemove ctx index => Sys2Proof.Machine.execFabricWindowRemove ctx index s

end Sys2Proof.Machine
end

