-- ==== Sys2Proof/Machine/Harts.lean ====
section
/-! DEFINITION. The control-core harts and the hub window (18 R320; 23 R384 to R386, R396, R400). What the instructions of RV64GC do to a hart's
own registers is not in the spec: an act brings the new values (log 33). -/

namespace Sys2Proof.Machine

def State.hart (s : State) (h : Nat) : Hart := SMap.get Hart.reset s.hub.harts h
def State.onHart (s : State) (h : Nat) (f : Hart → Hart) : State :=
  { s with hub := { s.hub with harts := SMap.set Hart.reset s.hub.harts h (f (s.hart h)) } }

/-- Register x0 reads zero and ignores writes. -/
def Hart.x (k : Hart) (r : Nat) : W64 := if r = 0 then 0 else SMap.get 0 k.xregs r
def Hart.setX (k : Hart) (r : Nat) (v : W64) : Hart := if r = 0 then k else { k with xregs := SMap.set 0 k.xregs r v }

/-! The hub window (R385, Table 23-1). -/

/-- The physical address of the hub window's first byte. -/
def hubBase : Nat := 0xC000000000

/-- SHCTL as it reads (Table 23-5). -/
def Hub.shctl (h : Hub) : W64 :=
  BitVec.ofNat 64 (h.shCause.toNat * 2 ^ 24 + h.shMiss * 2 ^ 16 + bit1 h.shLatched * 2 ^ 7 + h.shSrc % 8 * 2 ^ 4 + bit1 h.shEtrap * 4 + bit1 h.shEcmp * 2)

/-- A word of a core's debug block (11 R227; R400). -/
def State.debugWord (s : State) (core off : Nat) : W64 :=
  if 0x100 ≤ off ∧ off < 0x200 then
    let c := (SMap.get Comparator.reset (s.core core).cmps ((off - 0x100) / 32)).regs
    match off % 32 / 8 with | 0 => c.ctl | 1 => c.lo | 2 => c.hi | _ => c.qual
  else if 0x8000 ≤ off then
    match s.hub.snaps.find? (fun n => n.core == core) with
    | some n => Config.hubWord (0x8000 + off) ([n.core, n.cycle, n.tlbMisses, n.l1dMisses] ++ n.states.flatMap (fun p => p.1 :: p.2)
        ++ n.rootPcs.flatMap (fun p => [p.1, p.2.1.toNat, p.2.2.toNat]) ++ n.counters.flatMap (fun p => p.1 :: p.2) ++ n.occupancy.flatMap (fun p => p.1 :: p.2))
    | none => Config.hubWord (0x8000 + off) []
  else 0

/-- An aligned 8-byte word of the hub window, but for SEMA, whose read is an event of its own. Outside Table 23-1 it is zero. -/
def State.hubWord (s : State) (off : Nat) : W64 :=
  let h := s.hub
  if off = 0 then devid
  else if off < 0x1000 then Config.hubWord off (h.errors :: h.errLog.flatMap (fun p => [p.1, p.2]))
  else if off = 0x2000 then h.shctl
  else if 0x3000 ≤ off ∧ off < 0x4000 then
    Config.hubWord off [bit1 h.farderB, bit1 h.schedB, bit1 h.farderNext, bit1 h.schedNext, bit1 h.slotFailed.1, bit1 h.slotFailed.2,
                        bit1 h.slotGood.1, bit1 h.slotGood.2, bit1 h.trial, h.svnMin]
  else if off = 0x4000 + 8 * (Config.powerWord % 512) then h.powerCap
  else if 0x4000 ≤ off ∧ off < 0x5000 then Config.hubWord off [bit1 h.railsOn, s.nonce]
  else if 0x10000000 ≤ off ∧ off < 0x10000000 + 0x10000 * 192 then s.debugWord ((off - 0x10000000) / 0x10000) (off % 0x10000)
  else if 0x20000000 ≤ off ∧ off < 0x20000000 + 0x10000 * 384 then Config.hubWord off (bit1 h.shLatched :: h.snaps.map (fun n => n.cycle))
  else 0

/-- A read of the hub window: its value, and the state, which a read of a free SEMA changes (R396). None where SEMA's order in one cycle
holds the read. -/
def State.hubRead (s : State) (who : Requester) (off : Nat) : Option (W64 × State) :=
  if off = 0x1000 then
    match execSemaRead who s with
    | .next t => if t = s then none else some (t.hub.semaRead, t)
    | _ => none
  else some (s.hubWord (off / 8 * 8), s.drew 1)

/-- A write to the hub window (R385, R396): each register's own event; every other place ignores writes. -/
def State.hubWrite (s : State) (who : Requester) (off : Nat) (v : W64) : State :=
  let o : Out :=
    if off = 0x1000 then execSemaWrite who s
    else if off = 0x2000 ∧ v.getLsbD 0 then execShctlFire who v s
    else if off = 0x2000 ∧ v.getLsbD 8 then execShctlRearm who v s
    else if 0x10000000 ≤ off ∧ off < 0x10000000 + 0x10000 * 192 ∧ 0x100 ≤ off % 0x10000 ∧ off % 0x10000 < 0x200 then
      execComparatorWrite who ((off - 0x10000000) / 0x10000) ((off % 0x10000 - 0x100) / 8) v s
    else execRegisterWrite who off v s
  match o with
  | .next t => t
  | _ => s

/-- A read through BAR0 (R385): the port keeps what it returned. -/
def State.barRead (s : State) (who : Requester) (off : Nat) : State :=
  if !s.hub.reaches who then s
  else match s.hubRead who off with
    | none => s
    | some (v, t) =>
      match who with
      | .port0 => { t with hub := { t.hub with portRead := (v, t.hub.portRead.2) } }
      | .port1 => { t with hub := { t.hub with portRead := (t.hub.portRead.1, v) } }
      | .harts => t

/-! Harts (R384). -/

/-- The CSR numbers of satp and of its fields' meaning: mode 9 is Sv48, 0 is no translation. PRESUMED (log 33): the privileged architecture. -/
def csrSatp : Nat := 0x180

/-- Translation of a hart: none in M mode or without Sv48, else through its translations or by a walk. -/
def State.hartPa (s : State) (h : Nat) (e : W64) (n : Need) : Option (Nat × State) :=
  let k := s.hart h
  let satp := (SMap.get 0 k.csrs csrSatp).toNat
  if k.mode = 3 ∨ satp / 2 ^ 60 = 0 then some (e.toNat % 2 ^ 56, s)
  else if !canonical e then none
  else
    let va := va48 e
    match k.tlb.find? (fun x => x.hits 0 va n) with
    | some x => some (x.pa + va % pageSize x.level, s)
    | none =>
      match s.walkFrom va 4 (satp % 2 ^ 44 * 4096) with
      | none => none
      | some l =>
        let p := l.pte
        let user := p.getLsbD 4
        if (n.r && !p.getLsbD 1) || (n.w && !p.getLsbD 2) || (decide (k.mode = 0) && !user) then none
        else
          let q := p ||| 0x40 ||| (if n.w then 0x80 else 0)
          let s1 := if q = p then s else { s with mem := Memory.writeN s.mem l.at_ (bytesOfNat 8 q.toNat) }
          let x : TlbEntry := { ctx := 0, vpn := va / pageSize l.level, level := l.level, pa := l.pa va - va % pageSize l.level,
                                r := q.getLsbD 1, w := q.getLsbD 2, d := q.getLsbD 7, contig := q.getLsbD 8 }
          some (l.pa va, s1.onHart h (fun k => { k with tlb := x :: k.tlb }))

/-- A value of a size, sign-extended. -/
def sxBytes (size v : Nat) : W64 := if size = 8 then BitVec.ofNat 64 v else if size = 4 then sx64 (BitVec.ofNat 32 v) else BitVec.ofNat 64 v

/-- The new value of an AMO over w bits. -/
def HartAmo.value (f : HartAmo) (w a b : Nat) : Nat :=
  let i (v : Nat) : Int := (BitVec.ofNat w v).toInt
  match f with
  | .swap => b
  | .add => (a + b) % 2 ^ w
  | .xor => Nat.xor a b
  | .and => Nat.land a b
  | .or => Nat.lor a b
  | .min => if i a ≤ i b then a else b
  | .max => if i a ≤ i b then b else a
  | .minu => Nat.min a b
  | .maxu => Nat.max a b

/-- The sources of the PLIC that notices have raised (R384). -/
def State.plicPending (s : State) : List Nat := s.hub.plic.map (fun p => Config.plicSource p.1 p.2 % 1023 + 1)

/-- Whether an external interrupt is pending for a hart: a raised source that it has enabled. -/
def State.hartInterrupt (s : State) (h : Nat) : Bool := s.plicPending.any (fun n => SMap.has s.hub.plicEn (1024 * h + n))

/-- A hart's access to memory at a place: it is performed at the home slice, in the hart's order (18 R316, R320); a place in the hub window
answers in M and S mode (R385). -/
def State.hartLoad (s : State) (h rd pa size : Nat) : State :=
  if pa + size ≤ Config.hbmEnd then s.onHart h (fun k => k.setX rd (sxBytes size (s.memNat pa size)))
  else if (s.hart h).mode ≠ 0 ∧ hubBase ≤ pa ∧ pa < hubBase + 2 ^ 32 then
    match s.hubRead .harts (pa - hubBase) with
    | some (v, t) => t.onHart h (fun k => k.setX rd v)
    | none => s
  else s

def State.hartPut (s : State) (h pa size : Nat) (v : W64) : State :=
  if pa + size ≤ Config.hbmEnd then s.storeNat pa size v.toNat
  else if (s.hart h).mode ≠ 0 ∧ hubBase ≤ pa ∧ pa < hubBase + 2 ^ 32 then s.hubWrite .harts (pa - hubBase) v
  else s

/-- What a hart does next. An access that does not translate, or that no part answers, has no effect here: the hart's trap is an act of its
own. DESIGN CHOICE (log 33): SC may fail at any time, and succeeds where the reserved bytes are as LR read them. -/
def State.hartAct (s : State) (h : Nat) (a : HartAct) : State :=
  let k := s.hart h
  let sized (size : Nat) : Bool := [1, 2, 4, 8].contains size
  let word (size : Nat) (va : W64) : Bool := (size == 4 || size == 8) && decide (va.toNat % size = 0)
  if 16 ≤ h then s
  else match a with
  | .load rd va size =>
    if !sized size then s
    else match s.hartPa h va { r := true, w := false } with
      | some (pa, t) => t.hartLoad h rd pa size
      | none => s
  | .store rs va size =>
    if !sized size then s
    else match s.hartPa h va { r := false, w := true } with
      | some (pa, t) => t.hartPut h pa size (k.x rs)
      | none => s
  | .amo f rd rs va size =>
    if !word size va then s
    else match s.hartPa h va { r := true, w := true } with
      | some (pa, t) =>
        if pa + size ≤ Config.hbmEnd then
          let old := t.memNat pa size
          (t.storeNat pa size (f.value (8 * size) old ((k.x rs).toNat % 2 ^ (8 * size)))).onHart h (fun k => k.setX rd (sxBytes size old))
        else t
      | none => s
  | .lr rd va size =>
    if !word size va then s
    else match s.hartPa h va { r := true, w := false } with
      | some (pa, t) =>
        if pa + size ≤ Config.hbmEnd then
          t.onHart h (fun k => { k.setX rd (sxBytes size (t.memNat pa size)) with resv := some (pa, size, t.memNat pa size) })
        else t
      | none => s
  | .sc rd rs va size =>
    if !word size va then s
    else match s.hartPa h va { r := false, w := true } with
      | some (pa, t) =>
        let hold := k.resv == some (pa, size, t.memNat pa size) && decide (pa + size ≤ Config.hbmEnd) && decide (Config.pick t.nonce % 2 = 0)
        let t1 := if hold then t.storeNat pa size (k.x rs).toNat else t
        (t1.onHart h (fun k => { k.setX rd (if hold then 0 else 1) with resv := none })).drew 1
      | none => s
  | .fence => s
  | .sfence va => s.onHart h (fun k => { k with tlb := k.tlb.filter (fun x => match va with
      | some e => decide (x.vpn ≠ va48 e / pageSize x.level)
      | none => false) })
  | .claim source =>
    if SMap.has s.hub.plicEn (1024 * h + source) then
      { s with hub := { s.hub with plic := s.hub.plic.filter (fun p => Config.plicSource p.1 p.2 % 1023 + 1 ≠ source) } }
    else s
  | .enable source on =>
    if 1 ≤ source ∧ source < 1024 then { s with hub := { s.hub with plicEn := SMap.flag s.hub.plicEn (1024 * h + source) on } } else s
  | .own xs fs cs pc mode => s.onHart h (fun k =>
      { xs.foldl (fun k p => k.setX p.1 p.2) k with
        fregs := fs.foldl (fun m p => SMap.set 0 m p.1 p.2) k.fregs
        csrs := cs.foldl (fun m p => SMap.set 0 m p.1 p.2) k.csrs
        pc := pc, mode := if mode = 0 ∨ mode = 1 then mode else 3 })

end Sys2Proof.Machine
end

