-- ==== Sys2Proof/Machine/Schedule.lean ====
section
/-! DEFINITION. Issue: the passes of a word by group, which strand a front end selects, and how cycles pass (01 R15 to R18, R21, R30;
05 R110; 06 R132; 07 R144; 11 R221, R234). -/

namespace Sys2Proof.Machine

/-! A word with passes taken ahead of the rest (01 R15). -/

/-- The groups in which the word at a strand's pc has passed already. -/
def Strand.passedAt (x : Strand) (pc : W64) : List Nat := (x.early.filter (fun p => p.1 = pc)).map Prod.snd

/-- The mask with which the word at a strand's pc still has to pass. -/
def State.restMask (s : State) : Mask :=
  (s.me.passedAt s.me.pc).foldl (fun m g => m &&& ~~~s.mine.groupMask g) s.me.mask

/-- Executes a word in the groups in which it has not yet passed. -/
def State.runWord (s : State) (i : Instr) : Out :=
  let x := s.me
  if (x.passedAt x.pc).isEmpty then exec i s
  else
    let gone (y : Strand) : Strand := { y with mask := x.mask, early := y.early.filter (fun p => p.1 ≠ x.pc) }
    if s.restMask = 0 then .next (s.onStrand s.cur (fun y => gone y.advance))
    else
      let s1 := s.onStrand s.cur (fun y => { y with mask := s.restMask })
      match exec i s1 with
      | .next t => if t = s1 then .next s else .next (t.onStrand s.cur (fun y => if y.pc = x.pc ∧ y.st = .blocked then { y with mask := x.mask } else gone y))
      | o => o

/-! One turn of a strand. -/

/-- A strand's turn without the front end's choice: its outcome, and whether anything issued. -/
def State.attempt (s : State) (r : StrandRef) : Out × Bool :=
  let was := decide ((s.strand r).st = .blocked)
  match s.front r with
  | .done o => (o, match o with | .next t => decide (t ≠ { s with cur := r }) | _ => true)
  | .word i s1 =>
    let o := s1.runWord i
    (settled r o, match o with
      | .next t => decide (t ≠ s1) && !(was && decide ((t.strand r).st = .blocked))
      | _ => true)

/-- Whether a strand is ready with its next word (01 R16). -/
def State.canIssue (s : State) (r : StrandRef) : Bool := s.candidate r && (s.attempt r).2

/-! Selection (01 R17). -/

/-- A candidate that has been ready for 2,048 cycles is urgent. -/
def State.isUrgent (s : State) (r : StrandRef) : Bool := (s.strand r).urgent || decide ((s.strand r).readyAt + 2048 ≤ s.clock)

/-- The order of two strands at a front end: the urgent class, age, team slot, the root strand, the record's index. -/
def State.ahead (s : State) (q r : StrandRef) : Bool :=
  let place (r : StrandRef) : Nat := match r.sid with | none => 0 | some i => i + 1
  if s.isUrgent q ≠ s.isUrgent r then s.isUrgent q
  else if (s.strand q).readyAt ≠ (s.strand r).readyAt then decide ((s.strand q).readyAt < (s.strand r).readyAt)
  else if (s.team q.team).slot ≠ (s.team r.team).slot then decide ((s.team q.team).slot < (s.team r.team).slot)
  else decide (place q < place r)

/-- Whether a front end can issue in this cycle. In one cycle the C front end goes before the A front end (01 R21; 06 R132; 11 R221): where
the A front end has issued first, the C front end issues in the next cycle (log 27). -/
def State.frontFree (s : State) (core : Nat) (x : StreamId) : Bool :=
  let k := s.core core
  match x with
  | .c => decide (k.busyC ≤ s.clock) && decide (k.busyA ≤ s.clock)
  | .a => decide (k.busyA ≤ s.clock)

/-- Whether a front end selects a strand now: one at the start of a bundle against every other that is ready; the further words of a bundle
issue with its first. -/
def State.selectable (s : State) (r : StrandRef) : Bool :=
  let core := (s.team r.team).core
  s.candidate r
  && (if (s.strand r).checked = 0 then
        s.frontFree core r.strm
        && (s.frontEnd core r.strm).all (fun q => q == r || decide ((s.strand q).checked ≠ 0) || s.ahead r q || !s.canIssue q)
      else decide (r.strm = .a) || decide ((s.core core).busyA ≤ s.clock))

/-- A front end has issued in this cycle. -/
def State.issuedAt (s : State) (core : Nat) (x : StreamId) : State :=
  s.onCore core (fun k => match x with
    | .c => { k with busyC := s.clock + 1 }
    | .a => { k with busyA := s.clock + 1 })

/-- A strand's turn. -/
def stepWord (s : State) (r : StrandRef) : Out :=
  if s.selectable r then
    match s.attempt r with
    | (.next t, true) => .next (if (s.strand r).checked = 0 then t.issuedAt (s.team r.team).core r.strm else t)
    | (o, _) => o
  else .next { s with cur := r }

/-! Passes by group (01 R15; 06 R132; 07 R144, R145). -/

/-- Words that pass group by group, each pass reading its own group (R15; 07 R144). -/
def byGroup (i : Instr) : Bool :=
  match i with
  | .vshfl _ _ _ _ | .visect _ _ _ _ => true
  | .vbal m _ _ => decide (m = 0)
  | .vbcst _ _ _ | .vred _ _ _ | .vscan _ _ _ | .vconf _ _ _ | .msal _ _ _ => false
  | i => decide (pipeOf i = .v) || decide (pipeOf i = .f)

/-- Words that read all their sources at once and then write vd group by group (07 R144). -/
def bySnapshot (i : Instr) : Bool :=
  match i with
  | .vbal m _ _ => decide (m ≠ 0)
  | .vbcst _ _ _ | .vred _ _ _ | .vscan _ _ _ | .vconf _ _ _ => true
  | _ => false

/-- The state with every issued access complete, but for its values: what the tag checks of a later word see (04 R83; 02 R41). None where
an LDREF's tag is not yet known. -/
def Team.calm (T : Team) : Option Team :=
  if T.accs.any (fun a => match a.dest with | .refPair _ _ => true | _ => false) then none
  else some { (T.accs.foldl (fun (T : Team) a => match a.dest with
      | .regs r n (some t) => (T.groupsOf (maskOf ((a.lanes.filter (fun l => decide (l.st ≠ .done))).map (fun l => l.lane)))).foldl (fun T g =>
          (List.range n).foldl (fun T k => T.tagPass (r + k) g t) T) T
      | _ => T) T) with accs := [] }

/-- Whether the words of a strand at the addresses from pc on issue one after another without a trap, n of them, and pass by group. -/
def State.wordsPass (s : State) (r : StrandRef) : Nat → Bool
  | 0 => true
  | n + 1 =>
    let pc := (s.strand r).pc
    match s.front r with
    | .done _ => false
    | .word i s1 =>
      byGroup i && (match settled r (s1.runWord i) with
        | .next t => decide ((t.strand r).st = .running) && decide ((t.strand r).pc = pc + 4) && t.wordsPass r n
        | _ => false)

/-- How many words a strand has passed ahead in a group: the word at its pc, and those that follow it. -/
def Strand.depth (x : Strand) (g : Nat) : Nat := (x.early.filter (fun p => p.2 = g)).length

/-- One pass ahead of the rest: the next word in a group, where the strand's earlier words have passed, executes there alone. None where it
cannot: the strand cannot issue, the word does not pass by group, a check of it would trap, an interlock of the group holds it. -/
def State.passAhead (s : State) (r : StrandRef) (g : Nat) : Option State :=
  let x := s.strand r
  let n := x.depth g
  let T := s.team r.team
  if !s.candidate r || x.step || x.skipAt.isSome || x.replay.isSome || decide (x.st ≠ .running) || !(T.groupsOf x.mask).contains g
     || !x.windows.all (fun w => decide (n < w.2) || T.opClosed w.1) then none
  else match T.calm with
    | none => none
    | some U =>
      if !(s.onTeam r.team (fun _ => U)).wordsPass r (n + 1) then none
      else
        let a := x.pc + BitVec.ofNat 64 (4 * n)
        let s1 := s.onStrand r (fun y => { y with pc := a, checked := 0, early := [] })
        match s1.front r with
        | .done _ => none
        | .word i s2 =>
          let s3 := s2.onStrand r (fun y => { y with mask := y.mask &&& T.groupMask g })
          match exec i s3 with
          | .next t =>
            if t = s3 ∨ (t.strand r).st ≠ .running then none
            else some (t.onStrand r (fun _ => { x with early := x.early ++ [(a, g)] }))
          | _ => none

/-- The results of a snapshot word in the groups after its first pass: they are written pass by pass, as an access's are. -/
def State.withhold (s t : State) (r : StrandRef) (d : Nat) (pc : W64) (m : Mask) (g : Nat) : State :=
  let T0 := s.team r.team
  let later := (T0.groupsOf m).filter (fun h => h ≠ g)
  later.foldl (fun t h =>
    let ls := T0.lanesOf (m &&& T0.groupMask h)
    let T := t.team r.team
    let op : AccessOp :=
      { id := t.lastOp + 1, strm := r.strm, sid := r.sid, pc := pc, mask := m, kind := .load, size := 4, ord := 0, scope := 0, policy := 0,
        dest := .regs d 1 (some (T.vtag d h)), coal := false, once := false, one := false, parked := false,
        lanes := ls.map (fun l => { lane := l, e := 0, at_ := .window r.team 0, st := .performed, data := 0, cmp := 0,
                                    res := (T.vr d l).setWidth 64, tag := false, pops := [] }) }
    { (t.onTeam r.team (fun T =>
        { (((ls.foldl (fun T l => T.setVr d l (T0.vr d l)) T).setVtag d h (T0.vtag d h)).setVtag (partner d) h (T0.vtag (partner d) h)) with
          accs := T.accs ++ [op] })) with lastOp := t.lastOp + 1 }) t

/-- The first pass of a snapshot word: it issues, and its other groups follow (07 R144). -/
def State.passSnapshot (s : State) (r : StrandRef) (g : Nat) : Option State :=
  let x := s.strand r
  if !s.candidate r || !(s.team r.team |>.groupsOf x.mask).contains g || !x.early.isEmpty then none
  else match s.front r with
    | .done _ => none
    | .word i s1 =>
      let d := (vecFields i).2.headD 127
      if !bySnapshot i || isPort d then none
      else match exec i s1 with
        | .next t =>
          if t = s1 ∨ (t.strand r).st ≠ .running then none
          else match settled r (.next (s1.withhold t r d x.pc x.mask g)) with
            | .next u => some u
            | _ => none
        | _ => none

/-- A pass in one group: of a word that passes by group, or the first of a snapshot word. -/
def State.passOf (s : State) (r : StrandRef) (g : Nat) : Option State :=
  match s.passAhead r g with
  | some t => some t
  | none => s.passSnapshot r g

/-- The turn of a pass: one candidate of its front end in this cycle. -/
def stepPass (s : State) (r : StrandRef) (g : Nat) : Out :=
  if s.frontFree (s.team r.team).core r.strm then
    match s.passOf r g with
    | some t => .next (t.issuedAt (s.team r.team).core r.strm)
    | none => .next s
  else .next s

/-! Cycles (01 R17, R18, R30; 05 R110; 11 R234). -/

/-- The strands of all active banks. -/
def State.strandsIn (s : State) : List StrandRef := s.cores.flatMap (fun p => s.frontEnd p.1 .c ++ s.frontEnd p.1 .a)

/-- A strand that is ready, with its next word or with a pass of one group. -/
def State.isReady (s : State) (r : StrandRef) : Bool :=
  s.canIssue r || (List.range (s.team r.team).ngroups).any (fun g => (s.passOf r g).isSome)

/-- Whether a strand need not issue before this cycle ends: its front end has issued. -/
def State.excused (s : State) (r : StrandRef) : Bool :=
  let core := (s.team r.team).core
  if (s.strand r).checked = 0 then !s.frontFree core r.strm else decide (r.strm = .c) && decide (s.clock < (s.core core).busyA)

/-- How many of n cycles pass: none while a front end that has not issued has a ready candidate, or a YIELD has run out unseen; one while a
ready strand waits for its front end; else no more than until a YIELD runs out or an exchange ends; and never past the cycle in which a
pending snapshot is latched (23 R400). -/
def State.cyclesOf (s : State) (n : Nat) : Nat :=
  let rs := s.strandsIn
  let n := match s.hub.shPending with | some t => min n (t + 32 - s.now) | none => n
  let ready := rs.filter (fun r => s.isReady r)
  if ready.any (fun r => !s.excused r) || rs.any (fun r => decide ((s.strand r).wait = .yield) && decide ((s.strand r).yieldLeft = 0)) then 0
  else if !ready.isEmpty then min n 1
  else
    let ends := (rs.map (fun r => (s.strand r).yieldLeft)).filter (fun k => 0 < k)
                ++ (s.cores.map (fun p => p.2.readyAt - s.clock)).filter (fun k => 0 < k)
    ends.foldl min n

/-- Cycles pass; the readiness of a strand that is not ready starts anew after them (R17). -/
def State.passTime (s : State) (n : Nat) : State :=
  let k := s.cyclesOf n
  if k = 0 then s
  else (s.strandsIn.filter (fun r => !s.isReady r)).foldl (fun t r => t.onStrand r (fun x => { x with readyAt := s.clock + k, urgent := false })) (s.elapse k)

/-! The order of traps of one core in one cycle (11 R221). -/

/-- The records that Farder has not acted on, and those that cores hold. -/
def State.recsNow (s : State) : List TrapRec := s.heldTraps ++ s.ctxs.flatMap (fun p => p.2.recs)

/-- The place of a record among those of its core in one cycle: the C-stream's first, then the lower team slot. -/
def TrapRec.place (r : TrapRec) : Nat := 64 * bit1 (decide (r.strm = .a)) + r.slot

/-- Whether the traps that a turn has posted stand behind those that their cores have detected in this cycle. -/
def State.trapsInOrder (s t : State) : Bool :=
  s.lastTrap == t.lastTrap
  || (t.recsNow.filter (fun r => s.lastTrap < r.rank)).all (fun r =>
       s.recsNow.all (fun q => decide (q.cycle ≠ s.clock) || q.core != r.core || decide (q.place ≤ r.place)))

end Sys2Proof.Machine
end

