-- ==== Sys2Proof/Machine/Sends.lean ====
section
/-! DEFINITION. What an access or an engine operation does before the event that completes it: an SC operation is sent, a load reads under a
predicted translation, an engine writes a part of its result (09 R207; 14 R280; 17 R297; 18 R324, R327; 24 R409). -/

namespace Sys2Proof.Machine

/-- An SC operation is sent, with the clock of that moment (18 R324): from then on its stamp does not see what the core's clock becomes. -/
def State.sendSc (s : State) (t op lane : Nat) : State :=
  match (s.team t).acc? op with
  | none => s
  | some a =>
    match a.lane? lane with
    | none => s
    | some l =>
      let ls := a.together (s.team t) l
      if a.ord = 4 ∧ s.mayPerform t a ls ∧ ls.all (fun k => k.sent.isNone) then
        s.onTeam t (fun T => T.putAcc op (ls.map (fun k => { k with sent := some (s.scClock t a) })))
      else s

/-- The translation that predicts page P from another page of its region (09 R207): the physical address. -/
def State.predicted (s : State) (t : Nat) (e : W64) (page : Nat) : Option Nat :=
  let T := s.team t
  let va := va48 e
  let need : Need := { r := true, w := false }
  if (T.extentFor va need).isSome || (s.core T.core).tlb.any (fun x => x.hits T.ctx va need) then none
  else match (s.core T.core).tlb.find? (fun x => x.ctx == T.ctx && x.level == 0 && x.vpn == page && x.contig) with
    | none => none
    | some q =>
      let pa : Int := q.pa + ((va : Int) - 4096 * q.vpn)
      let own := (s.pagesFrom 4 0 (s.ctx T.ctx).satpRoot).any (fun p => decide ((p.pa : Int) ≤ pa) && decide (pa < p.pa + p.size))
      if va / 2 ^ 30 = page / 2 ^ 18 ∧ own ∧ pa.toNat < Config.hbmEnd then some pa.toNat else none

/-- A load reads under a predicted translation while its walk runs (09 R207): the lanes that go together, all on page P. -/
def State.predict (s : State) (t op lane page : Nat) : State :=
  match (s.team t).acc? op with
  | none => s
  | some a =>
    match a.lane? lane with
    | none => s
    | some l =>
      match s.predicted t l.e page with
      | none => s
      | some pa =>
        let at_ (k : LaneAcc) : LaneAcc :=
          let p := pa + k.e.toNat - l.e.toNat
          { k with st := .ready p, pa := some p }
        let ls := a.together (s.team t) l
        let go := (match a.kind with | .load => true | _ => false) && !a.acquires && decide (a.ord ≠ 4)
          && ls.all (fun k => decide (k.st = .toTranslate) && k.pred.isNone && k.e.toNat / 4096 == l.e.toNat / 4096)
          && s.mayPerform t a (ls.map at_) && (ls.map at_).all (fun k => !s.readsPoison a k)
        if !go then s
        else
          let p := s.performAll t a true none (ls.map at_)
          p.2.onTeam t (fun T => T.putAcc op (p.1.map (fun k => { k with st := .toTranslate, pa := none, pred := some (k.pa.getD 0, some k.res) })))

/-- A part of an accepted engine operation: a unit of a copy, of an FPUT or of an FGET on this package, or a word of a list. -/
def State.enginePart (s : State) (t op part : Nat) : State :=
  match (s.team t).eng? op with
  | none => s
  | some e =>
    if e.stage ≠ .accepted ∨ !(t :: (s.team t).cluster).all (fun u => (s.team u).unrestored.isEmpty) then s
    else match e.kind with
      | .cpy _ _ _ _ => s.copyPart t e part
      | .cpyt _ _ _ _ _ _ => s.copyPart t e part
      | .epgen inv c dst spec => if (s.team t).ephReady e then s.listPart t e inv c dst spec part else s
      | .fabric _ _ _ _ _ _ => match e.fab with | some v => s.fabPart t e v part | none => s
      | _ => s

end Sys2Proof.Machine
end

