-- ==== Sys2Proof/Machine/Turns.lean ====
section
/-! DEFINITION. The turns that are no row of the opcode table (a hart's store, a cache that drops an entry, time), the rows that are events,
and the placing of one instruction where the next step fetches (log 1). -/

namespace Sys2Proof.Machine

/-- A store by a control-core hart: at the home slices, clearing tags (18 R316, 19 R346). Bytes outside HBM go to the hub die, which
has events of its own. -/
def State.hartStore (s : State) (pa : Nat) (bs : List Byte) : State :=
  if pa + bs.length ≤ Config.hbmEnd then s.store pa bs else s

/-- A cache drops a line of its own accord. -/
def State.dropL1d (s : State) (c line : Nat) : State := s.onCore c (fun k => { k with l1d := SMap.erase k.l1d line })
def State.dropL1i (s : State) (c key : Nat) : State := s.onCore c (fun k => { k with l1i := SMap.erase k.l1i key })
def State.dropTlb (s : State) (c i : Nat) : State := s.onCore c (fun k => { k with tlb := k.tlb.eraseIdx i })
def State.dropL2 (s : State) (i : Nat) : State := { s with l2 := s.l2.eraseIdx i }

/-- Rows of the table that are events, not words: they have no encoding. -/
def isEvent (i : Instr) : Bool := (encodeBody i).isNone

/-! One instruction where the next step fetches it. -/

/-- A name no entry of a table bears. -/
def freshKey {α : Type} (m : SMap α) : Nat := m.foldl (fun k p => max k (p.1 + 1)) 1

/-- Physical addresses of the placed context: its root table, its trap queue, its code. -/
def bootTable : Nat := 0x1000
def bootQueue : Nat := 0x400000
def bootCode : Nat := 0x600000

/-- A running root strand at an address. -/
def bootStrand (t : Nat) (x : StreamId) : Strand :=
  { Strand.free with st := .running, team := t, strm := x, pc := BitVec.ofNat 64 bootCode, mask := firstLanes 32 }

/-- A context whose one 512 GiB page maps every address to itself, with a team of 32 lanes on core 0 in both streams. -/
def State.boot (s : State) (x : StreamId) : State :=
  let c := freshKey s.ctxs
  let g := freshKey s.grids
  let t := freshKey s.teams
  let stream (y : StreamId) : Stream := { Stream.absent with present := true, root := bootStrand t y }
  let T : Team := { Team.none with live := true, ctx := c, grid := g, core := 0, slot := 0, cluster := [t], lanes := 32,
                                   roles := List.replicate 32 0, gdim := (1, 1, 1), cb := BitVec.ofNat 64 bootCode,
                                   ce := BitVec.ofNat 64 (bootCode + 0x300), stamp := 1,
                                   vtags := [(0, tI32)], cs := stream .c, as := stream .a,
                                   gens := (List.range 32).map (fun l => (l, BitVec.ofNat 64 (l + 1) * genSeed)) }
  let C : Context := { Context.none with live := true, satpRoot := bootTable, trapqVa := BitVec.ofNat 64 bootQueue, trapqPages := (List.range 4).map (fun i => bootQueue + 4096 * i) }
  let G : Grid := { Grid.none with live := true, ctx := c, id := 1, placed := 1, handed := true }
  let s1 := (((s.setCtx c C).setGrid g G).setTeam t T).storeNat bootTable 8 0xDF
  let s2 := s1.onCore 0 (fun k => { k with active := { Bank.empty with ctx := some c, slots := [(0, t)] } })
  { s2 with cur := { team := t, strm := x, sid := none }, lastTeam := max s.lastTeam t, lastGrid := max s.lastGrid g,
            hub := { s2.hub with railsOn := true } }

/-- Where the strand `cur` would fetch its word now, if it can be selected and issues words of this kind. -/
def State.fetchPlace (s : State) (onlyAccess : Bool) : Option Nat :=
  let x := s.me
  if s.selectable s.cur && decide (x.checked = 0) && x.skipAt.isNone && !x.stepDue && (decide (s.cur.strm = .a) == onlyAccess)
     && decide (s.mine.cb ≤ packetOf x.pc) && decide (packetOf x.pc < s.mine.ce) then
    match s.walk s.mine.ctx (va48 x.pc) with
    | some l => some (l.pa (va48 x.pc))
    | none => none
  else none

/-- A 32-bit word stored where the next step fetches: at the strand `cur`'s pc, or for a machine with no such strand (the machine after
reset) at the first word of a placed context (log 1). -/
def State.placeWord (s : State) (w : Nat) : State :=
  let a : Bool := match decodeWord (BitVec.ofNat 32 w) with | .ok i => onlyA i | .error _ => false
  let s1 := match s.fetchPlace a with
    | some _ => s
    | none => s.boot (if a then .a else .c)
  match s1.fetchPlace a with
  | none => s1
  | some pa =>
    -- a chained word is checked together with the word after it (R39): a NOP
    let s2 := if 2 ^ 31 ≤ w then (s1.storeNat pa 4 w).storeNat (pa + 4) 4 0x01000000 else s1.storeNat pa 4 w
    let s3 := s2.onCore s2.mine.core (fun k => { k with l1i := SMap.erase k.l1i (l1iKey s2.mine.ctx (packetOf s2.me.pc)) })
    let s4 := (s3.dropStore (dieOf s2.mine.core) (pa / 128)).dropStore (dieOf s2.mine.core) ((pa + 4) / 128)
    { s4 with agenda := .word s4.cur :: s4.agenda }

end Sys2Proof.Machine
end

