-- ==== Sys2Proof/Machine/Step.lean ====
section
/-! DEFINITION. One step: the turn at the head of the agenda, or, with an empty agenda, the strand `cur` or one idle cycle (log 1). -/

namespace Sys2Proof.Machine

/-- What one turn does. -/
def runTurn (s : State) (t : Turn) : Out :=
  match t with
  | .word r => stepWord s r
  | .pass r g => stepPass s r g
  | .event i => if isEvent i then exec i s else .next s
  | .sendSc t op l => .next (s.sendSc t op l)
  | .predict t op l page => .next (s.predict t op l page)
  | .enginePart t op part => .next (s.enginePart t op part)
  | .hart h a => .next (s.hartAct h a)
  | .hartStore pa bs => .next (s.hartStore pa bs)
  | .barRead who off => .next (s.barRead who off)
  | .dropL1d c l => .next (s.dropL1d c l)
  | .dropL1i c k => .next (s.dropL1i c k)
  | .dropTlb c i => .next (s.dropTlb c i)
  | .dropL2 i => .next (s.dropL2 i)
  | .dropStore d l => .next (s.dropStore d l)
  | .undefined c => .next (if (s.ctx c).live then s.wreck c else s)
  | .options c seq o => .next (s.setOptions c seq o)
  | .elapse n => .next (s.passTime n)

/-- One turn. A trap that would stand before another of its core and cycle comes in the next cycle: its turn has no effect now (11 R221). -/
def stepTurn (s : State) (t : Turn) : Out :=
  match runTurn s t with
  | .next u => .next (if s.trapsInOrder u then u else s)
  | o => o

/-- With an empty agenda: the strand `cur` if its front end selects it, else any strand that is ready and selected, else one idle cycle. -/
def stepIdle (s : State) : Out :=
  if s.selectable s.cur then stepTurn s (.word s.cur)
  else match s.strandsIn.find? (fun r => s.selectable r && s.canIssue r) with
    | some r => stepTurn s (.word r)
    | none => .next (s.passTime 1)

/-- One step of the package. -/
def step (s : State) : Host.Outcome State Fault Refusal :=
  match s.agenda with
  | t :: rest => stepTurn { s with agenda := rest } t
  | [] => stepIdle s

/-- The state with one instruction stored where `step` fetches next. -/
def State.withFetchWord (s : State) (nbits w : Nat) : State := s.placeWord (w % 2 ^ min nbits 32)

end Sys2Proof.Machine
end

