-- ==== Sys2Proof/Safety.lean ====
section
/-! DEFINITION. What a safe run is, and the terms that claims use: when a word completes, and what a word leaves as it was. -/

namespace Sys2Proof

/-- An outcome that goes on. -/
def safeOutcome (o : Machine.Out) : Bool :=
  match o with
  | .next _ => true
  | .fault _ => false
  | .refused _ => false

/-- The canonical form of memory in a state. -/
def memoryWf (s : Machine.State) : Bool := Machine.Memory.wf s.mem

namespace Claims

open Machine

/-! When a word completes: its operands are ready (02 R41) and its strand is one that may issue. -/

/-- The issuing strand's team is in its core's active bank: only such a strand issues (01 R16, 08 R155). -/
def Issues (s : State) : Prop := s.mine.held = .active

/-- No issued word has still to write these scalars of the issuing stream (02 R41). -/
def ScalarsReady (s : State) (l : List (BitVec 6)) : Prop := ∀ d ∈ l, s.mine.scalarBusy s.cur.strm d.toNat = false

/-- No issued word has still to write these predicates in an active lane (02 R41). -/
def PredsReady (s : State) (l : List (BitVec 3)) : Prop := ∀ p ∈ l, s.mine.predBusy p s.me.mask = false

/-- Lane l is an active lane of the issuing strand (01 R11). -/
abbrev Active (s : State) (l : Nat) : Prop := l < s.mine.lanes ∧ s.me.mask.getLsbD l = true

/-- Group g of the team has an active lane (01 R11). -/
def ActiveGroup (s : State) (g : Nat) : Prop := g < s.mine.ngroups ∧ ∃ l, s.me.mask.getLsbD l = true ∧ l / s.mine.gw = g

/-- A vector register that the issuing strand maps: v0 to v31, or one of its blocks (04 R78). -/
def Mapped (s : State) (r : Nat) : Prop := r < 32 ∨ (r ≤ 119 ∧ (r - 32) / 8 < s.me.cnt)

/-- The vector fields of a word are ready: its registers are mapped and written (04 R79, 02 R41), every queue it pops has a filled entry in
each active lane, of one tag in a group (08 R159, R160), and every queue it pushes has room and a living reader (08 R159, R161). -/
structure VecReady (s : State) (srcs dsts : List Nat) : Prop where
  written : ∀ r ∈ srcs ++ dsts, r < 120 → s.mine.regBusy r s.me.mask = false
  mapped : ∀ r ∈ srcs ++ dsts, r < 120 → Mapped s r
  filled : ∀ f ∈ srcs, 120 ≤ f → ∀ l, Active s l → s.mine.headFilled (f - 120) l = true
  oneTag : ∀ f ∈ srcs, 120 ≤ f → ∀ l k, Active s l → Active s k → l / s.mine.gw = k / s.mine.gw →
    s.mine.headTag (f - 120) l = s.mine.headTag (f - 120) k
  reader : ∀ f ∈ dsts, 120 ≤ f → s.otherClosed = false
  room : ∀ f ∈ dsts, 120 ≤ f → ∀ l, Active s l →
    (s.mine.queue (f - 120) l).length + s.mine.heldPops (f - 120) l < 8 + (if f ∈ srcs then 1 else 0)

/-- In every group with an active lane the tags of the source fields pass a word's rule, which gives the result tag (04 R83). -/
def TagsPass (s : State) (srcs : List Nat) (rule : List (BitVec 4) → Except Nat (BitVec 4)) (tag : Nat → BitVec 4) : Prop :=
  ∀ g, ActiveGroup s g → rule (srcs.map (fun x => s.mine.fieldTag s.me.mask x g)) = .ok (tag g)

/-- A result that is pushed carries RAW or the queue's tag (08 R160). -/
def PushTag (s : State) (d : Nat) (tag : Nat → BitVec 4) : Prop :=
  120 ≤ d → ∀ g, ActiveGroup s g → tag g = tRaw ∨ tag g = s.mine.qtag (d - 120)

/-- Every active group carries one tag in all source fields of a word. -/
def Tagged (s : State) (srcs : List Nat) (tag : Nat → BitVec 4) : Prop :=
  ∀ f ∈ srcs, ∀ g, ActiveGroup s g → s.mine.fieldTag s.me.mask f g = tag g

/-- The conditions of BRC and LOOP (05 Table 5-1). -/
def Cond (k : BitVec 3) (v : W64) : Prop :=
  (k = 0 ∧ v = 0) ∨ (k = 1 ∧ v ≠ 0) ∨ (k = 2 ∧ v.toInt < 0) ∨ (k = 3 ∧ 0 ≤ v.toInt) ∨ (k = 4 ∧ 0 < v.toInt) ∨ (k = 5 ∧ v.toInt ≤ 0)

/-- An address in the code extent of the issuing team (05 R105). -/
def InCode (s : State) (a : W64) : Prop := s.mine.cb ≤ a ∧ a < s.mine.ce

/-- The packet after the one that holds an address: packets are 12 bytes long and start at multiples of 12 (02 R34). -/
def packetAfter (pc : W64) : W64 := pc - BitVec.ofNat 64 (pc.toNat % 12) + 12
/-- The target of a transfer that names an offset in packets (02 R43). -/
def target {n : Nat} (pc : W64) (o : BitVec n) : W64 := pc - BitVec.ofNat 64 (pc.toNat % 12) + 12 * o.signExtend 64

/-- The machine answers a next state that has a property. -/
def Gives (i : Instr) (s : State) (P : State → Prop) : Prop := ∃ t, exec i s = .next t ∧ P t

/-! What a lane of an arithmetic word holds, element by element. -/

/-- A lane of n integer elements: each the exact result brought into its format, wrapped or saturated (03 R61, 06 R120). -/
structure IntLane (n : Nat) (I : IFmt) (sat : Bool) (f : List Int → Int) (vs : List W32) (r : LaneRes) : Prop where
  elems : ∀ i, i < n → elem I.w r.v i = (I.narrow sat (f (vs.map (fun v => I.decode (elem I.w v i))))).1
  flags : ∀ b, r.fl.getLsbD b = true ↔ ∃ i, i < n ∧ (I.narrow sat (f (vs.map (fun v => I.decode (elem I.w v i))))).2.getLsbD b = true
  gen : r.gen = none

/-- What element i of a floating lane computes: the exact result, rounded once by a mode, flushed where FTZ is set (03 R60, R63). -/
def fltElem (F : Fmt) (md : FpMode) (mode : Nat) (sat : Bool) (r : Nat) (f : List Val → Val × Flags) (vs : List W32) (i : Nat) : Nat × Flags :=
  let x := f (vs.map (fun v => F.decodeDaz md.daz (elem F.width v i)))
  let y := F.flush md.ftz (F.rnd mode sat r x.1)
  (y.1, x.2 ||| y.2)

/-- A lane of n floating elements, rounded to the nearest even. -/
structure FltLane (n : Nat) (F : Fmt) (md : FpMode) (sat : Bool) (f : List Val → Val × Flags) (vs : List W32) (r : LaneRes) : Prop where
  elems : ∀ i, i < n → elem F.width r.v i = (fltElem F md 0 sat 0 f vs i).1 % 2 ^ F.width
  flags : ∀ b, r.fl.getLsbD b = true ↔ ∃ i, i < n ∧ (fltElem F md 0 sat 0 f vs i).2.getLsbD b = true
  gen : r.gen = none

/-- A lane of n floating elements, each rounded by the 16 low bits of the lane's generator after its own step (03 R67, R68). -/
structure SrLane (n : Nat) (F : Fmt) (md : FpMode) (sat : Bool) (g : W64) (f : List Val → Val × Flags) (vs : List W32) (r : LaneRes) : Prop where
  elems : ∀ i, i < n → elem F.width r.v i = (fltElem F md 5 sat ((Nat.repeat genStep (i + 1) g).toNat % 65536) f vs i).1 % 2 ^ F.width
  flags : ∀ b, r.fl.getLsbD b = true ↔
    ∃ i, i < n ∧ (fltElem F md 5 sat ((Nat.repeat genStep (i + 1) g).toNat % 65536) f vs i).2.getLsbD b = true
  gen : r.gen = some (Nat.repeat genStep n g)

/-! What a word leaves as it was. -/

/-- Only the issuing strand and its team may differ: every other team, every other strand, memory and every other part of the machine is
as it was. -/
structure OnlyMine (s t : State) : Prop where
  rest : t = { s with teams := t.teams, cores := t.cores }
  teams : ∀ u, u ≠ s.cur.team → t.team u = s.team u
  cores : ∀ c, t.core c = s.core c ∨ (c = s.mine.core ∧ ∃ i z, s.cur.sid = some i
    ∧ t.core c = { s.core c with active := { (s.core c).active with split := z } }
    ∧ ∀ j, j ≠ i → SMap.get Strand.free z j = SMap.get Strand.free (s.core c).active.split j)
  other : t.mine.stream (otherStream s.cur.strm) = s.mine.stream (otherStream s.cur.strm)
  root : s.cur.sid ≠ none → t.myStream.root = s.myStream.root

/-- The team is as it was but for its streams. -/
def TeamKept (s t : State) : Prop := t.mine = { s.mine with cs := t.mine.cs, as := t.mine.as }

/-- The issuing stream is as it was but for a root strand. -/
def StreamKept (s t : State) : Prop := t.myStream = { s.myStream with root := t.myStream.root }

/-- The issuing strand has gone on to the next word, or to where an earlier issue had come (09 R211), with nothing else of it changed
but what the end of a word changes: `Strand.advance`. -/
def Advanced (s t : State) : Prop := t.me = s.me.advance

/-- A scalar word's result: s[d] holds v with its REF tag as given; every other scalar, the rest of the stream, the team, the other strands
and memory are as they were. The strand is left as given. -/
structure ScalarResult (s t : State) (d : BitVec 6) (v : W64) (ref : Bool) (x : Strand) : Prop where
  value : t.sreg d = v
  tag : t.myStream.sref d = ref
  scalars : ∀ e, e ≠ d → t.sreg e = s.sreg e ∧ t.myStream.sref e = s.myStream.sref e
  stream : t.myStream = { s.myStream with sregs := t.myStream.sregs, srefs := t.myStream.srefs, root := t.myStream.root }
  strand : t.me = x
  team : TeamKept s t
  rest : OnlyMine s t

/-- A word whose one effect is on its strand, which is left as given. -/
structure StrandResult (s t : State) (x : Strand) : Prop where
  strand : t.me = x
  stream : StreamKept s t
  team : TeamKept s t
  rest : OnlyMine s t

/-- A word that leaves its team, its stream and its strand as given, and nothing else changed. -/
structure OwnResult (s t : State) (T : Team) (m : Stream) (x : Strand) : Prop where
  team : t.mine = { T with cs := t.mine.cs, as := t.mine.as }
  stream : t.myStream = { m with root := t.myStream.root }
  strand : t.me = x
  rest : OnlyMine s t

/-- The queues of a word that pops its source fields and pushes v to a destination field: the head of each popped queue goes and the pushed
value comes at the end, in active lanes alone. -/
def QueuesMoved (s t : State) (srcs : List Nat) (d : Nat) (v : Nat → W32) : Prop :=
  ∀ q l, q < 8 → t.mine.queue q l =
    if Active s l then
      (if 120 + q ∈ srcs then (s.mine.queue q l).tail else s.mine.queue q l)
      ++ (if d = 120 + q then [{ val := some (v l), tag := s.mine.qtag q, op := 0, drop := false }] else [])
    else s.mine.queue q l

/-- FPFLAGS of the issuing stream gain the flags of the active lanes (03 R64, R65). -/
def FlagsRaised (s t : State) (fl : Nat → Flags) : Prop :=
  ∀ i, t.myStream.fpflags.getLsbD i = true ↔ (s.myStream.fpflags.getLsbD i = true ∨ ∃ l, Active s l ∧ (fl l).getLsbD i = true)

/-- A vector word's result. In every active lane v[d] holds the lane's value, or it is pushed to the queue that d names; each active group of
v[d] takes its tag; nothing else of the registers changes but a partner's REF, which turns RAW (04 R84); popped queues lose their
heads; generators that took steps keep their states; flags are raised; the strand advances. -/
structure VecResult (s t : State) (srcs : List Nat) (d : Nat) (tag : Nat → BitVec 4) (out : Nat → LaneRes) : Prop where
  value : d < 120 → ∀ l, Active s l → t.mine.vr d l = (out l).v
  idle : ∀ l, l < 1024 → ¬ Active s l → t.mine.vr d l = s.mine.vr d l
  regs : ∀ r l, l < 1024 → r ≠ d → t.mine.vr r l = s.mine.vr r l
  typed : d < 120 → ∀ g, ActiveGroup s g → t.mine.vtag d g = tag g
  mate : d < 120 → ∀ g, ActiveGroup s g → s.mine.vtag (partner d) g = tRef → t.mine.vtag (partner d) g = tRaw
  tags : ∀ r g, g < 64 → ¬ (d < 120 ∧ ActiveGroup s g ∧ (r = d ∨ (r = partner d ∧ s.mine.vtag r g = tRef))) →
    t.mine.vtag r g = s.mine.vtag r g
  queues : QueuesMoved s t srcs d (fun l => (out l).v)
  gens : ∀ l, l < 1024 → t.mine.gen l = if Active s l then ((out l).gen).getD (s.mine.gen l) else s.mine.gen l
  flags : FlagsRaised s t (fun l => (out l).fl)
  strand : t.me = s.me.advance
  stream : t.myStream = { s.myStream with fpflags := t.myStream.fpflags, root := t.myStream.root }
  accs : t.mine.accs.map (fun a => { a with dest := .nowhere }) = s.mine.accs.map (fun a => { a with dest := .nowhere })
  team : t.mine = { s.mine with vregs := t.mine.vregs, vtags := t.mine.vtags, queues := t.mine.queues, gens := t.mine.gens,
                                accs := t.mine.accs, cs := t.mine.cs, as := t.mine.as }
  rest : OnlyMine s t

/-- A predicate word's result. In every active lane pd takes the lane's bit, p0 keeping its ones; the other lanes and predicates, and every
register, are as they were; popped queues lose their heads; flags are raised; the strand advances. -/
structure PredResult (s t : State) (srcs : List Nat) (pd : BitVec 3) (bit : Nat → Bool) (fl : Nat → Flags) : Prop where
  value : pd ≠ 0 → ∀ l, Active s l → (t.mine.pred pd).getLsbD l = bit l
  idle : ∀ l, ¬ Active s l → l < s.mine.lanes → (t.mine.pred pd).getLsbD l = (s.mine.pred pd).getLsbD l
  preds : ∀ p, p ≠ pd ∨ p = 0 → t.mine.pred p = s.mine.pred p
  queues : QueuesMoved s t srcs 0 (fun _ => 0)
  flags : FlagsRaised s t fl
  strand : t.me = s.me.advance
  stream : t.myStream = { s.myStream with fpflags := t.myStream.fpflags, root := t.myStream.root }
  team : t.mine = { s.mine with preds := t.mine.preds, queues := t.mine.queues, cs := t.mine.cs, as := t.mine.as }
  rest : OnlyMine s t

end Claims
end Sys2Proof
end

