-- ==== Sys2Proof/Certificates/Slice0/Obligations.lean ====
section
/-! DEFINITION. The statements for the provers, one definition each, in the order of OBLIGATIONS.json. -/

open Sys2Proof Sys2Proof.Machine Sys2Proof.Claims

/-! Scalars and control flow. -/

/-- O1. The SALU words (05 R111, R112; 04 R85). -/
def Obligations.ScalarWordResults : Prop :=
  ∀ (s : State) (d a b : BitVec 6), Issues s → ScalarsReady s [d, a, b] →
    let x := s.sreg a
    let y := s.sreg b
    let R (i : Instr) (v : W64) (ref : Bool) : Prop := Gives i s (fun t => ScalarResult s t d v ref s.me.advance)
    R (.sadd d a b) (x + y) false
    ∧ R (.ssub d a b) (x - y) false
    ∧ R (.smul d a b) (x * y) false
    ∧ R (.smulh d a b) (BitVec.ofInt 64 (x.toInt * y.toInt / 2 ^ 64)) false
    ∧ R (.sand d a b) (x &&& y) false
    ∧ R (.sor d a b) (x ||| y) (decide (a = b) && s.myStream.sref a)
    ∧ R (.sxor d a b) (x ^^^ y) false
    ∧ R (.sshl d a b) (x <<< (y.toNat % 64)) false
    ∧ R (.sshr d a b) (x >>> (y.toNat % 64)) false
    ∧ R (.ssra d a b) (BitVec.ofInt 64 (x.toInt / 2 ^ (y.toNat % 64))) false
    ∧ R (.smin d a b) (if x.toInt ≤ y.toInt then x else y) false
    ∧ R (.smax d a b) (if x.toInt ≤ y.toInt then y else x) false
    ∧ R (.slt d a b) (if x.toInt < y.toInt then 1 else 0) false
    ∧ R (.sltn d a b) (if x.toNat < y.toNat then 1 else 0) false
    ∧ R (.ssel d a b) (if s.sreg d ≠ 0 then x else y) (if s.sreg d ≠ 0 then s.myStream.sref a else s.myStream.sref b)
    ∧ ∀ (i : BitVec 12) (j : BitVec 18),
        R (.saddi d a i) (x + i.signExtend 64) false ∧ R (.slui d j) (j.signExtend 64 <<< 12) false

/-- O2. SRD of every readable special register (05 Table 5-4, R113). CYCLE is within the skew of 16 cycles. -/
def Obligations.SpecialRegisterReads : Prop :=
  ∀ (s : State) (d : BitVec 6), Issues s → ScalarsReady s [d] →
    let T := s.mine
    let R (n : BitVec 12) (v : W64) : Prop := Gives (.srd d n) s (fun t => ScalarResult s t d v false s.me.advance)
    R 0x001 (BitVec.ofNat 64 (T.lanes + T.ngroups * 2 ^ 16 + (if T.as.present then 2 ^ 35 else 0) + T.level * 2 ^ 36 + (if T.lw then 2 ^ 39 else 0)))
    ∧ R 0x002 (BitVec.ofNat 64 T.tidx.1) ∧ R 0x003 (BitVec.ofNat 64 T.tidx.2.1) ∧ R 0x004 (BitVec.ofNat 64 T.tidx.2.2)
    ∧ R 0x005 (BitVec.ofNat 64 T.gdim.1) ∧ R 0x006 (BitVec.ofNat 64 T.gdim.2.1) ∧ R 0x007 (BitVec.ofNat 64 T.gdim.2.2)
    ∧ R 0x008 (BitVec.ofNat 64 T.crank)
    ∧ R 0x009 (BitVec.ofNat 64 (T.core % 24 + T.core / 24 * 2 ^ 8 + Config.packageNumber.toNat * 2 ^ 32))
    ∧ R 0x00A (BitVec.ofNat 64 (T.ctx % 2 ^ 16)) ∧ R 0x00B (s.grid T.grid).id
    ∧ R 0x00C (BitVec.ofNat 64 (s.cur.sid.getD 0x100 + (match s.cur.strm with | .c => 0 | .a => 512)))
    ∧ R 0x010 s.myStream.fpmode ∧ R 0x011 (s.myStream.fpflags.setWidth 64)
    ∧ R 0x012 (BitVec.ofNat 64 (s.me.cnt + s.me.wm * 2 ^ 8 + T.pool * 2 ^ 12 + T.heldBlocks * 2 ^ 32))
    ∧ R 0x019 (s.core T.core).lclock
    ∧ (∀ g, (∀ h, h ∈ T.groupsOf s.me.mask → g ≤ h) → g ∈ T.groupsOf s.me.mask → R 0x000 (BitVec.ofNat 64 ((T.roles.getD g 0).toNat)))
    ∧ (∀ k : Nat, k < 8 → R (BitVec.ofNat 12 (0x020 + k)) (SMap.get 0 T.displays k))
    ∧ ∃ c, s.now ≤ c ∧ c ≤ s.now + 16 ∧ R 0x018 (BitVec.ofNat 64 c)

/-- O3. SWR writes FPMODE and FPFLAGS and nothing else; any other register, or an FPMODE with reserved bits, is illegal (05 R113, 03 R63, R64). -/
def Obligations.SpecialRegisterWrites : Prop :=
  ∀ (s : State) (a : BitVec 6), Issues s → ScalarsReady s [a] →
    let v := s.sreg a
    let kept (t : State) : Prop := t.me = s.me.advance ∧ TeamKept s t ∧ OnlyMine s t
    (v.toNat < 4 → Gives (.swr a 0x010) s (fun t => t.myStream = { s.myStream with fpmode := v, root := t.myStream.root } ∧ kept t))
    ∧ Gives (.swr a 0x011) s (fun t => t.myStream = { s.myStream with fpflags := v.setWidth 5, root := t.myStream.root } ∧ kept t)
    ∧ ∀ n : BitVec 12, (n ≠ 0x010 ∧ n ≠ 0x011) ∨ (n = 0x010 ∧ 4 ≤ v.toNat) → s.untranslated s.cur = false →
        exec (.swr a n) s = .next (s.trapHere { cause := 0x02, detail := s.me.pc.toNat % 12 / 4, code := 0, mask := s.me.mask, addr := 0 })

/-- O4. The transfers, NOP and YIELD (02 R38, 05 R102, R110). -/
def Obligations.ControlTransfers : Prop :=
  ∀ (s : State), Issues s →
    let pc := s.me.pc
    let To (i : Instr) (x : Strand) : Prop := Gives i s (fun t => StrandResult s t x)
    To .nop { s.me.advance with windows := s.me.windows }
    ∧ (∀ n : BitVec 16, To (.yield n) { s.me.advance with yieldLeft := n.toNat + 1, wait := .yield })
    ∧ (∀ o : BitVec 24, InCode s (target pc o) → To (.bra o) (s.me.goto (target pc o)))
    ∧ (∀ a, ScalarsReady s [a] → (s.sreg a).toNat % 12 = 0 → InCode s (s.sreg a) → To (.bri a) (s.me.goto (s.sreg a)))
    ∧ (ScalarsReady s [63] → (s.sreg 63).toNat % 12 = 0 → InCode s (s.sreg 63) → To .ret (s.me.goto (s.sreg 63)))
    ∧ (∀ o : BitVec 24, ScalarsReady s [63] → InCode s (target pc o) →
        Gives (.call o) s (fun t => ScalarResult s t 63 (packetAfter pc) false (s.me.goto (target pc o))))
    ∧ ∀ (a : BitVec 6) (k : BitVec 3) (o : BitVec 15), ScalarsReady s [a] → k.toNat < 6 →
        (Cond k (s.sreg a) → InCode s (target pc o) → To (.brc a k o) (s.me.goto (target pc o)))
        ∧ (¬ Cond k (s.sreg a) → To (.brc a k o) (s.me.goto (packetAfter pc)))
        ∧ (Cond k (s.sreg a - 1) → InCode s (target pc o) →
            Gives (.loop a k o) s (fun t => ScalarResult s t a (s.sreg a - 1) false (s.me.goto (target pc o))))
        ∧ (¬ Cond k (s.sreg a - 1) →
            Gives (.loop a k o) s (fun t => ScalarResult s t a (s.sreg a - 1) false (s.me.goto (packetAfter pc))))

/-- O5. A transfer out of the code extent is a fetch-bounds trap, and one to an address in a scalar that is no multiple of 12 a target
trap; ADDR is the target (05 R103). The trap waits where an earlier access of the strand may yet stop it (log 12). -/
def Obligations.TransferTraps : Prop :=
  ∀ (s : State), s.untranslated s.cur = false →
    let pc := s.me.pc
    let Trap (i : Instr) (cause : Nat) (a : W64) : Prop :=
      exec i s = .next (s.trapHere { cause := cause, detail := 0, code := 0, mask := s.me.mask, addr := a })
    (∀ o : BitVec 24, ¬ InCode s (target pc o) →
      Trap (.bra o) 0x05 (target pc o) ∧ (ScalarsReady s [63] → Trap (.call o) 0x05 (target pc o)))
    ∧ (∀ (a : BitVec 6) (k : BitVec 3) (o : BitVec 15), ScalarsReady s [a] → ¬ InCode s (target pc o) → k.toNat < 6 →
        (Cond k (s.sreg a) → Trap (.brc a k o) 0x05 (target pc o)) ∧ (Cond k (s.sreg a - 1) → Trap (.loop a k o) 0x05 (target pc o)))
    ∧ ∀ a, ScalarsReady s [a] →
        ((s.sreg a).toNat % 12 ≠ 0 → Trap (.bri a) 0x04 (s.sreg a))
        ∧ ((s.sreg a).toNat % 12 = 0 → ¬ InCode s (s.sreg a) → Trap (.bri a) 0x05 (s.sreg a))

/-! Vector words. -/

/-- The result of an arithmetic word over one tag per group (06 R120): exact results of the elements, wrapped or saturated in an integer
format, or rounded once in a floating one, to nearest even or by the lane's generator. -/
def Sys2Proof.Claims.ArithResult (s : State) (i : Instr) (m : BitVec 3) (d : Nat) (srcs : List Nat) (fi : List Int → Int)
    (ff : List Val → Val × Flags) : Prop :=
  ∀ tag : Nat → BitVec 4, VecReady s srcs [d] → Tagged s srcs tag → PushTag s d tag →
    (∀ g, ActiveGroup s g → (tag g).toNat ∈ (if m.getLsbD 1 then [1, 2, 3] else [0, 1, 2, 3, 10, 11, 12, 13])) →
    Gives i s (fun t => ∃ out, VecResult s t srcs d tag out ∧ ∀ l, Active s l →
      let vs := srcs.map (fun f => s.mine.field f l)
      match kindOf (tag (l / s.mine.gw)) with
      | .int n I => IntLane n I (m.getLsbD 0) fi vs (out l)
      | .flt n F => if m.getLsbD 1 then SrLane n F s.fpMode (m.getLsbD 0) (s.mine.gen l) ff vs (out l)
                    else FltLane n F s.fpMode (m.getLsbD 0) ff vs (out l)
      | _ => True)

/-- O6. VADD, VSUB, VMUL, VFMA, VMIN, VMAX, VABS, VNEG (06 R120, Tables 6-1 and 6-2). -/
def Obligations.VectorArithmetic : Prop :=
  ∀ (s : State) (m : BitVec 3) (d a b : BitVec 7), Issues s →
    let z : Val := .fin false 0 0
    ArithResult s (.vadd m d a b) m d.toNat [a.toNat, b.toNat] (fun x => x.getD 0 0 + x.getD 1 0) (fun x => Val.add false (x.getD 0 z) (x.getD 1 z))
    ∧ ArithResult s (.vsub m d a b) m d.toNat [a.toNat, b.toNat] (fun x => x.getD 0 0 - x.getD 1 0)
        (fun x => Val.add false (x.getD 0 z) (x.getD 1 z).negate)
    ∧ ArithResult s (.vmul m d a b) m d.toNat [a.toNat, b.toNat] (fun x => x.getD 0 0 * x.getD 1 0) (fun x => Val.mul (x.getD 0 z) (x.getD 1 z))
    ∧ ArithResult s (.vfma m d a b) m d.toNat [a.toNat, b.toNat, d.toNat] (fun x => x.getD 0 0 * x.getD 1 0 + x.getD 2 0)
        (fun x => Val.fma (x.getD 0 z) (x.getD 1 z) (x.getD 2 z))
    ∧ ArithResult s (.vmin d a b) 0 d.toNat [a.toNat, b.toNat] (fun x => min (x.getD 0 0) (x.getD 1 0))
        (fun x => Val.minmax false (x.getD 0 z) (x.getD 1 z))
    ∧ ArithResult s (.vmax d a b) 0 d.toNat [a.toNat, b.toNat] (fun x => max (x.getD 0 0) (x.getD 1 0))
        (fun x => Val.minmax true (x.getD 0 z) (x.getD 1 z))
    ∧ ArithResult s (.vabs m d a) m d.toNat [a.toNat] (fun x => (x.getD 0 0).natAbs) (fun x => ((x.getD 0 z).abs, (x.getD 0 z).nv))
    ∧ ArithResult s (.vneg m d a) m d.toNat [a.toNat] (fun x => -(x.getD 0 0)) (fun x => ((x.getD 0 z).negate, (x.getD 0 z).nv))

/-- O7. The shifts and VADDI on every integer tag, element by element: a shift by the width or more gives 0, or copies of the top bit
(06 R121, R125). -/
def Obligations.ShiftsAndImmediateAdd : Prop :=
  ∀ (s : State) (d a b : BitVec 7) (j : BitVec 10), Issues s →
    let R (i : Instr) (srcs : List Nat) (f : Nat → Nat → Nat → Nat) : Prop :=
      ∀ tag : Nat → BitVec 4, VecReady s srcs [d.toNat] → Tagged s srcs tag → PushTag s d.toNat tag →
        (∀ g, ActiveGroup s g → (tag g).toNat ∈ [0, 10, 11, 12, 13]) →
        Gives i s (fun t => ∃ out, VecResult s t srcs d.toNat tag out ∧ ∀ l, Active s l → (out l).fl = 0 ∧ (out l).gen = none ∧
          ∀ n I, kindOf (tag (l / s.mine.gw)) = .int n I → ∀ e, e < n →
            elem I.w (out l).v e = f I.w (elem I.w (s.mine.field a.toNat l) e) (elem I.w (s.mine.field b.toNat l) e))
    R (.vshl d a b) [a.toNat, b.toNat] (fun w x c => if c < w then x * 2 ^ c % 2 ^ w else 0)
    ∧ R (.vshr d a b) [a.toNat, b.toNat] (fun w x c => if c < w then x / 2 ^ c else 0)
    ∧ R (.vsra d a b) [a.toNat, b.toNat] (fun w x c =>
        let v : Int := if x < 2 ^ (w - 1) then x else (x : Int) - 2 ^ w
        (v / 2 ^ c % 2 ^ w).toNat)
    ∧ R (.vaddi d a j) [a.toNat] (fun w x _ => (((x : Int) + j.toInt) % 2 ^ w).toNat)

/-- A word with one plain value in each lane: no flags, no steps of a generator. -/
def Sys2Proof.Claims.PlainResult (i : Instr) (s : State) (srcs : List Nat) (d : Nat) (tag : Nat → BitVec 4) (v : Nat → W32) : Prop :=
  VecReady s srcs [d] → PushTag s d tag → Gives i s (fun t => VecResult s t srcs d tag (fun l => { v := v l, fl := 0, gen := none }))

/-- O8. The bitwise words on 32 bits: equal tags keep the tag, RAW joins any, REF gives RAW (06 R122, 04 R84). -/
def Obligations.BitwiseWords : Prop :=
  ∀ (s : State) (d a b : BitVec 7) (ta tb : Nat → BitVec 4), Issues s → Tagged s [a.toNat] ta → Tagged s [b.toNat] tb →
    let x (l : Nat) := s.mine.field a.toNat l
    let y (l : Nat) := s.mine.field b.toNat l
    let noRef (t : BitVec 4) : BitVec 4 := if t = tRef then tRaw else t
    PlainResult (.vnot d a) s [a.toNat] d.toNat (fun g => noRef (ta g)) (fun l => ~~~(x l))
    ∧ PlainResult (.vmov d a) s [a.toNat] d.toNat (fun g => noRef (ta g)) x
    ∧ ((∀ g, ActiveGroup s g → ta g = tb g ∨ ta g = tRaw ∨ tb g = tRaw) →
        let tag (g : Nat) : BitVec 4 := if ta g = tb g then noRef (ta g) else tRaw
        PlainResult (.vand d a b) s [a.toNat, b.toNat] d.toNat tag (fun l => x l &&& y l)
        ∧ PlainResult (.vor d a b) s [a.toNat, b.toNat] d.toNat tag (fun l => x l ||| y l)
        ∧ PlainResult (.vxor d a b) s [a.toNat, b.toNat] d.toNat tag (fun l => x l ^^^ y l))
    ∧ ∀ m : BitVec 3, PredsReady s [m] → (∀ g, ActiveGroup s g → ta g = tb g) →
        PlainResult (.vsel m d a b) s [a.toNat, b.toNat] d.toNat (fun g => noRef (ta g)) (fun l => if (s.mine.pred m).getLsbD l then x l else y l)

/-- O9. Immediates, moves from scalars, retagging, indexed moves and counts (06 R123, R124, R134; 04 R94 to R98). -/
def Obligations.MovesAndCounts : Prop :=
  ∀ (s : State) (d a : BitVec 7), Issues s →
    let x (l : Nat) := s.mine.field a.toNat l
    (∀ j : BitVec 10, PlainResult (.vmovi d j) s [] d.toNat (fun _ => 0) (fun _ => j.signExtend 32)
      ∧ PlainResult (.viota d j) s [] d.toNat (fun _ => 0) (fun l => BitVec.ofInt 32 (l + j.toInt)))
    ∧ (∀ (m : BitVec 3) (c : BitVec 6), ScalarsReady s [c] →
        PlainResult (.vmovs m d c) s [] d.toNat (fun _ => if m.getLsbD 1 then 1 else 0)
          (fun _ => if m.getLsbD 0 then (s.sreg c).extractLsb' 32 32 else (s.sreg c).extractLsb' 0 32))
    ∧ (∀ t : BitVec 4, t ≠ tRef → PlainResult (.vtag t d a) s [a.toNat] d.toNat (fun _ => t) x)
    ∧ (∀ (k : BitVec 2) (c : BitVec 6) (j : BitVec 12), ScalarsReady s [c] →
        Gives (.vidx k c j) s (fun t => t.myStream.xreg k.toNat = (s.sreg c + j.signExtend 64).setWidth 16
          ∧ (∀ q, q ≠ k.toNat → t.myStream.xreg q = s.myStream.xreg q)
          ∧ t.myStream = { s.myStream with xregs := t.myStream.xregs, root := t.myStream.root }
          ∧ t.me = s.me.advance ∧ TeamKept s t ∧ OnlyMine s t))
    ∧ (∀ (k : BitVec 2) (ta : Nat → BitVec 4), let r := (s.myStream.xreg k.toNat).toNat + a.toNat
        r < 120 → Tagged s [r] ta → PlainResult (.vrdx k d a) s [r] d.toNat (fun g => if ta g = tRef then tRaw else ta g) (s.mine.vr r))
    ∧ (∀ (k : BitVec 2) (ta : Nat → BitVec 4), let r := (s.myStream.xreg k.toNat).toNat + d.toNat
        r < 120 → Tagged s [a.toNat] ta → PlainResult (.vwrx k d a) s [a.toNat] r (fun g => if ta g = tRef then tRaw else ta g) x)
    ∧ ∀ ta : Nat → BitVec 4, Tagged s [a.toNat] ta → (∀ g, ActiveGroup s g → ta g ≠ tRef) →
        (∃ n : Nat → Nat, PlainResult (.vpopc d a) s [a.toNat] d.toNat (fun _ => 0) (fun l => BitVec.ofNat 32 (n l))
          ∧ ∀ l, n l = ((List.range 32).filter (fun i => (x l).getLsbD i)).length)
        ∧ ∃ n : Nat → Nat, PlainResult (.vclz d a) s [a.toNat] d.toNat (fun _ => 0) (fun l => BitVec.ofNat 32 (n l))
          ∧ ∀ l, n l ≤ 32 ∧ (∀ i, i < 32 → 32 ≤ i + n l → (x l).getLsbD i = false) ∧ (n l < 32 → (x l).getLsbD (31 - n l) = true)

/-- O10. VCMP and the predicate words (06 R126, R127): f = 0 writes the condition, 1 ands it to pd's old bit, 2 ors it. -/
def Obligations.ComparesAndPredicates : Prop :=
  ∀ (s : State) (p : BitVec 3), Issues s →
    (∀ (k : BitVec 3) (a b : BitVec 7) (f : BitVec 4) (tag : Nat → BitVec 4), PredsReady s [p] → VecReady s [a.toNat, b.toNat] [] →
      Tagged s [a.toNat, b.toNat] tag → (∀ g, ActiveGroup s g → tag g = tI32 ∨ tag g = tF32) → k.toNat < 7 → f.toNat < 3 →
      Gives (.vcmp p k a b f) s (fun t => ∃ (c : Nat → Bool) (fl : Nat → Flags),
        PredResult s t [a.toNat, b.toNat] p
          (fun l => if f = 0 then c l else if f = 1 then (s.mine.pred p).getLsbD l && c l else (s.mine.pred p).getLsbD l || c l) fl
        ∧ (∀ l, Active s l → tag (l / s.mine.gw) = tI32 →
            let x := (s.mine.field a.toNat l).toInt
            let y := (s.mine.field b.toNat l).toInt
            fl l = 0 ∧ (c l = true ↔ (k = 0 ∧ x = y) ∨ (k = 1 ∧ x ≠ y) ∨ (k = 2 ∧ x < y) ∨ (k = 3 ∧ x ≤ y) ∨ (k = 4 ∧ x > y) ∨ (k = 5 ∧ x ≥ y)))
        ∧ ∀ l, Active s l → tag (l / s.mine.gw) = tF32 →
            let x := fp32.decodeDaz s.myStream.daz (s.mine.field a.toNat l).toNat
            let y := fp32.decodeDaz s.myStream.daz (s.mine.field b.toNat l).toNat
            let nan := x.isNan || y.isNan
            fl l = (if k.toNat ∈ [2, 3, 4, 5] then (if nan then fNV else 0) else x.nv ||| y.nv)
            ∧ (nan = true → (c l = true ↔ k = 1 ∨ k = 6))
            ∧ (nan = false → (c l = true ↔ (k = 0 ∧ Val.cmp x y = 0) ∨ (k = 1 ∧ Val.cmp x y ≠ 0) ∨ (k = 2 ∧ Val.cmp x y < 0)
                ∨ (k = 3 ∧ Val.cmp x y ≤ 0) ∨ (k = 4 ∧ Val.cmp x y > 0) ∨ (k = 5 ∧ Val.cmp x y ≥ 0)))))
    ∧ ∀ a b : BitVec 3,
        let R (i : Instr) (c : Nat → Bool) : Prop := Gives i s (fun t => PredResult s t [] p c (fun _ => 0))
        (PredsReady s [p, a, b] → R (.pand p a b) (fun l => (s.mine.pred a).getLsbD l && (s.mine.pred b).getLsbD l)
          ∧ R (.por p a b) (fun l => (s.mine.pred a).getLsbD l || (s.mine.pred b).getLsbD l))
        ∧ (PredsReady s [p, a] → R (.pnot p a) (fun l => !(s.mine.pred a).getLsbD l))

/-- A lane of n elements in which the elements that `pick` names are computed and the others are kept: element e from source element k by f, at
the mode's random bits, or the old element (06 R117, R130, R131). Each computed element takes one step of the generator in mode SR. -/
structure Sys2Proof.Claims.PartLane (w n : Nat) (sr : Bool) (g : W64) (old : W32) (f : Nat → Nat → Nat × Flags) (pick : Nat → Option Nat)
    (r : LaneRes) : Prop where
  elems : ∀ e, e < n → elem w r.v e = match pick e with
    | some k => (f k (if sr then (Nat.repeat genStep (((List.range (e + 1)).filter (fun i => (pick i).isSome)).length) g).toNat % 65536
                      else g.toNat % 65536)).1 % 2 ^ w
    | none => elem w old e
  flags : ∀ b, r.fl.getLsbD b = true ↔ ∃ e k, e < n ∧ pick e = some k ∧
    (f k (if sr then (Nat.repeat genStep (((List.range (e + 1)).filter (fun i => (pick i).isSome)).length) g).toNat % 65536
          else g.toNat % 65536)).2.getLsbD b = true
  gen : r.gen = if sr then some (Nat.repeat genStep (((List.range n).filter (fun i => (pick i).isSome)).length) g) else none

/-- O11. VCVT between the accepted pairs, VPACK and VUNPK (06 R130, R131, Table 6-3). Part p names the source elements where the destination holds
no more elements, else the destination elements; the other elements of vd are kept where vd already has the destination tag, else 0. -/
def Obligations.Conversions : Prop :=
  ∀ (s : State) (t : BitVec 4) (d a : BitVec 7) (p : BitVec 2) (ta : Nat → BitVec 4), Issues s →
    let srcs : List Nat := if 120 ≤ d.toNat then [a.toNat] else [a.toNat, d.toNat]
    let old (l : Nat) : W32 := if d.toNat < 120 ∧ s.mine.vtag d.toNat (l / s.mine.gw) = t then s.mine.vr d.toNat l else 0
    let x (l : Nat) := s.mine.field a.toNat l
    VecReady s srcs [d.toNat] → Tagged s [a.toNat] ta → PushTag s d.toNat (fun _ => t) →
    (∀ (r : BitVec 3) (sat : BitVec 1), (∀ g, ActiveGroup s g → cvtPair t (ta g) = true) →
      Gives (.vcvt t d a r sat p) s (fun u => ∃ out, VecResult s u srcs d.toNat (fun _ => t) out ∧ ∀ l, Active s l →
        let src := kindOf (ta (l / s.mine.gw))
        let ns := src.count
        let nd := (kindOf t).count
        PartLane (kindOf t).width nd (decide (r = 5)) (s.mine.gen l) (old l)
          (fun k rnd => conv s.fpMode src (kindOf t) r.toNat (decide (sat = 1)) rnd (elem src.width (x l) k))
          (fun e => if nd ≤ ns then (if p.toNat * nd + e < ns then some (p.toNat * nd + e) else none)
                    else (if p.toNat * ns ≤ e ∧ e < p.toNat * ns + ns then some (e - p.toNat * ns) else none)) (out l)))
    ∧ (∀ sat : BitVec 1, (∀ g, ActiveGroup s g → (packPair t (ta g)).isSome = true) →
      Gives (.vpack t d a sat p) s (fun u => ∃ out, VecResult s u srcs d.toNat (fun _ => t) out ∧ ∀ l, Active s l → ∀ n I m J,
        kindOf (ta (l / s.mine.gw)) = .int n I → kindOf t = .int m J →
        PartLane J.w m false 0 (old l) (fun k _ => J.narrow (decide (sat = 1)) (I.decode (elem I.w (x l) k)))
          (fun e => if p.toNat * n ≤ e ∧ e < p.toNat * n + n then some (e - p.toNat * n) else none) (out l)))
    ∧ ((∀ g, ActiveGroup s g → (unpackPair t (ta g)).isSome = true) →
      Gives (.vunpk t d a p) s (fun u => ∃ out, VecResult s u srcs d.toNat (fun _ => t) out ∧ ∀ l, Active s l → ∀ m J, kindOf t = .int m J →
        (∀ n I, kindOf (ta (l / s.mine.gw)) = .int n I →
          PartLane J.w m false 0 (old l) (fun k _ => (J.wrap (I.decode (elem I.w (x l) k)), 0))
            (fun e => if p.toNat * m + e < n then some (p.toNat * m + e) else none) (out l))
        ∧ (ta (l / s.mine.gw) = 8 → PartLane J.w m false 0 (old l) (fun k _ => (elem 4 (x l) k, 0))
            (fun e => if p.toNat * m + e < 8 then some (p.toNat * m + e) else none) (out l))))

/-- O12. VDOT (06 R133, Table 6-4; 03 R69 to R73): an integer accumulator gains the sum of the products modulo 2^32, with OF where the exact sum is
out of range; a floating one takes one DOTSTEP, exact and rounded once. -/
def Obligations.DotProducts : Prop :=
  ∀ (s : State) (d a b : BitVec 7) (tag acc : Nat → BitVec 4), Issues s → d.toNat < 120 → VecReady s [a.toNat, b.toNat, d.toNat] [d.toNat] →
    Tagged s [a.toNat, b.toNat] tag → Tagged s [d.toNat] acc →
    (∀ g, ActiveGroup s g → ((tag g).toNat ∈ [2, 3, 4, 5] ∧ acc g = tF32) ∨ ((tag g).toNat ∈ [10, 11, 12, 13] ∧ acc g = tI32)) →
    Gives (.vdot d a b) s (fun t => ∃ out, VecResult s t [a.toNat, b.toNat, d.toNat] d.toNat acc out ∧ ∀ l, Active s l →
      let x := s.mine.field a.toNat l
      let y := s.mine.field b.toNat l
      let z := s.mine.vr d.toNat l
      (out l).gen = none
      ∧ (∀ n I, kindOf (tag (l / s.mine.gw)) = .int n I →
          let sum : Int := z.toInt + ((List.range n).map (fun i => I.decode (elem I.w x i) * I.decode (elem I.w y i))).sum
          (out l).v = BitVec.ofInt 32 sum ∧ (out l).fl = if -2 ^ 31 ≤ sum ∧ sum < 2 ^ 31 then 0 else fOF)
      ∧ ∀ n F, kindOf (tag (l / s.mine.gw)) = .flt n F →
          let ps := (List.range n).map (fun i => (F.decodeDaz s.myStream.daz (elem F.width x i), F.decodeDaz s.myStream.daz (elem F.width y i)))
          let r := fp32.flush s.myStream.ftz (dotStep fp32 false (fp32.decodeDaz s.myStream.daz z.toNat) ps)
          (out l).v = BitVec.ofNat 32 r.1 ∧ ∀ i, (out l).fl.getLsbD i = true ↔
            (r.2.getLsbD i = true ∨ ∃ p, p ∈ ps ∧ (p.1.nv.getLsbD i = true ∨ p.2.nv.getLsbD i = true)))

/-- O13. VSEED and VRAND (06 R135, R136): the generator of each active lane, a zero seed standing for the first state; VRAND takes one step and
gives its low 32 bits, or its 24 top bits as a fraction. -/
def Obligations.RandomNumbers : Prop :=
  ∀ (s : State) (d a b : BitVec 7), Issues s →
    (∀ ta tb : Nat → BitVec 4, VecReady s [a.toNat, b.toNat] [] → Tagged s [a.toNat] ta → Tagged s [b.toNat] tb →
      (∀ g, ActiveGroup s g → ta g ≠ tRef ∧ tb g ≠ tRef) →
      Gives (.vseed a b) s (fun t =>
        (∀ l, l < 1024 → t.mine.gen l = if Active s l then
          (let seed : W64 := s.mine.field b.toNat l ++ s.mine.field a.toNat l
           if seed = 0 then 0xD1B54A33D1B54A33 else seed) else s.mine.gen l)
        ∧ QueuesMoved s t [a.toNat, b.toNat] 0 (fun _ => 0)
        ∧ t.mine = { s.mine with gens := t.mine.gens, queues := t.mine.queues, cs := t.mine.cs, as := t.mine.as }
        ∧ t.me = s.me.advance ∧ StreamKept s t ∧ OnlyMine s t))
    ∧ ∀ m : BitVec 3, m.toNat < 2 → VecReady s [] [d.toNat] → PushTag s d.toNat (fun _ => if m = 0 then 0 else 1) →
        Gives (.vrand m d) s (fun t => ∃ out, VecResult s t [] d.toNat (fun _ => if m = 0 then 0 else 1) out ∧ ∀ l, Active s l →
          (out l).gen = some (genStep (s.mine.gen l)) ∧ (out l).fl = 0 ∧
          (m = 0 → (out l).v = (genStep (s.mine.gen l)).setWidth 32)
          ∧ (m = 1 → (out l).v = BitVec.ofNat 32 (fp32.rnd 0 false 0 (.fin false ((genStep (s.mine.gen l)).toNat / 2 ^ 40) (-24))).1))

/-- O14. The special functions of one F32 source (07 R137 to R143). Where a result is exact it is as computed; else it is one of the values that
R139 admits (log 7): the functions named here. DAZ acts on the source and FTZ on the result. -/
def Obligations.SpecialFunctions : Prop :=
  ∀ (s : State) (d a b : BitVec 7), Issues s → Tagged s [a.toNat] (fun _ => tF32) →
    let X (l : Nat) : Val := fp32.decodeDaz s.myStream.daz (s.mine.field a.toNat l).toNat
    let R (i : Instr) (srcs : List Nat) (tag : BitVec 4) (v : Nat → Nat × Flags) (gen : Nat → Option W64) : Prop :=
      VecReady s srcs [d.toNat] → PushTag s d.toNat (fun _ => tag) →
      Gives i s (fun t => VecResult s t srcs d.toNat (fun _ => tag) (fun l => { v := BitVec.ofNat 32 (v l).1, fl := (v l).2, gen := gen l }))
    let F (i : Instr) (f : W32 → Val → Nat × Flags) : Prop :=
      R i [a.toNat] tF32 (fun l => fp32.flush s.myStream.ftz (f (s.mine.field a.toNat l) (X l))) (fun _ => none)
    F (.vexpf d a) exp2F ∧ F (.vlogf d a) log2F ∧ F (.vrcp d a) rcpF ∧ F (.vrsq d a) rsqF ∧ F (.vsinp d a) sinpF
    ∧ (∀ m : BitVec 3, R (.vrndi m d a) [a.toNat] tF32
        (fun l => fp32.flush s.myStream.ftz (rndIntegral m.toNat ((genStep (s.mine.gen l)).toNat % 65536) (X l)))
        (fun l => if m = 5 then some (genStep (s.mine.gen l)) else none))
    ∧ (Tagged s [b.toNat] (fun _ => tI32) → R (.vsclb d a b) [a.toNat, b.toNat] tF32 (fun l =>
        let y := fp32.flush s.myStream.ftz (fp32.rnd 0 false 0 ((X l).scale (clampInt (-1000) 1000 (s.mine.field b.toNat l).toInt)))
        (y.1, y.2 ||| (X l).nv)) (fun _ => none))
    ∧ (VecReady s [a.toNat] [d.toNat] → PushTag s d.toNat (fun _ => tI32) → Gives (.vexpx d a) s (fun t =>
        ∃ out, VecResult s t [a.toNat] d.toNat (fun _ => tI32) out ∧ ∀ l, Active s l → (out l).gen = none ∧
          match X l with
          | .nan _ => (out l).v = 0x7FFFFFFF ∧ (out l).fl = fNV
          | .inf _ => (out l).v = 0x7FFFFFFF ∧ (out l).fl = 0
          | .fin _ m e => if m = 0 then (out l).v = 0x80000000 ∧ (out l).fl = fDZ
                          else (out l).v = BitVec.ofInt 32 (Nat.log2 m + e) ∧ (out l).fl = 0))
    ∧ R (.vexpxMant d a) [a.toNat] tF32 (fun l =>
        let y := fp32.rnd 0 false 0 (if (X l).isZero then X l else (X l).scale (-(X l).log2))
        (y.1, y.2 ||| (X l).nv)) (fun _ => none)

/-- O15. Words that move values across lanes (07 R147, R148, R151 to R154): shuffles, broadcasts, ballots, conflicts, intersections. A lane that
does not exist reads 0. -/
def Obligations.CrossLaneMoves : Prop :=
  ∀ (s : State) (m : BitVec 3) (d a b : BitVec 7) (ta tb : Nat → BitVec 4), Issues s → d.toNat < 120 → a.toNat < 120 → b.toNat < 120 →
    m.toNat < 2 → Tagged s [a.toNat] ta → Tagged s [b.toNat] tb →
    let T := s.mine
    let x (l : Nat) : W32 := if l < T.lanes then T.vr a.toNat l else 0
    let y (l : Nat) : W32 := T.vr b.toNat l
    let noRef (t : BitVec 4) : BitVec 4 := if t = tRef then tRaw else t
    -- the active lanes of the whole strand, and of a lane's group, ascending
    let all := T.lanesOf s.me.mask
    let grp (l : Nat) := all.filter (fun k => k / T.gw = l / T.gw)
    ((∀ g, ActiveGroup s g → tb g = tI32) →
      PlainResult (.vshfl m d a b) s [a.toNat, b.toNat] d.toNat (fun g => noRef (ta g)) (fun l =>
        let k := (y l).toNat % 32
        x (l / T.gw * T.gw + (if m = 0 then k else Nat.xor (l % T.gw) k) % T.gw))
      ∧ ((∀ l, Active s l → let k := (y l).toNat % 1024
            k < T.lanes → T.vtag a.toNat (k / T.gw) = T.vtag a.toNat (l / T.gw)) →
          PlainResult (.vbcst d a b) s [a.toNat, b.toNat] d.toNat (fun g => noRef (ta g)) (fun l => x ((y l).toNat % 1024))))
    ∧ (∀ p : BitVec 3, PredsReady s [p] → PlainResult (.vbal m d p) s [] d.toNat (fun _ => tI32) (fun l =>
        let on := all.filter (fun k => (T.pred p).getLsbD k)
        if m = 0 then BitVec.ofNat 32 ((s.me.mask &&& T.pred p).toNat / 2 ^ (l / T.gw * T.gw) % 2 ^ T.gw) else BitVec.ofNat 32 on.length))
    ∧ (∀ t : BitVec 4, t = tI32 ∨ t = tRaw → (∃ l, Active s l) → (∀ g, ActiveGroup s g → ta g = t) →
        PlainResult (.vconf m d a) s [a.toNat] d.toNat (fun _ => tI32) (fun l =>
          let same := all.filter (fun k => T.vr a.toNat k = T.vr a.toNat l)
          BitVec.ofNat 32 (if m = 0 then (same.filter (fun k => decide (k < l))).length else same.headD l)))
    ∧ ((∀ g, ActiveGroup s g → ta g = tb g ∧ (ta g = tI32 ∨ ta g = tRaw)) →
        PlainResult (.visect m d a b) s [a.toNat, b.toNat] d.toNat (fun _ => tI32) (fun l =>
          if m = 0 then
            let lim := min (T.vr a.toNat ((grp l).getLastD l)).toNat (y ((grp l).getLastD l)).toNat
            let hit := match (grp l).find? (fun k => (y k).toNat == (T.vr a.toNat l).toNat) with | some k => k % T.gw | none => 255
            let na := ((grp l).filter (fun k => decide ((T.vr a.toNat k).toNat ≤ lim))).length
            let nb := ((grp l).filter (fun k => decide ((y k).toNat ≤ lim))).length
            BitVec.ofNat 32 (nb * 2 ^ 16 + na * 2 ^ 8 + hit)
          else match (List.range 32).find? (fun i => (T.vr a.toNat l).getLsbD i) with
            | none => BitVec.allOnes 32
            | some p => BitVec.ofNat 32 (((List.range p).filter (fun i => (y l).getLsbD i)).length * 2 ^ 8 + p)))

/-- O16. Reductions and scans over the strand's active lanes, ascending, all of one tag (07 R149, R150): VRED leaves one value in every lane, VSCAN
each lane's own prefix, inclusive or, with m[2], exclusive with the identity where no lane is below. -/
def Obligations.ReductionsAndScans : Prop :=
  ∀ (s : State) (m : BitVec 3) (d a : BitVec 7) (t : BitVec 4), Issues s → d.toNat < 120 → a.toNat < 120 →
    VecReady s [a.toNat] [d.toNat] → Tagged s [a.toNat] (fun _ => t) → (∃ l, Active s l) →
    let T := s.mine
    let all := T.lanesOf s.me.mask
    let R (i : Instr) (v : Nat → W32 × Flags) : Prop :=
      Gives i s (fun u => VecResult s u [a.toNat] d.toNat (fun _ => t) (fun l => { v := (v l).1, fl := (v l).2, gen := none }))
    (m.toNat < 6 → (redOfM m.toNat).tagOk t = true → R (.vred m d a) (fun _ => (redOfM m.toNat).reduce s.fpMode t (all.map (T.vr a.toNat))))
    ∧ ((scanOfM (m.toNat % 4)).tagOk t = true → R (.vscan m d a) (fun l =>
        let below := all.filter (fun k => if m.getLsbD 2 then decide (k < l) else decide (k ≤ l))
        if below = [] then ((scanOfM (m.toNat % 4)).identity t, 0) else (scanOfM (m.toNat % 4)).reduce s.fpMode t (below.map (T.vr a.toNat))))

/-- O17. What the reductions of integer lanes are (07 Table 7-3, R149): the sum modulo 2^32 with OF where the exact sum is out of range, the least and the
greatest signed value, and the bitwise ones. -/
def Obligations.IntegerReductions : Prop :=
  ∀ (md : FpMode) (x : W32) (xs : List W32),
    let sum : Int := ((x :: xs).map BitVec.toInt).sum
    RedOp.reduce .add md tI32 (x :: xs) = (BitVec.ofInt 32 sum, if -2 ^ 31 ≤ sum ∧ sum < 2 ^ 31 then 0 else fOF)
    ∧ (∃ v, RedOp.reduce .min md tI32 (x :: xs) = (v, 0) ∧ v ∈ x :: xs ∧ ∀ y ∈ x :: xs, v.toInt ≤ y.toInt)
    ∧ (∃ v, RedOp.reduce .max md tI32 (x :: xs) = (v, 0) ∧ v ∈ x :: xs ∧ ∀ y ∈ x :: xs, y.toInt ≤ v.toInt)
    ∧ ∀ t i, i < 32 →
        ((RedOp.reduce .and md t (x :: xs)).1.getLsbD i = true ↔ ∀ y ∈ x :: xs, y.getLsbD i = true)
        ∧ ((RedOp.reduce .or md t (x :: xs)).1.getLsbD i = true ↔ ∃ y ∈ x :: xs, y.getLsbD i = true)
        ∧ ((RedOp.reduce .xor md t (x :: xs)).1.getLsbD i = true ↔ ((x :: xs).filter (fun y => y.getLsbD i)).length % 2 = 1)

/-- O18. MSAL (13 R261): in each segment of 16 lanes, the bitmap of the k elements of greatest |a × b| in BF16, NaN last and ties to the lower index; k is
vd's low 6 bits in the segment's lowest active lane, at most 32. -/
def Obligations.SaliencySelection : Prop :=
  ∀ (s : State) (d a b : BitVec 7), Issues s → d.toNat < 120 → a.toNat < 120 → b.toNat < 120 →
    VecReady s [a.toNat, b.toNat, d.toNat] [d.toNat] → Tagged s [a.toNat, b.toNat] (fun _ => 2) → Tagged s [d.toNat] (fun _ => tI32) →
    let T := s.mine
    let seg (l : Nat) := (T.lanesOf s.me.mask).filter (fun k => k / 16 = l / 16)
    -- saliency of element j of the pair in lane x: its index in the segment and its value
    let sal (x j : Nat) : Nat × Val :=
      let p := (Val.mul (bf16.decode (elem 16 (T.vr a.toNat x) j)) (bf16.decode (elem 16 (T.vr b.toNat x) j))).1
      (2 * (x % 16) + j, bf16.decode (bf16.rnd 0 false 0 p.abs).1)
    let es (l : Nat) := (seg l).flatMap (fun x => [sal x 0, sal x 1])
    Gives (.msal d a b) s (fun t => ∃ out, VecResult s t [a.toNat, b.toNat, d.toNat] d.toNat (fun _ => tI32) out ∧ ∀ l, Active s l →
      let k := min ((T.vr d.toNat ((seg l).headD l)).toNat % 64) 32
      (out l).fl = 0 ∧ (out l).gen = none ∧ ∀ i, i < 32 → ((out l).v.getLsbD i = true ↔ ∃ e ∈ es l, e.1 = i ∧
        ((es l).filter (fun f => if f.2.isNan then e.2.isNan && decide (f.1 < e.1)
          else if e.2.isNan then true else decide (0 < Val.cmp f.2 e.2) || (decide (Val.cmp f.2 e.2 = 0) && decide (f.1 < e.1)))).length < k))

/-! Division, joining and ending; traps that a word takes; barriers and queues; register blocks. -/

/-- O19. DIVB (01 R21; 04 R88; 05 R108). With no lane taken, or all of them, the strand alone moves; else two FREE records take the two masks, or, where
fewer than two are FREE, an overflow entry holds the deferred lanes; else it is a divergence trap. Which two records is open (log 2). -/
def Obligations.DivisionOfStrands : Prop :=
  ∀ (s : State) (p : BitVec 3) (i : BitVec 1) (o : BitVec 20), Issues s → PredsReady s [p] → s.me.st = .running →
    let x := s.me
    let pv := s.mine.pred p
    let t := if i = 1 then x.mask &&& ~~~pv else x.mask &&& pv
    let f := x.mask &&& ~~~t
    let next := packetAfter x.pc
    let there := target x.pc o
    let rec_ (u : State) (k : Nat) : Strand := SMap.get Strand.free (u.core s.mine.core).active.split k
    let isFree (k : Nat) : Prop := k < 256 ∧ (rec_ s k).st = .free
    let child (m : Mask) (a : W64) : Strand :=
      { Strand.free with st := .running, team := s.cur.team, strm := s.cur.strm, parent := s.cur.sid, pc := a, mask := m, cnt := x.cnt, wm := x.cnt,
                         step := x.step, freeze := x.freeze, readyAt := s.clock, windows := (x.goto a).windows }
    (t = 0 → Gives (.divb p i o) s (fun u => StrandResult s u (x.goto next)))
    ∧ (t ≠ 0 → InCode s there →
      (f = 0 → Gives (.divb p i o) s (fun u => StrandResult s u (x.goto there)))
      ∧ (f ≠ 0 → (∃ j k, j ≠ k ∧ isFree j ∧ isFree k) → Gives (.divb p i o) s (fun u =>
          (∃ j k, j ≠ k ∧ isFree j ∧ isFree k ∧ rec_ u j = child t there ∧ rec_ u k = child f next
            ∧ ∀ n, n ≠ j → n ≠ k → s.cur.sid ≠ some n → rec_ u n = rec_ s n)
          ∧ u.me = { x.goto x.pc with st := .suspended, stepDue := false, windows := [] } ∧ StreamKept s u ∧ TeamKept s u
          ∧ u = { s with teams := u.teams, cores := u.cores, nonce := s.nonce + 2 } ∧ (∀ v, v ≠ s.cur.team → u.team v = s.team v)
          ∧ ∀ c, u.core c = if c = s.mine.core then
              { s.core c with active := { (s.core c).active with split := (u.core c).active.split } } else s.core c))
      ∧ (f ≠ 0 → (∀ j k, isFree j → isFree k → j = k) →
          (s.mine.ovf.length < 64 → Gives (.divb p i o) s (fun u => OwnResult s u
            { s.mine with ovf := { owner := s.cur.sid, strm := s.cur.strm, running := false, pc := next, dmask := f, amask := 0, join := none,
                                   wmark := x.cnt, pwm := x.wm, barr := none } :: s.mine.ovf }
            s.myStream { x.goto there with mask := t, wm := x.cnt }))
          ∧ (64 ≤ s.mine.ovf.length → s.untranslated s.cur = false →
              exec (.divb p i o) s = .next (s.trapHere { cause := 0x10, detail := 0, code := 0, mask := x.mask, addr := 0 }))))

/-- The owning entry of the issuing strand is e, with these entries pushed after it and before it (01 R20). -/
def Sys2Proof.Claims.Owns (s : State) (pre : List OvfEntry) (e : OvfEntry) (post : List OvfEntry) : Prop :=
  s.mine.ovf = pre ++ e :: post ∧ e.owner = s.cur.sid ∧ e.strm = s.cur.strm ∧ ∀ f ∈ pre, ¬ (f.owner = s.cur.sid ∧ f.strm = s.cur.strm)
/-- The issuing strand owns no overflow entry. -/
def Sys2Proof.Claims.OwnsNone (s : State) : Prop := ∀ f ∈ s.mine.ovf, ¬ (f.owner = s.cur.sid ∧ f.strm = s.cur.strm)
/-- A live record, other than the issuing strand's, whose parent is the issuing strand's parent. -/
def Sys2Proof.Claims.Sibling (s : State) (k : Nat) (y : Strand) : Prop :=
  (k, y) ∈ (s.core s.mine.core).active.split ∧ y.st ≠ .free ∧ y.team = s.cur.team ∧ y.strm = s.cur.strm ∧ y.parent = s.me.parent ∧ s.cur.sid ≠ some k
/-- A strand that moves onto the deferred lanes of its entry; lanes that have arrived at a barrier leave it blocked there (01 R22; 08 R168). -/
def Sys2Proof.Claims.onto (x : Strand) (e : OvfEntry) : Strand :=
  let y := { x.goto e.pc with mask := e.dmask, wm := e.pwm, cnt := min x.cnt e.wmark }
  match e.barr with
  | some n => { y with st := .blocked, wait := if n = 16 then .cbar else .tbar n }
  | none => y

/-- O20. JOIN of a strand that owns an entry, of a root strand, and of a child with a sibling that does not wait yet; and END of a strand that owns an
entry, after which every barrier of the team is looked at again (01 R22, R23; 04 R88; 08 R166). `wmZero` is 04 R87's pending reset of WM. -/
def Obligations.JoinsAndEnds : Prop :=
  ∀ (s : State), Issues s → s.mine.cs.wmZero = false →
    let x := s.me
    let back (w : Nat) : Nat := s.mine.pool + (x.cnt - w)
    (OwnsNone s →
      (s.cur.sid = none → Gives .join s (fun t => StrandResult s t x.advance))
      ∧ ∀ i k y, s.cur.sid = some i → Sibling s k y → y.st ≠ .waiting → SMap.get Strand.free (s.core s.mine.core).active.split k = y →
          Gives .join s (fun t => OwnResult s t { s.mine with pool := back x.wm } s.myStream
            { x.wordDone false with st := .waiting, jpc := x.pc, checked := 0, cnt := min x.cnt x.wm }))
    ∧ ∀ pre e post, Owns s pre e post →
      (e.running = false →
        Gives .join s (fun t => OwnResult s t
          { s.mine with pool := back e.wmark, ovf := pre ++ { e with running := true, amask := x.mask, join := some x.pc, barr := none } :: post }
          s.myStream (onto x e))
        ∧ ∃ u, exec .endStrand s = .next (u.reeval s.cur.team) ∧ OwnResult s u
          { s.mine with pool := back e.wmark, ovf := pre ++ { e with running := true, amask := 0, barr := none } :: post } s.myStream (onto x e))
      ∧ (e.running = true → (e.join = none ∨ e.join = some x.pc) → Gives .join s (fun t => OwnResult s t
          { s.mine with pool := back e.wmark, ovf := pre ++ post } s.myStream
          { x.advance with mask := e.amask ||| x.mask, wm := e.pwm, cnt := min x.cnt e.wmark }))
      ∧ (∀ j, e.running = true → e.join = some j → j ≠ x.pc → s.untranslated s.cur = false →
          exec .join s = .next (s.trapHere { cause := 0x11, detail := 0, code := 0, mask := x.mask, addr := j }))
      ∧ ∀ j, e.running = true → e.amask ≠ 0 → e.join = some j → ∃ u, exec .endStrand s = .next (u.reeval s.cur.team) ∧ OwnResult s u
          { s.mine with pool := back e.wmark, ovf := pre ++ post } s.myStream
          { x.goto (j + 4) with mask := e.amask, st := .running, wm := e.pwm, cnt := min x.cnt e.wmark }

/-- A strand that has waited and goes on at its next word (04 R91; 23 R391). -/
def Sys2Proof.Claims.answered (s : State) (x : Strand) : Strand := { x.advance with st := .running, wait := .nothing, readyAt := s.clock, urgent := false }

/-- O21. TRAP, BKPT and SYSC (11 R226; 23 R391). A TRAP or BKPT takes its trap; a SYSC whose stream's earlier accesses are performed
joins the calls of its stream, and its strand blocks until it is answered; a call of a number that is not assigned, where no call of the stream is
before it, is answered at once: s48 is 0, s49 all ones, and the strand acquires and goes on. -/
def Obligations.TrapAndCallWords : Prop :=
  ∀ (s : State) (n : BitVec 16),
    let named (k : Nat) : Bool := [0x0000, 0x0001, 0x0002, 0x0010, 0x0011, 0x0012, 0x0020, 0x0021, 0x0022, 0x0030, 0x0031].contains k
    exec (.trap n) s = .next (s.trapHere { cause := 0x06, detail := 0, code := n.toNat, mask := s.me.mask, addr := 0 })
    ∧ exec (.bkpt n) s = .next (s.trapHere { cause := 0x07, detail := 0, code := n.toNat, mask := s.me.mask, addr := 0 })
    ∧ (Issues s → ScalarsReady s [48, 49, 50, 51, 52, 53, 54, 55] →
        (∀ a ∈ s.mine.accs, a.strm = s.cur.strm → if a.atBanks then a.complete = true else a.performed = true) →
        ((named n.toNat = true ∨ ∃ c l, s.myStream.calls = c :: l) → (∀ c ∈ s.myStream.calls, named c.n = true) →
          Gives (.sysc n) s (fun t => OwnResult s t s.mine
            { s.myStream with calls := s.myStream.calls ++ [{ sid := s.cur.sid, n := n.toNat }] }
            { s.me with st := .blocked, wait := .farder n.toNat }))
        ∧ (named n.toNat = false → s.myStream.calls = [] →
            Gives (.sysc n) s (fun t => OwnResult (s.dropL1 s.mine.core) t s.mine
              ((s.myStream.setSreg 48 0 false).setSreg 49 (BitVec.allOnes 64) false) (Claims.answered s s.me))))

/-- O22. Taking a precise trap (11 R214, R218 to R223, Table 11-1). Where the stream's earlier accesses are performed and the queue has room, the
strand is parked, PROD counts one more, and the slot that PROD named takes the 64 bytes of the record and the 128 bytes of the mask; Farder is
told; no other byte changes. Else the core holds the trap and memory is as it was. The queue begins in a 64-byte block of its first page, and its
pages, which need not follow one another, are pages of 4 KiB (R220). -/
def Obligations.TakingATrap : Prop :=
  ∀ (s : State) (x : TrapInfo), Issues s → s.heldTraps = [] → s.me.replay = none → (s.ctx s.mine.ctx).handler ≠ some s.mine.grid → s.mine.live = true →
    let T := s.mine
    let c := s.ctx T.ctx
    let prod := s.memNat (c.trapqAt 0) 8
    let cons := s.memNat (c.trapqAt 8) 8
    let k := prod % c.trapqN
    let rec_ := c.trapqAt (64 + 64 * k)
    let img (i : Nat) : Nat := c.trapqAt (64 + 64 * c.trapqN + 128 * k + 64 * i)
    let outside (a b n : Nat) : Prop := a < b ∨ b + n ≤ a
    let t := s.trapHere x
    let shape : Team := { Team.none with lanes := T.lanes, lw := T.lw }
    let parked (t : State) : Prop := t.me = { s.me with st := .parked, stepDue := false, checked := 0 } ∧ StreamKept s t ∧ TeamKept s t
      ∧ ∀ u, u ≠ s.cur.team → t.team u = s.team u
    0 < c.trapqN → c.trapqVa.toNat % 64 = 0 → c.trapqPages.Nodup → (∀ p ∈ c.trapqPages, p % 4096 = 0) →
    c.trapqVa.toNat % 4096 + 64 + 192 * c.trapqN ≤ 4096 * c.trapqPages.length → (∀ a ∈ T.accs, a.strm = s.cur.strm → a.id ≤ s.lastOp) →
    ((∀ a ∈ T.accs, a.strm = s.cur.strm → a.performed = true) → (prod ≤ cons ∨ prod - cons < c.trapqN) →
      parked t ∧ t.memNat (c.trapqAt 0) 8 = (prod + 1) % 2 ^ 64
      ∧ t.memNat rec_ 8 = (x.cause + x.detail % 2 ^ 8 * 2 ^ 8 + x.code % 2 ^ 16 * 2 ^ 16 + (if s.cur.strm = .a then 2 ^ 32 else 0)
          + (if T.lw then 2 ^ 35 else 0) + T.ctx % 2 ^ 16 * 2 ^ 48) % 2 ^ 64
      ∧ t.memNat (rec_ + 8) 8 = (s.grid T.grid).id.toNat
      ∧ t.memNat (rec_ + 16) 8 = (T.tidx.1 + T.tidx.2.1 * 2 ^ 21 + T.tidx.2.2 * 2 ^ 42) % 2 ^ 64
      ∧ t.memNat (rec_ + 24) 8 = (s.cur.sid.getD 0x100 + T.core / 24 * 2 ^ 16 + T.core % 24 * 2 ^ 24 + T.slot * 2 ^ 32 + prod % 2 ^ 24 * 2 ^ 40) % 2 ^ 64
      ∧ t.memNat (rec_ + 32) 8 = s.me.pc.toNat ∧ t.memNat (rec_ + 40) 8 = x.addr.toNat
      ∧ t.memNat (rec_ + 48) 8 = (shape.groupBits x.mask + shape.laneWord x.mask ((shape.groupsOf x.mask).headD 0) * 2 ^ 32) % 2 ^ 64
      ∧ t.memNat (rec_ + 56) 8 = s.me.pc.toNat % 2 ^ 48
      ∧ (∀ g, g < 32 → t.memNat (img (g / 16) + 4 * (g % 16)) 4 = if g < shape.ngroups then shape.laneWord x.mask g else 0)
      ∧ (∀ a, outside a (c.trapqAt 0) 8 → outside a rec_ 64 → outside a (img 0) 64 → outside a (img 1) 64 → Memory.read t.mem a = Memory.read s.mem a)
      ∧ t.hub.plic = s.hub.plic ++ [(c.notifyHart, T.ctx)] ∧ t.heldTraps = []
      ∧ ∃ r, (t.ctx T.ctx) = { c with recs := c.recs ++ [r] } ∧ r.seq = prod ∧ r.team = s.cur.team ∧ r.sid = s.cur.sid ∧ r.mask = x.mask)
    ∧ (((∃ a ∈ T.accs, a.strm = s.cur.strm ∧ a.performed = false) ∨ (cons < prod ∧ c.trapqN ≤ prod - cons)) →
      parked t ∧ t.mem = s.mem ∧ ∃ r, t.heldTraps = [r] ∧ r.cause = x.cause ∧ r.mask = x.mask ∧ r.pc = s.me.pc ∧ t.ctxs = s.ctxs)

/-- The issuing core's active bank with another free pool and other requests. -/
def Sys2Proof.Claims.withBank (s : State) (pool : Nat) (reqs : List RegReq) : State :=
  s.onCore s.mine.core (fun c => { c with active := { c.active with pool := pool, reqs := reqs } })

/-- O23. REGACQ, REGREL, REGGIVE and REGCLAIM (04 R86 to R91): granted, denied, or waiting. Claimed registers read 0 with tag RAW. -/
def Obligations.RegisterBlocks : Prop :=
  ∀ (s : State) (p : BitVec 3) (n : BitVec 4), Issues s → PredsReady s [p] →
    let T := s.mine
    let x := s.me
    let b := (s.core T.core).active
    let k := n.toNat
    let pd (T : Team) (v : Bool) : Team := T.setPred p x.mask (if v then x.mask else 0)
    let R (i : Instr) (base : State) (U : Team) (y : Strand) : Prop := Gives i s (fun t => OwnResult base t U s.myStream y)
    -- REGACQ
    (768 < (T.heldBlocks + k) * T.ngroups → R (.regacq p n) s (pd T false) (answered s x))
    ∧ ((T.heldBlocks + k) * T.ngroups ≤ 768 → (∀ q ∈ b.reqs, q.claim = true) → k * T.ngroups ≤ b.pool →
        R (.regacq p n) (withBank s (b.pool - k * T.ngroups) b.reqs) (pd { T with heldBlocks := T.heldBlocks + k, pool := T.pool + k } true) (answered s x))
    ∧ ((T.heldBlocks + k) * T.ngroups ≤ 768 → ((∃ q ∈ b.reqs, q.claim = false) ∨ b.pool < k * T.ngroups) →
        R (.regacq p n) (withBank s b.pool (b.reqs ++ [{ r := s.cur, claim := false, pd := p, n := k }])) T { x with st := .blocked, wait := .register })
    -- REGREL
    ∧ (T.pool < k → R (.regrel p n) s (pd T false) (answered s x))
    ∧ (k ≤ T.pool → R (.regrel p n) (withBank s (b.pool + k * T.ngroups) b.reqs)
        (pd { T with pool := T.pool - k, heldBlocks := T.heldBlocks - k } true) (answered s x))
    -- REGGIVE
    ∧ (x.cnt - x.wm < k → R (.reggive p n) s (pd T false) (answered s x))
    ∧ (k ≤ x.cnt - x.wm → R (.reggive p n) s (pd { T with pool := T.pool + k } true) (answered s { x with cnt := x.cnt - k }))
    -- REGCLAIM
    ∧ (11 < x.cnt + k → R (.regclaim p n) s (pd T false) (answered s x))
    ∧ (x.cnt + k ≤ 11 → ((∃ q ∈ b.reqs, q.claim = true ∧ q.r.team = s.cur.team) ∨ T.pool < k) →
        R (.regclaim p n) (withBank s b.pool (b.reqs ++ [{ r := s.cur, claim := true, pd := p, n := k }])) T { x with st := .blocked, wait := .register })
    ∧ (x.cnt + k ≤ 11 → (∀ q ∈ b.reqs, ¬ (q.claim = true ∧ q.r.team = s.cur.team)) → k ≤ T.pool → s.claimClear s.cur k = true → ∃ U : Team,
        R (.regclaim p n) s (pd { U with pool := T.pool - k } true) (answered s { x with cnt := x.cnt + k })
        ∧ (∀ r l, l < 1024 → U.vr r l = if l ∈ T.lanesOf (s.claimed s.cur) ∧ 32 + 8 * x.cnt ≤ r ∧ r < 32 + 8 * (x.cnt + k) then 0 else T.vr r l)
        ∧ (∀ r g, g < 64 → (g ∈ T.groupsOf (s.claimed s.cur) ∧ 32 + 8 * x.cnt ≤ r ∧ r < 32 + 8 * (x.cnt + k) → U.vtag r g = tRaw)
            ∧ (¬ (g ∈ T.groupsOf (s.claimed s.cur) ∧ 32 + 8 * x.cnt ≤ r ∧ r < 32 + 8 * (x.cnt + k)) → U.vtag r g = T.vtag r g))
        ∧ U = { T with vregs := U.vregs, vtags := U.vtags, accs := U.accs })

/-- O24. A later grant or denial of a waiting register request (04 R89 to R92): the oldest REGACQ of a core's active bank, the oldest REGCLAIM of one
of its teams, or, 64 cycles after condition D set in, a denial of the youngest. The request leaves the bank; its strand has its answer and goes on. -/
def Obligations.RegisterRequestAnswers : Prop :=
  ∀ (s : State) (q : RegReq) (core : Nat),
    let b := (s.core core).active
    -- the state in which the strand of q is the issuing one: the answer does not depend on which strand issues
    let s0 := { s with cur := q.r }
    let T := s0.mine
    let reqs := b.reqs.filter (fun o => o.r ≠ q.r)
    let pd (T : Team) (v : Bool) : Team := T.setPred q.pd s0.me.mask (if v then s0.me.mask else 0)
    Issues s0 → T.core = core →
    (∀ pre post, b.reqs = pre ++ q :: post → q.claim = false → (∀ o ∈ pre, o.claim = true) → q.n * T.ngroups ≤ b.pool →
      ∃ t : State, exec (.registerRequestGrant core none) s = .next { t with cur := s.cur }
        ∧ OwnResult (withBank s0 (b.pool - q.n * T.ngroups) reqs) t
            (pd { T with heldBlocks := T.heldBlocks + q.n, pool := T.pool + q.n } true) s0.myStream (answered s s0.me))
    ∧ (∀ pre post, b.reqs = pre ++ q :: post → q.claim = true → (∀ o ∈ pre, ¬ (o.claim = true ∧ o.r.team = q.r.team)) → q.n ≤ T.pool → s.claimClear q.r q.n = true →
      ∃ (t : State) (U : Team), exec (.registerRequestGrant core (some q.r.team)) s = .next { t with cur := s.cur }
        ∧ OwnResult (withBank s0 b.pool reqs) t (pd { U with pool := T.pool - q.n } true) s0.myStream (answered s { s0.me with cnt := s0.me.cnt + q.n })
        ∧ (∀ r l, l < 1024 → U.vr r l = if l ∈ T.lanesOf (s.claimed q.r) ∧ 32 + 8 * s0.me.cnt ≤ r ∧ r < 32 + 8 * (s0.me.cnt + q.n) then 0 else T.vr r l))
    ∧ (∀ pre c, b.reqs = pre ++ [q] → b.dSince = some c → c + 64 ≤ s.clock → s.condD b = true →
      ∃ t : State, exec (.quotaDenial core) s = .next { t with cur := s.cur } ∧ t.mine.pred q.pd = (pd T false).pred q.pd ∧ t.me = answered s s0.me
        ∧ (t.core core).active.reqs = reqs ∧ (t.core core).active.pool = b.pool ∧ (t.core core).active.dSince = none ∧ t.mem = s.mem)

/-- O25. QCFG, QSTAT and QDRN (08 R163 to R165, Table 8-2). QDRN drops the filled entries of the active lanes at once and marks the others. -/
def Obligations.QueueWords : Prop :=
  ∀ (s : State) (q : BitVec 3) (t : BitVec 4) (d : BitVec 6), Issues s →
    let T := s.mine
    let occ := (T.lanesOf s.me.mask).map (fun l => (T.queue q.toNat l).length)
    (t ≠ tRef → Gives (.qcfg q t) s (fun u => OwnResult s u { T with qtags := SMap.set tRaw T.qtags q.toNat t } s.myStream s.me.advance
      ∧ ∀ p, u.mine.qtag p = if p = q.toNat then t else T.qtag p))
    ∧ (t = tRef → s.untranslated s.cur = false →
        exec (.qcfg q t) s = .next (s.trapHere { cause := 0x15, detail := 0, code := 0, mask := s.me.mask, addr := 0 }))
    ∧ (∀ least most, ScalarsReady s [d] → least ∈ occ → (∀ n ∈ occ, least ≤ n) → most ∈ occ → (∀ n ∈ occ, n ≤ most) →
        Gives (.qstat d q) s (fun u => ScalarResult s u d (BitVec.ofNat 64 (least + most * 2 ^ 4 + (T.qtag q.toNat).toNat * 2 ^ 9
          + (if s.otherClosed then 2 ^ 16 else 0) + (occ.filter (fun n => n = 0)).length * 2 ^ 32 + (occ.filter (fun n => n = 8)).length * 2 ^ 48))
          false s.me.advance))
    ∧ Gives (.qdrn q) s (fun u => OwnResult s u { T with queues := u.mine.queues } s.myStream s.me.advance
        ∧ ∀ p l, p < 8 → u.mine.queue p l = if p = q.toNat ∧ Active s l then
            ((T.queue p l).filter (fun e => e.val.isNone)).map (fun e => { e with drop := true }) else T.queue p l)

/-- The issuing strand is the only one of its team: a C root with every live lane, no A-stream, and nothing outstanding. -/
structure Sys2Proof.Claims.Alone (s : State) : Prop where
  root : s.cur.sid = none ∧ s.cur.strm = .c
  live : s.mine.cs.lives = true ∧ s.mine.as.lives = false ∧ s.me.st = .running ∧ s.me.mask ≠ 0 ∧ s.mine.as.root.st = .free
  records : ∀ e ∈ (s.core s.mine.core).active.split, e.2.st = .free ∨ e.2.team ≠ s.cur.team
  stack : s.mine.ovf = []
  accs : s.mine.accs = []
  cluster : ∀ u ∈ s.mine.cluster, u = s.cur.team

/-- O26. Barriers (08 R166 to R168; 13 R265). A strand that owns no entry, or one whose deferred lanes have arrived, blocks at the barrier, and every barrier
of the team is looked at again; a strand whose entry has deferred lanes left runs those first. A strand alone in its team goes straight through. -/
def Obligations.BarrierWords : Prop :=
  ∀ (s : State), Issues s →
    let x := s.me
    let W (i : Instr) (n : Nat) (w : Wait) : Prop :=
      let u := s.onStrand s.cur (fun y => { y.advance with st := .blocked, wait := w })
      ((OwnsNone s ∨ ∃ pre e post, Owns s pre e post ∧ (e.running = true ∨ e.barr ≠ none)) →
        OwnResult s u s.mine s.myStream { x.advance with st := .blocked, wait := w }
        ∧ (u.mismatched s.cur.team s.cur.strm = false → exec i s = .next (u.reeval s.cur.team))
        ∧ (u.mismatched s.cur.team s.cur.strm = true → s.untranslated s.cur = false →
            exec i s = .next (s.trapHere { cause := 0x12, detail := 0, code := n, mask := x.mask, addr := 0 })))
      ∧ (∀ pre e post, Owns s pre e post → e.running = false → e.barr = none → ∃ v,
          OwnResult s v { s.mine with ovf := pre ++ { e with pc := x.advance.pc, dmask := x.mask, barr := some n } :: post } s.myStream
            { x.goto e.pc with mask := e.dmask }
          ∧ (v.mismatched s.cur.team s.cur.strm = false → exec i s = .next (v.reeval s.cur.team)))
    (∀ n : BitVec 4, W (.tbar n) n.toNat (.tbar n.toNat) ∧ (Alone s → Gives (.tbar n) s (fun t => OwnResult s t s.mine s.myStream (answered s x))))
    ∧ W .cbar 16 .cbar ∧ (Alone s → Gives .cbar s (fun t => OwnResult (s.dropL1 s.mine.core) t s.mine s.myStream (answered s x)))

/-! Accesses at issue, and what they wait for. -/

/-- No comparator of the issuing strand's core is enabled, nor was one in a setting that may still hold (11 R227, R230). -/
def Sys2Proof.Claims.Unwatched (s : State) : Prop :=
  ∀ i, i < 8 → let c := SMap.get Comparator.reset (s.core s.mine.core).cmps i
    c.regs.ctl.getLsbD 0 = false ∧ ∀ p ∈ c.olds, p.1.ctl.getLsbD 0 = false

/-- In the group of every active lane the vector fields carry tags that pass. -/
def Sys2Proof.Claims.FieldTags (s : State) (fs : List Nat) (ok : BitVec 4 → Prop) : Prop :=
  ∀ f ∈ fs, ∀ l, Active s l → ok (s.mine.fieldTag s.me.mask f (l / s.mine.gw))

/-- One lane of an access as it issues: its address and operands, and where its bytes lie: in a window, or in memory, to be translated. -/
def Sys2Proof.Claims.laneOf (s : State) (pops : List Nat) (place : Option (Nat × Nat)) (l : Nat) (e : W64) (data cmp : W64) : LaneAcc :=
  { lane := l, e := e, data := data, cmp := cmp, res := 0, tag := false
    at_ := match place with | some p => .window p.1 p.2 | none => .global
    st := match place with | some p => .ready p.2 | none => .toTranslate
    pops := (portsOf pops).map (fun q => (q, (s.mine.queue q l).headD { val := none, tag := tRaw, op := 0, drop := false })) }

/-- An access is issued: the queues that its word names are popped in active lanes, a pushed queue has its entries reserved, the access is the
youngest of its team's, its window opens, and the strand advances. -/
def Sys2Proof.Claims.Issued (s : State) (la : BitVec 4) (pops : List Nat) (op : AccessOp) (t : State) : Prop :=
  let id := s.lastOp + 1
  let T := s.mine.popAll pops s.me.mask
  let U := match op.dest with | .queue q => T.reserve q s.me.mask id | _ => T
  OwnResult { s with lastOp := id } t
    { U with accs := s.mine.accs ++ [{ op with id := id, strm := s.cur.strm, sid := s.cur.sid, pc := s.me.pc, mask := s.me.mask, la := la.toNat }] } s.myStream
    { s.me.advance with windows := (id, la.toNat) :: s.me.advance.windows.filter (fun w => w.1 ≠ id) }

/-- The data registers of a word: from v, as many as the value takes; a queue port stands alone. -/
def Sys2Proof.Claims.dataRegs (v n : Nat) : List Nat := if 120 ≤ v then [v] else (List.range n).map (fun i => v + i)
/-- A value of one or two registers. -/
def Sys2Proof.Claims.dataVal (s : State) (size v l : Nat) : W64 :=
  if size = 8 then s.mine.vr (v + 1) l ++ s.mine.vr v l else (s.mine.field v l).setWidth 64
/-- Registers of a value. -/
def Sys2Proof.Claims.regsOf (size : Nat) : Nat := if size = 8 then 2 else 1

/-- An access word as its table has it: what it does, its data field and size, its offset field, the policy, where it finds its lanes' bytes,
whether full groups coalesce and equal addresses are read once, and whether it is a scratchpad or cluster word. -/
structure Sys2Proof.Claims.Form where
  kind : AccKind
  v    : Nat
  size : Nat
  offs : List Nat
  pol  : W32
  addr : Nat → W64
  place : W64 → Option (Nat × Nat)
  coal : Bool
  once : Bool
  spad : Bool

/-- What a load, a store, an atomic or a compare and swap issues, from its form. -/
def Sys2Proof.Claims.Accesses (i : Instr) (s : State) (la : BitVec 4) (f : Claims.Form) : Prop :=
  let n := Claims.regsOf f.size
  let pops := f.offs ++ (match f.kind with | .load => [] | .cas => Claims.dataRegs f.v (2 * n) | _ => Claims.dataRegs f.v n)
  let dest : Dest := match f.kind with
    | .store => .nowhere
    | .load => if 120 ≤ f.v then .queue (f.v - 120) else .regs f.v n (some 15)
    | _ => .regs f.v n none
  let data (l : Nat) : W64 := match f.kind with
    | .load => 0 | .cas => Claims.dataVal s f.size (f.v + n) l | _ => Claims.dataVal s f.size f.v l
  let cmp (l : Nat) : W64 := match f.kind with | .cas => Claims.dataVal s f.size f.v l | _ => 0
  Gives i s (Claims.Issued s la pops
    { id := 0, strm := .c, sid := none, pc := 0, mask := 0, kind := f.kind, size := f.size, ord := (f.pol >>> 8).toNat % 16
      scope := (f.pol >>> 12).toNat % 16, policy := f.pol, dest := dest, coal := f.coal, once := f.once, one := false, parked := false
      lanes := (s.mine.lanesOf s.me.mask).map (fun l => Claims.laneOf s pops (f.place (f.addr l)) l (f.addr l) (data l) (cmp l)), spad := f.spad })

/-- What every access word needs of its operands: the fields of its form ready, its offset field I32, no comparator, no second execution. -/
def Sys2Proof.Claims.AccessReady (s : State) (f : Claims.Form) (dtags : BitVec 4 → Prop) : Prop :=
  let n := Claims.regsOf f.size
  let regs := match f.kind with | .cas => Claims.dataRegs f.v (2 * n) | _ => Claims.dataRegs f.v n
  let srcs := f.offs ++ (match f.kind with | .load => [] | _ => regs)
  Issues s ∧ s.me.replay = none ∧ Claims.Unwatched s ∧ VecReady s srcs (match f.kind with | .store => [] | _ => regs)
  ∧ Claims.FieldTags s f.offs (fun t => t = 0) ∧ (f.kind ≠ .load → Claims.FieldTags s regs dtags)
  ∧ ∀ l, Active s l → (f.addr l).toNat % f.size = 0

/-- O27. The scratchpad and cluster words at issue (08 R172 to R175; 13 R266), and where an address lies (08 Table 8-3). -/
def Obligations.ScratchpadAccesses : Prop :=
  ∀ (s : State) (la : BitVec 4) (v i : BitVec 7) (k : BitVec 4) (z h g : BitVec 2) (i5 : BitVec 5),
    let base := s.sreg (2 * k.setWidth 6)
    let pol := (s.sreg (2 * k.setWidth 6 + 1)).setWidth 32
    let own (n : Nat) (e : W64) := s.ownPlace s.cur.team e n
    let any (n : Nat) (e : W64) := s.clusterPlace s.cur.team e n
    let form (kind : AccKind) (n off : Nat) (place : Nat → W64 → Option (Nat × Nat)) : Claims.Form :=
      { kind := kind, v := v.toNat, size := n, offs := [off], pol := 0, addr := fun l => base + (s.mine.field off l).signExtend 64
        place := place n, coal := false, once := false, spad := true }
    let does (ins : Instr) (f : Claims.Form) (dtags : BitVec 4 → Prop) : Prop :=
      ScalarsReady s [2 * k.setWidth 6, 2 * k.setWidth 6 + 1] → Claims.AccessReady s f dtags → pol &&& 0xFFF = 0 →
      (∀ l, Active s l → (f.place (f.addr l)).isSome = true) → Claims.Accesses ins s la f
    does (.lds la v i k z) (form .load (2 ^ z.toNat) i.toNat own) (fun _ => True)
    ∧ does (.sts la v i k z) (form .store (2 ^ z.toNat) i.toNat own) (fun t => t ≠ 14)
    ∧ does (.atoms la v h i5 k g) (form (.atomic (h ++ g).toNat) 4 i5.toNat own) (fun t => atomTagOk (h ++ g).toNat t = true)
    ∧ does (.cass la v i k z) (form .cas (2 ^ z.toNat) i.toNat own) (fun t => t ≠ 14)
    ∧ does (.ldsc la v i k z) (form .load (2 ^ z.toNat) i.toNat any) (fun _ => True)
    ∧ does (.stsc la v i k z) (form .store (2 ^ z.toNat) i.toNat any) (fun t => t ≠ 14)
    ∧ ∀ (e : W64) (n : Nat), s.mine.live = true → s.mine.retiring = false →
        (e >>> 40 ≠ 0xFFFFFE → own n e = if e.toNat + n ≤ s.mine.w then some (s.cur.team, e.toNat) else none)
        ∧ ∀ (r off : Nat), r ≤ 15 → off < 2 ^ 23 → off + n ≤ s.mine.w → (r = 15 ∨ r = s.mine.crank) →
            own n (BitVec.ofNat 64 (0xFFFFFE * 2 ^ 40 + r * 2 ^ 32 + off)) = some (s.cur.team, off)
            ∧ any n (BitVec.ofNat 64 (r * 2 ^ 32 + off)) = some (s.cur.team, off)

/-- O28. The global words at issue (09 R182, R185 to R189; 18 R323). -/
def Obligations.GlobalAccesses : Prop :=
  ∀ (s : State) (la : BitVec 4) (v i : BitVec 7) (k : BitVec 4) (z h g : BitVec 2) (i5 : BitVec 5),
    let base := s.sreg (2 * k.setWidth 6)
    let pol := (s.sreg (2 * k.setWidth 6 + 1)).setWidth 32
    let place (n : Nat) (e : W64) := s.aperturePlace s.cur.team e n
    let gather (kind : AccKind) (n off : Nat) : Claims.Form :=
      { kind := kind, v := v.toNat, size := n, offs := [off], pol := pol, addr := fun l => base + (s.mine.field off l).signExtend 64
        place := place n, coal := false, once := (match kind with | .atomic _ => false | _ => true), spad := false }
    let addr (l : Nat) : W64 := base + BitVec.ofNat 64 (l * 2 ^ z.toNat * i.toNat)
    let strided (kind : AccKind) : Claims.Form :=
      { kind := kind, v := v.toNat, size := 2 ^ z.toNat, offs := [], pol := pol, addr := addr, place := place (2 ^ z.toNat)
        coal := !s.mine.lw && decide (i = 1) && decide (2 ≤ z.toNat) && decide (base.toNat % 128 = 0)
                && (s.mine.lanesOf s.me.mask).all (fun l => !aperture (addr l))
        once := true, spad := false }
    let does (ins : Instr) (f : Claims.Form) (ords : List Nat) (dtags : BitVec 4 → Prop) : Prop :=
      let ord := (pol >>> 8).toNat % 16
      ScalarsReady s [2 * k.setWidth 6, 2 * k.setWidth 6 + 1] → Claims.AccessReady s f dtags →
      pol &&& 0xFF = 0 → (pol >>> 12).toNat % 16 ≤ 5 → ord ∈ ords →
      (∀ l, Active s l → if aperture (f.addr l) = true then ord = 0 ∧ (f.place (f.addr l)).isSome = true else canonical (f.addr l) = true) →
      Claims.Accesses ins s la f
    let wide (fn : Nat) : Nat := if 10 ≤ fn then 8 else 4
    does (.ld la v i k z) (strided .load) [0, 1, 4] (fun _ => True)
    ∧ does (.st la v i k z) (strided .store) [0, 2, 4] (fun t => t ≠ 14)
    ∧ does (.ldg la v i k z) (gather .load (2 ^ z.toNat) i.toNat) [0, 1, 4] (fun _ => True)
    ∧ does (.stg la v i k z) (gather .store (2 ^ z.toNat) i.toNat) [0, 2, 4] (fun t => t ≠ 14)
    ∧ does (.atom la v h i5 k g) (gather (.atomic (h ++ g).toNat) (wide (h ++ g).toNat) i5.toNat) [0, 1, 2, 3, 4]
        (fun t => t ≠ 14 ∧ atomTagOk (h ++ g).toNat t = true)
    ∧ does (.cas la v i k z) (gather .cas (2 ^ z.toNat) i.toNat) [0, 1, 2, 3, 4] (fun t => t ≠ 14)

/-- O29. The frame words (20 R368 to R370): LDL, STL and ATOML at issue, and LEAL, which leaves the address in a register pair. -/
def Obligations.FrameAccesses : Prop :=
  ∀ (s : State) (la : BitVec 4) (v i : BitVec 7) (e : BitVec 3) (z h g : BitVec 2) (i5 : BitVec 5),
    let at_ (off l : Nat) : W64 := SMap.get 0 s.mine.displays e.toNat + 64 + (s.mine.field off l).setWidth 64
    let form (kind : AccKind) (n off pol : Nat) : Claims.Form :=
      { kind := kind, v := v.toNat, size := n, offs := [off], pol := BitVec.ofNat 32 pol, addr := at_ off, place := fun _ => none, coal := false
        once := (match kind with | .atomic _ => false | _ => true), spad := false }
    let does (ins : Instr) (f : Claims.Form) (off : Nat) (dtags : BitVec 4 → Prop) : Prop :=
      Claims.AccessReady s { f with addr := fun l => (s.mine.field off l).setWidth 64 } dtags → e.toNat ≤ s.mine.level →
      (∀ l, Active s l → (s.mine.field off l).toNat + f.size ≤ SMap.get 0 s.mine.frameSizes e.toNat) → Claims.Accesses ins s la f
    does (.ldl la v i e z) (form .load (2 ^ z.toNat) i.toNat 0) i.toNat (fun _ => True)
    ∧ does (.stl la v i e z) (form .store (2 ^ z.toNat) i.toNat 0) i.toNat (fun t => t ≠ 14)
    ∧ does (.atoml la v h i5 e g) (form (.atomic (h ++ g).toNat) 4 i5.toNat 0x4000) i5.toNat (fun t => atomTagOk (h ++ g).toNat t = true)
    ∧ (Issues s → VecReady s [i.toNat] [v.toNat, v.toNat + 1] → Claims.FieldTags s [i.toNat] (fun t => t = 0) → e.toNat ≤ s.mine.level →
        i.toNat < 120 → v.toNat + 1 < 120 →
        Gives (.leal la v i e) s (fun t =>
          (∀ l, Active s l → t.mine.vr (v.toNat + 1) l ++ t.mine.vr v.toNat l = at_ i.toNat l)
          ∧ (∀ r l, l < 1024 → (r ≠ v.toNat ∧ r ≠ v.toNat + 1) ∨ ¬ Active s l → t.mine.vr r l = s.mine.vr r l)
          ∧ (∀ g, ActiveGroup s g → t.mine.vtag v.toNat g = 15 ∧ t.mine.vtag (v.toNat + 1) g = 15)
          ∧ OwnResult s t { s.mine with vregs := t.mine.vregs, vtags := t.mine.vtags, accs := t.mine.accs } s.myStream s.me.advance))

/-- O30. The reference words at issue (19 R350, R352, R353): a pair in every active lane, or one access for the strand, and the escape check
of a store (19 R349). -/
def Obligations.ReferenceAccesses : Prop :=
  ∀ (s : State) (la : BitVec 4) (v i : BitVec 7) (d : BitVec 6) (k : BitVec 4),
    let base := s.sreg (2 * k.setWidth 6)
    let pol := (s.sreg (2 * k.setWidth 6 + 1)).setWidth 32
    let ord := (pol >>> 8).toNat % 16
    let T := s.mine
    let place (e : W64) := s.aperturePlace s.cur.team e 8
    let addr (l : Nat) : W64 := base + (T.field i.toNat l).signExtend 64
    let pair (l : Nat) : W64 := T.vr (v.toNat + 1) l ++ T.vr v.toNat l
    let one : W64 := base + BitVec.ofNat 64 (8 * i.toNat)
    let passes (e : W64) : Prop := e.toNat % 8 = 0 ∧ if aperture e = true then ord = 0 ∧ (place e).isSome = true else canonical e = true
    let stays (e x : W64) : Prop := T.privateLine x = true → T.ownWindow e = true ∨ (aperture e = false ∧ T.privateLine e = true)
    let ready (sc : List (BitVec 6)) (ords : List Nat) : Prop := Issues s ∧ s.me.replay = none ∧ Claims.Unwatched s
      ∧ ScalarsReady s ([2 * k.setWidth 6, 2 * k.setWidth 6 + 1] ++ sc) ∧ pol &&& 0xFF = 0 ∧ (pol >>> 12).toNat % 16 ≤ 5 ∧ ord ∈ ords
    let op (kind : AccKind) (dest : Dest) (single : Bool) (lanes : List LaneAcc) : AccessOp :=
      { id := 0, strm := .c, sid := none, pc := 0, mask := 0, kind := kind, size := 8, ord := ord, scope := (pol >>> 12).toNat % 16
        policy := pol, dest := dest, coal := false, once := true, one := single, parked := false, lanes := lanes }
    let each (pops : List Nat) (data : Nat → W64) : List LaneAcc :=
      (T.lanesOf s.me.mask).map (fun l => Claims.laneOf s pops (place (addr l)) l (addr l) (data l) 0)
    let alone (data : W64) : List LaneAcc := [Claims.laneOf s [] (place one) (T.lowest s.me.mask) one data 0]
    (ready [] [0, 1, 4] → VecReady s [i.toNat] [v.toNat, v.toNat + 1] → Claims.FieldTags s [i.toNat] (fun t => t = 0) →
      (∀ l, Active s l → passes (addr l)) →
      Gives (.ldref la v i k) s (Claims.Issued s la [i.toNat] (op .loadRef
        (.refPair v.toNat ((T.groupsOf s.me.mask).filter (fun g => decide (T.vtag v.toNat g = 14) && decide (T.vtag (v.toNat + 1) g = 14)))) false
        (each [i.toNat] (fun _ => 0)))))
    ∧ (ready [] [0, 2, 4] → VecReady s [i.toNat, v.toNat, v.toNat + 1] [] → Claims.FieldTags s [i.toNat] (fun t => t = 0) →
        Claims.FieldTags s [v.toNat, v.toNat + 1] (fun t => t = 14) → (∀ l, Active s l → passes (addr l) ∧ stays (addr l) (pair l)) →
        Gives (.stref la v i k) s (Claims.Issued s la [i.toNat, v.toNat, v.toNat + 1] (op .storeRef .nowhere false
          (each [i.toNat, v.toNat, v.toNat + 1] pair))))
    ∧ (ready [d] [0, 1, 4] → passes one →
        Gives (.ldrefS la d i k) s (Claims.Issued s la [] (op .loadRef (.scalar d.toNat) true (alone 0))))
    ∧ (ready [d] [0, 2, 4] → passes one → stays one (s.sreg d) → s.myStream.sref d = true →
        Gives (.strefS la d i k) s (Claims.Issued s la [] (op .storeRef .nowhere true (alone (s.sreg d)))))

/-- O31. Words that wait for accesses, or for nothing (08 R177; 09 R190, R192, R193; 18 R321). A word whose accesses are not done blocks in place. -/
def Obligations.WaitingWords : Prop :=
  ∀ (s : State), Issues s →
    let blocked (w : Wait) (t : State) : Prop := StrandResult s t { s.me with st := .blocked, wait := w }
    let passed (t : State) : Prop := StrandResult s t s.me.advance
    let older (n : Nat) := s.mine.accs.filter (fun a => decide (a.id < n))
    (∀ n, (match s.me.wait with | .drain m => m | _ => s.lastOp + 1) = n →
      ((∀ a ∈ older n, a.atBanks = true → ∀ l ∈ a.lanes, l.st = .done) → Gives .waits s passed)
      ∧ ((∃ a ∈ older n, a.atBanks = true ∧ ∃ l ∈ a.lanes, l.st ≠ .done) → Gives .waits s (blocked (.drain n))))
    ∧ (∀ n (f : BitVec 4), (match s.me.wait with | .fence m => m | _ => s.lastOp + 1) = n →
        ((∀ a ∈ older n, a.strm = s.cur.strm → a.performed = true) →
          Gives (.fence f) s (fun t => if 2 ≤ f.toNat then OwnResult (s.dropL1 s.mine.core) t s.mine s.myStream s.me.advance else passed t))
        ∧ ((∃ a ∈ older n, a.strm = s.cur.strm ∧ a.performed = false) → Gives (.fence f) s (blocked (.fence n))))
    ∧ (∀ (k : BitVec 3) (n : BitVec 6),
        let pending : Prop := ∃ e ∈ s.mine.engs, e.strm = s.cur.strm ∧ e.cls = k.toNat ∧ e.stage = .issued
        (¬ pending → SMap.get 0 s.myStream.counters k.toNat ≤ n.toNat →
          Gives (.waitc k n) s (fun t => OwnResult (s.dropL1 s.mine.core) t s.mine s.myStream s.me.advance))
        ∧ (pending ∨ n.toNat < SMap.get 0 s.myStream.counters k.toNat → Gives (.waitc k n) s (blocked .again)))
    ∧ ∀ (la : BitVec 4) (d a : BitVec 6) (f : BitVec 8), ScalarsReady s [d, a] →
        Gives (.xprb la d a f) s (fun t => ScalarResult s t d (s.probed s.cur.team f.toNat (s.sreg a)) false s.me.advance)

/-- A linear line of the L2 that holds the sector of a physical address, with a class (17 R289; 09 R183). -/
def Sys2Proof.Claims.Cached (u : State) (pa cls : Nat) : Prop :=
  ∃ x ∈ u.l2, x.tile = none ∧ x.line = pa / 256 ∧ (if pa / 128 % 2 = 1 then x.sec1 else x.sec0) = true ∧ x.cls = cls

/-- O32. PREF (09 R183, R190). It writes nothing and always goes on to the next word. A lane whose address is no canonical address of memory, or
does not translate, is dropped. The line of a lane that translates is in the L2 afterwards, and with v = 1 in the core's L1D too, with the class of
R183; with v = 0 no L1D changes. -/
def Obligations.Prefetches : Prop :=
  ∀ (s : State) (la : BitVec 4) (v i : BitVec 7) (k : BitVec 4),
    let pol := (s.sreg (2 * k.setWidth 6 + 1)).setWidth 32
    let addr (l : Nat) : W64 := s.sreg (2 * k.setWidth 6) + (s.mine.field i.toNat l).signExtend 64
    let inMemory (l : Nat) : Prop := aperture (addr l) = false ∧ canonical (addr l) = true
    Issues s → ScalarsReady s [2 * k.setWidth 6, 2 * k.setWidth 6 + 1] → VecReady s [i.toNat] [] → Claims.FieldTags s [i.toNat] (fun t => t = 0) →
    pol &&& 0xFFF = 0 → (pol >>> 12).toNat % 16 ≤ 5 →
    Gives (.pref la v i k) s (fun t => t.me = s.me.advance ∧ TeamKept s t ∧ StreamKept s t ∧ (∀ u, u ≠ s.cur.team → t.team u = s.team u))
    ∧ ((∀ l, Active s l → inMemory l → ∃ d, s.resolve s.cur.team (addr l) { r := true, w := false } = .fail d) →
        Gives (.pref la v i k) s (fun t => StrandResult s t s.me.advance))
    ∧ ∀ l pa s1, s.mine.lanesOf s.me.mask = [l] → inMemory l → s.resolve s.cur.team (addr l) { r := true, w := false } = .ok pa s1 →
        s.openWays (homeLinear pa) ≠ [] →
        Gives (.pref la v i k) s (fun t => t.me = s.me.advance ∧ t.mem = s1.mem ∧ Claims.Cached t pa (evictionClass pol (addr l))
          ∧ (v = 1 → ∃ x, (t.core s.mine.core).l1 (pa / 128) = some x ∧ x.cls = evictionClass pol (addr l))
          ∧ (v ≠ 1 → ∀ c, (t.core c).l1d = (s.core c).l1d))

/-! The Catalogue and the engine words at issue. -/

/-- O33. The Catalogue words (09 R197, R200, R201). An image that is sound becomes the number's entry and leaves every core's cache; CATFREE
clears V; CATGET reads a word, number 0 being linear memory; CATLD touches the core's Catalogue cache alone. -/
def Obligations.CatalogueWords : Prop :=
  ∀ (s : State) (la : BitVec 4) (d a : BitVec 6), Issues s →
    let c := s.mine.ctx
    let word (e : BitVec 512) (w : Nat) : W64 := (e >>> (64 * w)).setWidth 64
    let changed (s1 t : State) (num : Nat) (e : BitVec 512) : Prop :=
      (∀ k x, k < 4096 → t.entry x k = if x = c ∧ k = num then e else s1.entry x k)
      ∧ (∀ i, SMap.has (t.core i).cat (4096 * c + num) = false) ∧ t.mem = s1.mem
    (∀ (w : BitVec 3) (num : Nat), ScalarsReady s [d, a] → s.sreg a = BitVec.ofNat 64 num → num < 4096 →
      Gives (.catget la d a w) s (fun t => ScalarResult s t d
        (if num = 0 then (if w = 7 then 0x8000000000000111 else 0) else word (SMap.get 0 (s.ctx c).cat num) w.toNat) false s.me.advance))
    ∧ (∀ (num : Nat) (p : Spot) (s1 : State), ScalarsReady s [d, a] → s.sreg d = BitVec.ofNat 64 num → num < 4096 → num ≠ 0 →
        checkRun s (s.sreg a) 64 64 = .ok () → spotHere s (s.sreg a) 64 { r := true, w := false } = .ok (p, s1) →
        let img : BitVec 512 := BitVec.ofNat 512 (natOfBytes (s1.getSpot p 64))
        Entry.sound img = true → Gives (.catset la d a) s (fun t => t = (s1.setEntry c num img).advance ∧ changed s1 t num img))
    ∧ (∀ num : Nat, ScalarsReady s [a] → s.sreg a = BitVec.ofNat 64 num → num < 4096 → num ≠ 0 →
        Gives (.catfree la a) s (fun t => changed s t num ((SMap.get 0 (s.ctx c).cat num).setWidth 511 |>.setWidth 512)))
    ∧ (∀ (n : BitVec 8) (num : Nat), ScalarsReady s [a] → s.sreg a = BitVec.ofNat 64 num → num < 4096 →
        Gives (.catld la a n) s (fun t => (∀ i, i ≤ n.toNat → SMap.has (t.core s.mine.core).cat (4096 * c + (num + i) % 4096) = true)
          ∧ ∃ cat, OwnResult (s.onCore s.mine.core (fun k => { k with cat := cat })) t s.mine s.myStream s.me.advance))

/-- An engine word is issued: its operation is the youngest of the team's and waits for its unit, its window opens, the strand advances. -/
def Sys2Proof.Claims.Posted (s : State) (T : Team) (la : BitVec 4) (cls : Nat) (k : EngKind) (t : State) : Prop :=
  let id := s.lastOp + 1
  OwnResult { s with lastOp := id } t
    { T with engs := s.mine.engs ++ [{ id := id, strm := s.cur.strm, sid := s.cur.sid, pc := s.me.pc, mask := s.me.mask, cls := cls
                                       kind := k, stage := .issued, since := 0, cats := [], fault := none, buffer := none }] } s.myStream
    { s.me.advance with windows := (id, la.toNat) :: s.me.advance.windows }

/-- A run of bytes that keeps checks 5 to 7 (09 R186, R429). -/
def Sys2Proof.Claims.RunOk (s : State) (e : W64) (n align : Nat) : Prop :=
  e.toNat % align = 0 ∧ (n = 0 ∨ (aperture e = true ∧ ∃ u off, s.aperturePlace s.cur.team e 1 = some (u, off) ∧ off + n ≤ (s.team u).w)
    ∨ (aperture e = false ∧ canonical e = true ∧ (2 ^ 47 ≤ e.toNat ∨ e.toNat + n ≤ 2 ^ 47)))

/-- O34. The words of the copy engine and of publication, issued (17 R296 to R299; 19 R356). -/
def Obligations.CopyAndPublishWords : Prop :=
  ∀ (s : State) (la : BitVec 4) (d a : BitVec 6), Issues s →
    let r (i : Nat) : W64 := s.sreg (a + BitVec.ofNat 6 i)
    let pol := (s.sreg d).setWidth 32
    let ready (n : Nat) : Prop := ScalarsReady s ((List.range n).map (fun i => a + BitVec.ofNat 6 i))
    let polOk : Prop := ScalarsReady s [d] ∧ pol &&& 0xFFF = 0 ∧ (pol >>> 12).toNat % 16 ≤ 5
    let n := (r 2).toNat % 2 ^ 40
    (ready 3 → polOk → Claims.RunOk s (r 0) n 1 → Claims.RunOk s (r 1) n 1 →
      Gives (.cpy la d a) s (Claims.Posted s s.mine la 0 (.cpy (r 0) (r 1) n pol)))
    ∧ (ready 5 → polOk → Gives (.cpyt la d a) s (Claims.Posted s s.mine la 0 (.cpyt (r 0) (r 1) (r 2) (r 3) (r 4) pol)))
    ∧ (ready 3 → polOk → Gives (.tpref la d a) s (Claims.Posted s s.mine la 0 (.tpref (r 0) (r 1) (r 2) pol)))
    ∧ (ready 3 → Gives (.tflush la a) s (Claims.Posted s s.mine la 0 (.tflush (r 0) (r 1) (r 2))))
    ∧ (ready 2 → s.myStream.sref a = true → (r 1).toNat % 8 = 0 → (r 1 = 0 ∨ (canonical (r 1) = true ∧ aperture (r 1) = false)) →
        Gives (.publish la a) s (Claims.Posted s s.mine la 3 (.publish (r 0) (r 1))))

/-- O35. The fabric words, issued (24 R408 to R415, Table 24-2). -/
def Obligations.FabricWords : Prop :=
  ∀ (s : State) (la : BitVec 4) (a : BitVec 6), Issues s →
    let r (i : Nat) : W64 := s.sreg (a + BitVec.ofNat 6 i)
    let ready (n : Nat) : Prop := ScalarsReady s ((List.range n).map (fun i => a + BitVec.ofNat 6 i))
    let op := (r 2).toNat / 2 ^ 60
    let len := (r 2).toNat % 2 ^ 40
    let remote (align : Nat) : Prop := (r 2).toNat / 2 ^ 54 % 64 = 0 ∧ canonical (r 0) = true ∧ aperture (r 0) = false ∧ (r 0).toNat % align = 0
    let posts (ins : Instr) (k : EngKind) : Prop := Gives ins s (Claims.Posted s s.mine la 4 k)
    let size := if 5 ≤ op then 4 else 8
    (ready 3 → remote 1 → op = 0 → Claims.RunOk s (r 1) len 1 →
      posts (.fput la a) (.fabric 0 (r 0) (r 1) (r 2) 0 0) ∧ posts (.fget la a) (.fabric 1 (r 0) (r 1) (r 2) 0 0))
    ∧ (ready 5 → remote size → op ≤ 6 → len = 0 → (r 1 = 0 ∨ Claims.RunOk s (r 1) size size) →
        posts (.fatom la a) (.fabric 2 (r 0) (r 1) (r 2) (r 3) (r 4)))
    ∧ (ready 4 → remote 64 → op = 0 → len = 0 → Claims.RunOk s (r 1) 64 64 → posts (.renq la a) (.fabric 3 (r 0) (r 1) (r 2) (r 3) 0))
    ∧ (ready 1 → Claims.RunOk s (r 0) 64 64 → posts (.coll la a) (.fabric 4 (r 0) 0 0 0 0))
    ∧ (ready 3 → remote 8 → op ≤ 1 → len = 0 → posts (.fsig la a) (.fabric 5 (r 0) (r 1) (r 2) 0 0))

/-- The issuing state with its quad changed. -/
def Sys2Proof.Claims.withQuad (s : State) (f : Quad → Quad) : State := s.onQuad (quadOf s.mine.core) f

/-- O36. The Ephemeris words (14 R269, R278 to R281). EPCTX.ACQ takes contexts of the quad or answers 0, the ACQs of one cycle in the order of
core number and team slot; the others post their operation. -/
def Obligations.EphemerisWords : Prop :=
  ∀ (s : State) (la : BitVec 4) (d a : BitVec 6) (x : BitVec 2) (v : BitVec 1), Issues s →
    let T := s.mine
    let q := quadOf T.core
    let m := (s.sreg a).toNat / 2 ^ 32 % 256 + 1
    (ScalarsReady s [d, a] →
      let n := (s.sreg a).toNat
      let rank := 64 * T.core + T.slot
      let inTurn : Prop := ∀ p, (s.quad q).acqAt = some p → p.1 ≠ s.clock ∨ p.2 ≤ rank
      let b := Claims.withQuad s (fun Q => { Q with acqAt := some (s.clock, rank) })
      (¬ inTurn → exec (.epctxAcq la d a) s = .next s)
      ∧ (inTurn → (∃ g ∈ T.gcs, g.rel = false) ∨ n < 1 ∨ 4 < n ∨ (s.quad q).contexts < n →
          Gives (.epctxAcq la d a) s (fun t => ScalarResult b t d 0 false s.me.advance))
      ∧ (inTurn → (∀ g ∈ T.gcs, g.rel = true) → 1 ≤ n → n ≤ 4 → n ≤ (s.quad q).contexts →
          Gives (.epctxAcq la d a) s (fun t => t.sreg d = BitVec.ofNat 64 n ∧ t.myStream.sref d = false
            ∧ (t.quad q).contexts = (s.quad q).contexts - n ∧ t.me = s.me.advance
            ∧ ∃ l : List GenCtx, t.mine.gcs = T.gcs ++ l ∧ l.map (fun g => g.no) = List.range n
                ∧ ∀ g ∈ l, g.st = 0 ∧ g.err = 0 ∧ g.nw = 0 ∧ g.inv = false ∧ g.hdr = 0 ∧ g.rel = false ∧ g.words = [])))
    ∧ ((∀ e ∈ T.engs, ∀ k tile g tag va p nm co c h, e.kind = .mma true k tile g tag va p nm co c h → e.stage ≠ .issued) →
        exec (.epctxRel la) s = .next (((s.onMine (fun T => { T with gcs := T.gcs.map (fun g => { g with rel := true }) })).freeReleased s.cur.team).advance))
    ∧ (ScalarsReady s [d] → Gives (.epstat la d v x) s (Claims.Posted s T la 5 (.epstat ((T.gc? x.toNat).map (fun g => g.uid)) (decide (v = 1)) d.toNat)))
    ∧ (∀ (g : GenCtx), T.gc? x.toNat = some g →
        (ScalarsReady s [d, a] → (s.sreg d).toNat % 4 = 0 → ∀ off, s.ownPlace s.cur.team (s.sreg d) (4 * (m + 1) + 1024 * m) = some (s.cur.team, off) →
          Gives (.epgen la d a x) s (Claims.Posted s T la 2 (.epgen false g.uid off (s.sreg a)))
          ∧ Gives (.epinv la d a x) s (Claims.Posted s T la 2 (.epgen true g.uid off (s.sreg a))))
        ∧ (ScalarsReady s [a] → ∀ (p : Spot) (s1 s2 : State) (ws : List W32), Claims.RunOk s (s.sreg a) 8 8 →
            spotHere s (s.sreg a) 8 { r := true, w := false } = .ok (p, s1) →
            let h : W64 := BitVec.ofNat 64 (natOfBytes (s1.getSpot p 8))
            readPattern h (s.sreg a) 33 [] s1 = .ok (ws, s2) →
            exec (.epld la a x) s = .next (s2.post la 2 (.epld g.uid h ws))))

/-! The matrix engine. -/

/-- O37. MRSV and MREL (13 R242 to R244): granted with tiles of kind F32 that hold 0, denied, or waiting; and freed when nothing of the engine is
posted. -/
def Obligations.MatrixReservations : Prop :=
  ∀ (s : State) (p : BitVec 3) (n : BitVec 7), Issues s →
    let T := s.mine
    let x := s.me
    let Q := s.quad (quadOf T.core)
    let R (i : Instr) (b : State) (U : Team) (y : Strand) : Prop := Gives i s (fun t => OwnResult b t U s.myStream y)
    let pd (U : Team) (v : Bool) : Team := U.setPred p x.mask (if v then x.mask else 0)
    let clear : Prop := ∀ w ∈ Q.waits, (s.team w.r.team).held ≠ .active
    let fits : Prop := 1 ≤ Q.entries ∧ n.toNat ≤ Q.tiles
    let posted : Prop := ∃ e ∈ T.engs, e.matrix = true ∧ ¬ (e.half = true ∧ e.stage = .done)
    (PredsReady s [p] →
      (T.resv ≠ none → R (.mrsv p n) s (pd T false) (Claims.answered s x))
      ∧ (T.resv = none → clear → fits →
          R (.mrsv p n) (Claims.withQuad s (fun Q => { Q with tiles := Q.tiles - n.toNat, entries := Q.entries - 1 }))
            (pd { T with resv := some { n := n.toNat, kinds := [], latch := none, urgent := false, headAt := s.clock }, acc := [] } true) (Claims.answered s x))
      ∧ (T.resv = none → ¬ (clear ∧ fits) →
          R (.mrsv p n) (Claims.withQuad s (fun Q => { Q with waits := Q.waits ++ [{ r := s.cur, pd := p, n := n.toNat, waited := 0 }] })) T
            { x with st := .blocked, wait := .mrsv }))
    ∧ (posted → R .mrel s T { x with st := .blocked, wait := .again })
    ∧ (¬ posted → ∀ v, T.resv = some v →
        R .mrel (Claims.withQuad s (fun Q => { Q with tiles := Q.tiles + v.n, entries := Q.entries + 1 })) { T with resv := none, acc := [] } x.advance)
    ∧ (¬ posted → T.resv = none → R .mrel s T x.advance)

/-- O38. The matrix words at issue (13 R245, R253 to R260, R262; 14 R283): one whole group, reserved tiles, and the operands they keep. -/
def Obligations.MatrixWords : Prop :=
  ∀ (s : State) (la : BitVec 4) (k a : BitVec 7) (b t : BitVec 6) (r p : BitVec 3) (u sat : BitVec 1) (g : Nat) (v : Resv), Issues s →
    let T := s.mine
    let x := s.sreg b
    let y := s.sreg (b + 1)
    let kind := SMap.get 0 v.kinds t.toNat
    let tile := t.toNat
    let whole : Prop := T.groupsOf s.me.mask = [g] ∧ T.groupMask g = s.me.mask ∧ T.gw = 32 ∧ T.resv = some v
      ∧ ∀ e ∈ T.engs, e.matrix = true → e.stage ≠ .issued
    let pair (q : Bool) : Prop := tile < v.n ∧ (q = true → tile % 2 = 0 ∧ tile + 1 < v.n)
    let posts (i : Instr) (U : Team) (c : Nat) (e : EngKind) : Prop := Gives i s (Claims.Posted s U la c e)
    let kinds := if k = 2 then SMap.set 0 (SMap.set 0 v.kinds tile 2) (tile + 1) 2 else SMap.set 0 v.kinds tile k.toNat
    let j := (s.sreg b).toNat % (if kind = 2 then 32 else 16)
    let product (sparse : Bool) (i : Instr) : Prop :=
      let scaled := !sparse && y.getLsbD 63
      let hit := v.latch.any (fun l => l.group == g && l.va == a.toNat)
      let tag := if hit then (v.latch.map (fun l => l.tag)).getD 0 else T.vtag a.toNat g
      let f := if x.toNat < 4096 then (s.entry T.ctx x.toNat).fmt else 0
      let d := aData tag f
      let n := d + (if scaled && scaledTag tag then 1 else 0)
      let regs := (List.range n).map (fun r => a.toNat + r)
      ScalarsReady s [b, b + 1] → whole → pair false → (tag = 15 ∨ tagKind tag scaled = none ∨ tagKind tag scaled = some kind) →
      (hit = false → (∀ r ∈ regs, T.regBusy r s.me.mask = false ∧ Mapped s r) ∧ panelTags T g a.toNat d (scaled && scaledTag tag) tag = true) →
      -- of a RAW A, whose format B's entry gives at acceptance (R250), up to sixteen registers are read, and how many are mapped and RAW is kept
      posts i T 1 (.mma sparse (decide (u = 1)) tile g tag a.toNat
        (if hit then (v.latch.map (fun l => l.regs)).getD [] else panel T g a.toNat (if tag = 15 then max n 16 else n)) x y 0
        (if hit then (16, 16) else rawHeld T s.me.cnt g a.toNat))
    (whole → pair (decide (k = 2)) → posts (.mzero la k t) { T with resv := some { v with kinds := kinds } } 1 (.mzero tile k.toNat))
    ∧ product false (.mma la u a b t)
    ∧ product true (.mmas la u a b t)
    ∧ (ScalarsReady s [b] → whole → pair (kind == 2) → (kind = 2 → a.toNat % 2 = 0) →
        (∀ i, i < 16 → T.regBusy (a.toNat + i) s.me.mask = false ∧ Mapped s (a.toNat + i)) → posts (.mrd la a b t) T 5 (.mrd tile kind g a.toNat j))
    ∧ (ScalarsReady s [b, b + 1] → whole → pair (kind == 2) → posts (.msta la sat r b t) T 1 (.msta tile kind g r.toNat (decide (sat = 1)) x y))
    ∧ (ScalarsReady s [b, b + 1, b + 2, b + 3] → whole → 0 < v.n →
        posts (.mqnt la r b) T 1 (.mqnt g r.toNat x y (s.sreg (b + 2)) (s.sreg (b + 3))))
    ∧ (ScalarsReady s [b] → PredsReady s [p] → whole → pair (kind == 2) →
        posts (.mpairSend la p b t) T 1 (.mpair true tile kind g p.toNat (x.setWidth 32) ((x >>> 32).setWidth 32) [])
        ∧ posts (.mpairRecv la p b t) T 1 (.mpair false tile kind g p.toNat (x.setWidth 32) ((x >>> 32).setWidth 32) []))

/-- The order of R247 between the head operations of two teams' entries: the urgent class, priority, age, core number, team slot. -/
def Sys2Proof.Claims.Before (s : State) (a b : Nat × EngOp) : Prop :=
  let A := s.team a.1
  let B := s.team b.1
  let late (U : Team) : Prop := ∃ v, U.resv = some v ∧ (v.urgent = true ∨ v.headAt + 4096 ≤ s.clock)
  (late A ∧ ¬ late B) ∨ ((late A ↔ late B) ∧ (B.prio < A.prio ∨ (A.prio = B.prio ∧ (a.2.since < b.2.since ∨ (a.2.since = b.2.since ∧
    (A.core < B.core ∨ (A.core = B.core ∧ A.slot ≤ B.slot)))))))

/-- An operation goes before the ready head operation of every other team's entry in its quad. -/
def Sys2Proof.Claims.First (s : State) (q : Nat) (c : Nat × EngOp) : Prop :=
  ∀ p ∈ s.teams, p.1 ≠ c.1 → p.2.live = true → p.2.resv ≠ none → quadOf p.2.core = q → ∀ f rest, p.2.matrixQueue = f :: rest → s.ready p.1 f = true →
    Claims.Before s c (p.1, f)

/-- A pair half has ended (13 R262, R264): it is complete, and pd holds the outcome in its lanes. -/
def Sys2Proof.Claims.HalfEnded (u : State) (t : Nat) (e : EngOp) (ok : Bool) : Prop :=
  ∀ send tile kind g pd partner tag data, e.kind = .mpair send tile kind g pd partner tag data →
    (u.team t).eng? e.id = some { e with stage := .done, buffer := none }
    ∧ (pd % 8 ≠ 0 → ∀ l, e.mask.getLsbD l = true → ((u.team t).pred (BitVec.ofNat 3 pd)).getLsbD l = ok)

/-- O39. What the matrix engine does (13 R243, R247, R257, R258, R262 to R264). The oldest MRSV of a quad that waits in an active bank is granted where it
fits, and denied where its team has a reservation or it has waited 65,536 cycles: its strand has the answer in pd and goes on. The entry whose head
operation goes before every other's executes it: MZERO clears its tile, MRD writes sixteen registers. An entry is urgent once its head operation has waited
4,096 cycles. A pair half aborts, and its partner with it. -/
def Obligations.MatrixEvents : Prop :=
  ∀ (s : State) (q t : Nat),
    let T := s.team t
    let ends (i : Instr) (w : MrsvReq) (ok : Bool) : Prop :=
      -- the state in which the strand of w is the issuing one: the answer does not depend on which strand issues
      let s0 := { s with cur := w.r }
      let b := if ok then Claims.withQuad s0 (fun Q => { Q with tiles := Q.tiles - w.n, entries := Q.entries - 1 }) else s0
      let U := if ok then { s0.mine with resv := some { n := w.n, kinds := [], latch := none, urgent := false, headAt := s.clock }, acc := [] } else s0.mine
      ∃ z : State, exec i s = .next { z with cur := s.cur }
        ∧ OwnResult (Claims.withQuad b (fun Q => { Q with waits := Q.waits.filter (fun o => o.r ≠ w.r) })) z
            (U.setPred w.pd s0.me.mask (if ok then s0.me.mask else 0)) s0.myStream (Claims.answered s s0.me)
    let waiting (w : MrsvReq) : Prop := (s.team w.r.team).held = .active ∧ quadOf (s.team w.r.team).core = q
    let oldest (w : MrsvReq) : Prop := waiting w ∧ ∃ pre post, (s.quad q).waits = pre ++ w :: post ∧ ∀ o ∈ pre, (s.team o.r.team).held ≠ .active
    (∀ w, oldest w → (s.team w.r.team).resv ≠ none ∨ 65536 ≤ w.waited → ends (.mrsvGrant q) w false)
    ∧ (∀ w, oldest w → (s.team w.r.team).resv = none → w.waited < 65536 → w.n ≤ (s.quad q).tiles → 1 ≤ (s.quad q).entries →
        (∀ o ∈ (s.quad q).waits, o.r.team = w.r.team → o.r = w.r) → ends (.mrsvGrant q) w true)
    ∧ (∀ w, waiting w → w ∈ (s.quad q).waits → (∀ o ∈ (s.quad q).waits, o.r = w.r → o = w) → 65536 ≤ w.waited → ends (.mrsvTimeout q w.r) w false)
    ∧ (∀ v, T.resv = some v → quadOf T.core = q → T.matrixQueue ≠ [] → v.headAt + 4096 ≤ s.clock →
        exec (.entryUrgent q t) s = .next (s.onTeam t (fun T => { T with resv := some { v with urgent := true } })))
    ∧ (∀ e rest v, T.live = true → T.resv = some v → quadOf T.core = q → T.matrixQueue = e :: rest → (∀ p ∈ s.teams, p.1 = t → p.2 = T) →
        s.ready t e = true → Claims.First s q (t, e) → e.half = false ∨ e.pairKey.1 = true →
        exec (.matrixEngineGrant q t) s = .next ((s.runMatrix t e).newHead t)
        ∧ (T.eng? e.id = some e → let ran (z : State) : Prop := (z.team t).eng? e.id = some { e with stage := .done } ∧ z.mem = s.mem
              ∧ (z.team t).resv = some { v with urgent := false, headAt := s.clock }
            (∀ tile kind, e.kind = .mzero tile kind → Gives (.matrixEngineGrant q t) s (fun z => ran z ∧ ∀ i, i < 8192 →
              SMap.get 0 (z.team t).acc (8192 * tile + i) = 0 ∧ (kind = 2 → SMap.get 0 (z.team t).acc (8192 * (tile + 1) + i) = 0)))
            ∧ ∀ tile kind g va j, e.kind = .mrd tile kind g va j → kind ≠ 2 → g < 32 → j < 16 → va + 16 ≤ 120 → T.groupsOf e.mask = [g] →
                Gives (.matrixEngineGrant q t) s (fun z => ran z ∧ ∀ i, i < 16 →
                  (z.team t).vtag (va + i) g = (if kind = 0 then 1 else 0)
                  ∧ ∀ l, l < 32 → (z.team t).vr (va + i) (32 * g + l) = SMap.get 0 T.acc (8192 * tile + 256 * l + (16 * j + i)))))
    ∧ (∀ e op, T.eng? op = some e → e.id = op → e.pendingHalf = true → (T.retiring = true ∨ s.teamAt t e.pairKey.2.1.toNat = none ∨ e.since + 65536 ≤ s.clock) →
        (s.partnerHalf t e = none → Gives (.pairAbortTimeout t op) s (fun z => Claims.HalfEnded z t e false ∧ z.mem = s.mem
          ∧ ∀ c, e.buffer = some c → (z.quad c).pairs = (s.quad c).pairs - (match e.kind with | .mpair _ _ 2 _ _ _ _ _ => 2 | _ => 1)))
        ∧ ∀ u o, s.partnerHalf t e = some (u, o) → (s.team u).eng? o.id = some o → (u = t → o.id ≠ op) →
            Gives (.pairAbortTimeout t op) s (fun z => Claims.HalfEnded z t e false ∧ Claims.HalfEnded z u o false ∧ z.mem = s.mem))

/-! Units and the memory pipe. -/

/-- O40. What the units do with issued operations (09 R193, R202; 17 R297 to R299; 14 R278 to R282; 13 R262, R263; 11 R216): acceptance, which counts the
operation in its class; a copy, a touch, an Ephemeris word; retirement, which counts it out; a deferred trap; a matched pair. -/
def Obligations.UnitEvents : Prop :=
  ∀ (s : State) (t op : Nat) (e : EngOp),
    let T := s.team t
    let done (u : State) (f : Option UnitFault) : Prop := (u.team t).eng? op = some { e with stage := .done, fault := f }
    let free : Prop := e.stage = .issued ∧ s.hub.railsOn = true ∧ (∀ o ∈ T.engs, o.id < op → o.strm = e.strm → o.stage ≠ .issued)
      ∧ (e.cls ≤ 4 → (T.stream e.strm).counter e.cls < 63) ∧ (e.matrix = true → T.matrixQueue.length < 8)
    let held (cats : List Entry) (k : EngKind) : EngOp := { e with stage := .accepted, since := s.clock, cats := cats, kind := k }
    let accepted (cats : List Entry) (k : EngKind) (u : State) : Prop := (u.team t).eng? op = some (held cats k)
      ∧ (e.cls ≤ 4 → ((u.team t).stream e.strm).counter e.cls = (T.stream e.strm).counter e.cls + 1) ∧ u.mem = s.mem ∧ ∀ v, v ≠ t → u.team v = s.team v
    let whole : Prop := e.stage = .accepted ∧ ∀ u ∈ t :: T.cluster, (s.team u).unrestored = []
    T.eng? op = some e → e.id = op →
    -- acceptance: of a word that names no entry, of a publication, of a pair half, of a word of the fabric, and of a word whose entries are as it needs them
    (free →
      ((∃ a b n p, e.kind = .cpy a b n p) ∨ (∃ a b c, e.kind = .epld a b c) ∨ (∃ a b c d, e.kind = .epgen a b c d) ∨ (∃ a b c, e.kind = .epstat a b c)
        ∨ (∃ a b, e.kind = .mzero a b) ∨ (∃ a b c d f, e.kind = .mrd a b c d f) → Gives (.xPipeAccept t op) s (accepted [] e.kind))
      ∧ (∀ x y, e.kind = .publish x y → Gives (.xPipeAccept t op) s (fun u => accepted [] e.kind u ∧ u.walks = s.walks ++ [(dieOf T.core, t, op)]))
      ∧ (∀ sd tile kind g pd partner tag data, e.kind = .mpair sd tile kind g pd partner tag data →
          (s.teamAt t partner.toNat ≠ none → Gives (.xPipeAccept t op) s (accepted [] e.kind))
          ∧ (s.teamAt t partner.toNat = none → Gives (.xPipeAccept t op) s (fun u => Claims.HalfEnded u t (held [] e.kind) false ∧ u.mem = s.mem)))
      ∧ (∀ v, e.fab = some v → v.fn ≠ 3 → v.fn ≠ 4 → Gives (.xPipeAccept t op) s (accepted [] e.kind))
      ∧ (∀ a, s.readEntries t e = .ok a → (∀ x y, e.kind ≠ .publish x y) → e.half = false → e.fab = none → Gives (.xPipeAccept t op) s (accepted a.cats a.kind))
      ∧ (∀ f, s.readEntries t e = .error f → s.fabWaits t e = false → e.sid ≠ some Config.splitRecords →
          s.stoppable { team := t, strm := e.strm, sid := e.sid } op = true → exec (.xPipeAccept t op) s = .next (s.refuseEng t e f)))
    -- the copy engine
    ∧ (whole →
        (∀ dst src n pol, e.kind = .cpy dst src n pol → (s.mapRuns t 0 e.copyRuns).overlaps = false →
          Gives (.copyOperationComplete t op) s (fun u => ∃ f, done u f)
            -- both runs in one page of a window, the destination in the team's own
          ∧ ∀ offd v offs, s.aperturePlace t dst 0 = some (t, offd) → s.aperturePlace t src 0 = some (v, offs) → T.live = true → e.parts = [] →
                dst.toNat % 4096 + n ≤ 4096 → src.toNat % 4096 + n ≤ 4096 →
                Gives (.copyOperationComplete t op) s (fun u => (∀ i, i < n → (u.team t).winByte (offd + i) = (s.team v).winByte (offs + i))
                  ∧ (∀ q, q < offd ∨ offd + n ≤ q → (u.team t).winByte q = T.winByte q) ∧ done u e.fault ∧ u.mem = s.mem))
        -- a range within one line that translates, and one that does not
        ∧ (∀ a n pol, aperture a = false → canonical a = true → let len := (n : W64).toNat % 2 ^ 40
            0 < len → (a : W64).toNat % 128 + len ≤ 128 →
            (∀ pa s1, s.resolve t a { r := true, w := false } = .ok pa s1 → pa % 128 + len ≤ 128 →
              (e.kind = .tpref 0 a n pol → s.openWays (homeLinear pa) ≠ [] → Gives (.copyOperationComplete t op) s (fun u => done u e.fault ∧ u.mem = s1.mem
                ∧ Claims.Cached u pa (evictionClass pol a)))
              ∧ (e.kind = .tflush 0 a n → Gives (.copyOperationComplete t op) s (fun u => done u e.fault ∧ u.mem = s1.mem
                ∧ (∀ x ∈ u.l2, runsMeet x.bytes [(pa, len)] = false) ∧ ∀ c, (u.core c).l1 (pa / 128) = none)))
            ∧ (∀ d, s.resolve t a { r := true, w := false } = .fail d → e.kind = .tpref 0 a n pol →
                Gives (.copyOperationComplete t op) s (fun u => done u e.fault ∧ u.mem = s.mem ∧ u.l2 = s.l2)))
        -- tiles of a tensor of memory, one after another
        ∧ (∀ num tile size pol, 0 < num.toNat → num.toNat < 4096 → ∀ x : Entry, e.cats = [x] → x.valid = true → x.spad = false →
            (e.kind = .tpref num tile size pol → ∃ z : State, z = (blockTiles tile size).foldl (fun s q => s.touchTile t num.toNat x false pol q.1 q.2) s
              ∧ Gives (.copyOperationComplete t op) s (fun u => u = z.engDone t e 0 ∧ done u e.fault))
            ∧ (e.kind = .tflush num tile size → ∃ z : State, z = (blockTiles tile size).foldl (fun s q => s.touchTile t num.toNat x true 0 q.1 q.2) s
              ∧ Gives (.copyOperationComplete t op) s (fun u => u = z.engDone t e 0 ∧ done u e.fault))))
    -- the Ephemeris unit
    ∧ (e.stage = .accepted → T.ephReady e = true →
        (∀ c h ws, e.kind = .epld c h ws → ∀ g, T.gcBy c = some g →
          Gives (.ephemerisOperationComplete t op) s (fun u => done u e.fault ∧ u.mem = s.mem ∧ (u.team t).gcs = (T.putGc (g.load h ws)).gcs))
        ∧ (∀ c shape d, e.kind = .epstat c shape d → d < 64 →
            Gives (.ephemerisOperationComplete t op) s (fun u => done u e.fault ∧ u.mem = s.mem
              ∧ ((u.team t).stream e.strm).sreg (BitVec.ofNat 6 d) = statWord (c.bind T.gcBy) shape))
        -- one list: the zero word, the count after it, and the entries in their order; nothing where the context is not ready
        ∧ (∀ inv c dst spec g, e.kind = .epgen inv c dst spec → T.gcBy c = some g → e.parts = [] →
            (g.st ≠ 1 ∨ (inv = true ∧ g.inv = false) → Gives (.ephemerisOperationComplete t op) s (fun u =>
              done u (some { cause := 0x31, detail := 0, code := g.no, addr := 0 }) ∧ (u.team t).win = T.win ∧ u.mem = s.mem))
            ∧ ∀ P, g.st = 1 → (inv = true → g.inv = true) → loadState g.hdr g.words = .ready P → (spec >>> 32).toNat % 256 = 0 →
                let r0 := spec.toNat % 2 ^ 24
                let l := if inv then P.col g.hdr r0 else P.row g.hdr r0
                let word (u : State) (a : Nat) : Nat := natOfBytes ((u.team t).winBytes a 4)
                (256 < l.length → Gives (.ephemerisOperationComplete t op) s (fun u =>
                  done u (some { cause := 0x30, detail := 0, code := g.no, addr := BitVec.ofNat 64 r0 }) ∧ word u dst = 0 ∧ u.mem = s.mem))
                ∧ (l.length ≤ 256 → Gives (.ephemerisOperationComplete t op) s (fun u => done u e.fault ∧ u.mem = s.mem
                    ∧ word u dst = 0 ∧ word u (dst + 4) = l.length ∧ (∀ i, i < l.length → word u (dst + 8 + 4 * i) = l.getD i 0 % 2 ^ 32)
                    ∧ ∀ q, q < dst ∨ dst + 8 + 4 * l.length ≤ q → (u.team t).winByte q = T.winByte q))))
    -- retirement
    ∧ (e.stage = .done → T.retiring = false → T.engs.find? (fun o => decide (o.strm = e.strm) && o.cls == e.cls) = some e →
        Gives (.engineOperationRetire t e.strm e.cls) s (fun u => (u.team t).engs = T.engs.filter (fun o => o.id ≠ op) ∧ u.mem = s.mem
          ∧ (e.cls ≤ 4 → ((u.team t).stream e.strm).counter e.cls = (T.stream e.strm).counter e.cls - 1)
          ∧ (u.team t).deferred = T.deferred ++ (match e.fault with | some f => [{ strm := e.strm, mask := e.mask, pc := e.pc, fault := f }] | none => [])))
    ∧ (∀ (d : DeferredTrap) rest r, T.deferred = d :: rest → (d.strm = .c ∨ ∀ x ∈ rest, x.strm = .a) → s.stoppedBy t d = some r → (s.strand r).st = .running →
        (s.strand r).early = [] → s.untranslated r = false → T.held = .active → T.retiring = false →
        (∀ p ∈ (s.core T.core).active.slots, p.2 ≠ t → (s.team p.2).deferred = []) →
        Gives (.deferredTrap t) s (fun u => u.strand r = { s.strand r with st := .parked, checked := 0 } ∧ (u.team t).deferred = rest ∧ u.lastTrap = s.lastTrap + 1
          ∧ ∃ k, (k ∈ u.heldTraps ∨ k ∈ (u.ctx T.ctx).recs) ∧ k.rank = s.lastTrap + 1 ∧ k.defer = true ∧ k.pc = d.pc ∧ k.spc = (s.strand r).pc
              ∧ k.cause = d.fault.cause ∧ k.detail = d.fault.detail ∧ k.code = d.fault.code ∧ k.addr = d.fault.addr ∧ k.mask = d.mask))
    -- a pair
    ∧ (∀ (t2 op2 : Nat) (b : EngOp) (tileA kindA gA pA : Nat) (partA tagA : W32) (data : List W32) (tileB kindB gB pB : Nat) (partB : W32) (dataB : List W32),
        (s.team t2).eng? op2 = some b → b.id = op2 → (t2 = t → op2 ≠ op) →
        e.kind = .mpair true tileA kindA gA pA partA tagA data → b.kind = .mpair false tileB kindB gB pB partB tagA dataB →
        (e.stage = .granted ∨ (e.stage = .accepted ∧ ∃ l, T.matrixQueue = e :: l)) → b.stage = .accepted → (∃ l, (s.team t2).matrixQueue = b :: l) →
        s.teamAt t partA.toNat = some t2 → s.teamAt t2 partB.toNat = some t →
        T.oldestHalf (true, partA, tagA) = some e → (s.team t2).oldestHalf (false, partB, tagA) = some b →
        s.clock < e.since + 65536 → s.clock < b.since + 65536 → Claims.First s (quadOf (s.team t2).core) (t2, b) →
        (kindA ≠ kindB → Gives (.pairMatch t op t2 op2) s (fun z => Claims.HalfEnded z t e false ∧ Claims.HalfEnded z t2 b false ∧ z.mem = s.mem))
        ∧ (kindA = kindB → Gives (.pairMatch t op t2 op2) s (fun z => Claims.HalfEnded z t e true ∧ Claims.HalfEnded z t2 b true ∧ z.mem = s.mem
            ∧ ∀ i, i < 8192 →
              let x := ((s.team t2).tileVals kindB tileB).getD i 0
              let y := if e.stage = .granted then (data.getD i 0).toNat + (if kindA = 2 then 2 ^ 32 * (data.getD (8192 + i) 0).toNat else 0)
                       else (T.tileVals kindA tileA).getD i 0
              let out := ((z.team t2).tileVals kindB tileB).getD i 0
              (kindB = 1 → out = (x + y) % 2 ^ 32)
              ∧ (kindB = 0 → out = (fp32.rnd 0 false 0 (Val.add false (fp32.decode x) (fp32.decode y)).1).1 % 2 ^ 32)
              ∧ (kindB = 2 → out = (fp64.rnd 0 false 0 (Val.add false (fp64.decode x) (fp64.decode y)).1).1 % 2 ^ 64))))

/-- A lane of an access in flight. -/
def Sys2Proof.Claims.laneOp (s : State) (t op lane : Nat) : Option LaneAcc := ((s.team t).acc? op).bind (fun a => a.lane? lane)

/-- The number that the bytes of a lane's place hold. -/
def Sys2Proof.Claims.placed (s : State) (l : LaneAcc) (n : Nat) : Nat :=
  match l.at_, l.st with
  | .window w off, _ => natOfBytes ((s.team w).winBytes off n)
  | .global, .ready pa => s.memNat pa n
  | .global, _ => 0

/-- In memory and in the windows every byte but n bytes at a lane's place is as it was. -/
def Sys2Proof.Claims.Elsewhere (s u : State) (l : LaneAcc) (n : Nat) : Prop :=
  (∀ x, ¬ (∃ pa, l.at_ = .global ∧ l.st = .ready pa ∧ pa ≤ x ∧ x < pa + n) → Memory.read u.mem x = Memory.read s.mem x)
  ∧ ∀ v x, ¬ (∃ off, l.at_ = .window v off ∧ off ≤ x ∧ x < off + n) → (u.team v).winByte x = (s.team v).winByte x

/-- O41. The memory pipe (08 R159, R173, R174, R177; 09 R187 to R189, R206 to R212; 19 R353): a walk resolves a lane's address or leaves the lane
unfinished; a lane is performed, and then written; a word with unfinished lanes parks its strand at the word. `accMoved` looks at barriers again. -/
def Obligations.MemoryPipe : Prop :=
  ∀ (s : State) (t op lane : Nat) (a : AccessOp) (l : LaneAcc), (s.team t).acc? op = some a → a.lane? lane = some l →
    let T := s.team t
    let ls := a.together T l
    let same := a.lanes.filter (fun k => k.e == l.e && decide (k.st = .toTranslate))
    (l.st = .toTranslate → s.walkPoison t l.e a.kind.need = none → (T.stream a.strm).lives = true → T.retiring = false →
      (∀ pa s1, s.resolve t l.e a.kind.need = .ok pa s1 → exec (.translationWalkComplete t op lane) s
        = .next ((s1.onTeam t (fun T => T.putAcc op (same.map (fun k => k.resolved pa (s1.contigAt t l.e))))).accMoved t))
      ∧ (∀ d, s.resolve t l.e a.kind.need = .fail d → exec (.translationWalkComplete t op lane) s
        = .next (s.onTeam t (fun T => T.putAcc op (same.map (fun k => { k with st := .unfinished d, pred := none }))))))
    ∧ (∀ via, s.mayPerform t a ls = true → s.misuses t a ls = false →
        (l.at_ = .global → exec (.memoryAccessPerform t op lane via) s = .next (s.performLanes t a ls via))
        ∧ (l.at_ ≠ .global → exec (.scratchpadAccessPerform t op lane) s = .next (s.performLanes t a ls false)))
    -- one lane at its place: what it reads and stores
    ∧ ((∃ pa, l.st = .ready pa) → a.ord ≠ 4 → a.superseded l = false →
        (∀ pa, l.at_ = .global → l.st = .ready pa → s.poisoned pa a.size = false ∧ (s.core T.core).l1 (pa / 128) = none) →
        ∃ u : State, s.performLanes t a [l] false = u.accMoved t ∧
          let old := Claims.placed s l a.size
          let x := l.data.toNat % 256 ^ a.size
          let reads (tag : Bool) : Prop := Claims.laneOp u t op lane = some { l with st := .performed, res := BitVec.ofNat 64 old, tag := tag }
          let stores (v : Nat) : Prop := Claims.placed u l a.size = v % 256 ^ a.size ∧ Claims.Elsewhere s u l a.size
          match a.kind with
          | .load => reads false ∧ Claims.Elsewhere s u l 0
          | .store => stores x
          | .atomic fn => reads false ∧ stores (atomFn fn old x).1
          | .cas => reads false ∧ stores (if old = l.cmp.toNat % 256 ^ a.size then x else old)
          | .loadRef => (∀ w off, l.at_ = .window w off → w = t) →
              reads (match l.at_, l.st with | .window w off, _ => SMap.has (s.team w).winTags (off / 8) | .global, .ready pa => SMap.has s.memTags (pa / 8) | _, _ => false)
              ∧ Claims.Elsewhere s u l 0
          | .storeRef => stores x ∧ (match l.at_, l.st with
              | .window w off, _ => SMap.has (u.team w).winTags (off / 8) | .global, .ready pa => SMap.has u.memTags (pa / 8) | _, _ => true) = true)
    -- a performed lane writes its result
    ∧ (l.st = .performed →
        (∀ r n tag, a.dest = .regs r n tag → lane < 1024 → lane / T.gw < 64 → ∃ u : State, exec (.loadComplete t op lane) s = .next (u.accMoved t) ∧ u.mem = s.mem
          ∧ (u.team t).vr r lane = l.res.setWidth 32 ∧ (n = 2 → (u.team t).vr (r + 1) lane = (l.res >>> 32).setWidth 32)
          ∧ (∀ q m, m < 1024 → m ≠ lane ∨ (q ≠ r ∧ ¬ (n = 2 ∧ q = r + 1)) → (u.team t).vr q m = T.vr q m)
          ∧ (∀ k, tag = some k → k ≠ 14 → (u.team t).vtag r (lane / T.gw) = k ∧ (n = 2 → (u.team t).vtag (r + 1) (lane / T.gw) = k)))
        ∧ (∀ q, a.dest = .queue q → q < 8 → ∃ u : State, exec (.loadComplete t op lane) s = .next (u.accMoved t) ∧ u.mem = s.mem
            ∧ ∀ p m, p < 8 → (u.team t).queue p m = if p = q ∧ m = lane then fillEntry (T.queue q lane) op (l.res.setWidth 32) else T.queue p m)
        ∧ (∀ d, a.dest = .scalar d → d < 64 → ∃ u : State, exec (.loadComplete t op lane) s = .next (u.accMoved t) ∧ u.mem = s.mem
            ∧ ((u.team t).stream a.strm).sreg (BitVec.ofNat 6 d) = l.res ∧ ((u.team t).stream a.strm).sref (BitVec.ofNat 6 d) = l.tag)
        ∧ (∀ r held, a.dest = .refPair r held → a.lanes = [l] → l.tag = true → lane < 1024 → lane / T.gw < 64 →
            ∃ u : State, exec (.loadComplete t op lane) s = .next (u.accMoved t) ∧ u.mem = s.mem
              ∧ (u.team t).vr r lane = l.res.setWidth 32 ∧ (u.team t).vr (r + 1) lane = (l.res >>> 32).setWidth 32
              ∧ (u.team t).vtag r (lane / T.gw) = (u.team t).vtag (r + 1) (lane / T.gw)
              ∧ (u.team t).vtag r (lane / T.gw) = (if a.mask &&& (T.groupMask (lane / T.gw) &&& firstLanes T.lanes) = T.groupMask (lane / T.gw) &&& firstLanes T.lanes
                  ∨ lane / T.gw ∈ held then 14 else 15)))
    -- unfinished lanes
    ∧ (let r : StrandRef := { team := t, strm := a.strm, sid := a.sid }
       (s.strand r).st = .running → (s.strand r).replay = none → a.parked = false →
       (∀ b ∈ T.accs, b.id < op → b.strm = a.strm → b.sid = a.sid → ∀ k ∈ b.lanes, ∃ pa, k.st = .ready pa ∨ k.st = .performed ∨ k.st = .done) →
       (∀ k ∈ a.lanes, k.st = .performed ∨ k.st = .done ∨ k.faulted = true) → ∀ f rest d, a.lanes.filter LaneAcc.faulted = f :: rest → f.st = .unfinished d →
       ∃ g : Team → Team, (∀ U, (g U).vregs = U.vregs ∧ (g U).win = U.win ∧ (g U).cs = U.cs ∧ (g U).as = U.as)
         ∧ let u := (s.onStrand r (fun x => x.backTo a true)).onTeam t g
           exec (.pageFaultPark t op) s = .next (u.postRec (u.recAt r a { cause := 0x24, detail := d, code := 0, addr := f.e
                                                                          mask := if a.one then a.mask else maskOf ((f :: rest).map (fun k => k.lane)) })))

/-! Objects, launches, rings and tasks. -/

/-- The number under which a releasing word waits: that of the operations it looks back at. -/
def Sys2Proof.Claims.releaseMark (s : State) : Nat := match s.me.wait with | .drain n => n | _ => s.lastOp + 1

/-- O42. OBJNEW, OBJINFO and the publication walk (19 R351, R355 to R358); LAUNCH and WAITCH (20 R374, R377). -/
def Obligations.ObjectsAndLaunch : Prop :=
  ∀ (s : State) (la : BitVec 4) (d a : BitVec 6), Issues s →
    let T := s.mine
    let n := (s.sreg a).toNat
    let size := 128 * ((16 + n + 127) / 128)
    let blocked (w : Wait) (t : State) : Prop := StrandResult s t { s.me with st := .blocked, wait := w }
    (ScalarsReady s [d, a] →
      (n = 0 ∨ 262128 < n ∨ s.allocate size = none → Gives (.objnew la d a) s (fun t => ScalarResult s t d 0 false s.me.advance))
      ∧ (∀ x s1 p s2, 0 < n → n ≤ 262128 → s.allocate size = some (x, s1) → spotHere s1 x size { r := false, w := true } = .ok (p, s2) →
          Gives (.objnew la d a) s (fun t => t.sreg d = x ∧ t.myStream.sref d = true
            ∧ t.mem = (s2.putSpot p (bytesOfNat 8 size ++ bytesOfNat 8 T.stamp.toNat ++ List.replicate (size - 16) 0)).mem
            ∧ ∀ pa, p = .mem [(pa, size)] → t.memNat pa 8 = size ∧ t.memNat (pa + 8) 8 = T.stamp.toNat
                ∧ (∀ i, 16 ≤ i → i < size → Memory.read t.mem (pa + i) = 0)
                ∧ ∀ b, b < pa ∨ pa + size ≤ b → Memory.read t.mem b = Memory.read s2.mem b))
      ∧ (∀ pa k more s1, s.myStream.sref a = true → (s.sreg a).toNat % 128 = 0 → canonical (s.sreg a) = true → aperture (s.sreg a) = false →
          spotHere s (s.sreg a) 16 { r := true, w := false } = .ok (.mem ((pa, k) :: more), s1) →
          Gives (.objinfo la d a) s (fun t => t.mem = s1.mem ∧ t.myStream.sref d = false ∧ t.sreg d =
            (let v := (if T.privateLine (s.sreg a) then s1.readL1 T.core pa 16 1 else s1.readHome pa 16 1).val
             let w : W64 := BitVec.ofNat 64 v
             BitVec.ofNat 64 (hdrState w * 2 ^ 62 + (if v / 2 ^ 64 = T.stamp.toNat then 2 ^ 61 else 0) + hdrSize w)))))
    ∧ (∀ die t op e root slot, s.walks.find? (fun w => w.1 == die) = some (die, t, op) → s.walks.find? (fun w => w.2.1 == t) = some (die, t, op) →
        (s.team t).eng? op = some e → e.kind = .publish root slot → (s.team t).releasedBefore e.strm e.id = true →
        let ended (u : State) : State := { u with walks := u.walks.filter (fun w => !(w.2.1 == t && w.2.2 == e.id)), walking := SMap.erase u.walking e.id }
        -- the first event traces from the root; a fault undoes the trace
        (s.walking.find? (fun p => p.1 == op) = none → let r := s.traced die t root
          (∀ f, r.fault = some f → exec (.publicationWalk die) s = .next ((ended (r.objs.foldl (fun s o => s.setObjState o.2 0) r.st)).engFault t e f))
          ∧ (r.fault = none → exec (.publicationWalk die) s = .next { r.st with walking := SMap.put r.st.walking e.id { objs := r.objs, left := [] } }))
        -- the second marks the objects PUBLISHED and stores the root in the slot
        ∧ ∀ w, s.walking.find? (fun p => p.1 == op) = some (op, w) → w.left = [] → let m := s.mark t w.objs
          (∀ x, m.2 = some x → exec (.publicationWalk die) s = .next ((ended m.1).engFault t e { cause := 0x3C, detail := 1, code := 0, addr := x }))
          ∧ (m.2 = none → exec (.publicationWalk die) s =
              match (ended m.1).storeSlot t slot root with | (s2, none) => .next (s2.engDone t e 0) | (s2, some f) => .next (s2.engFault t e f))
          ∧ ∀ x pa, w.objs = [(x, pa)] → s.poisoned pa 8 = false → m.2 = none ∧ m.1.memNat pa 8 = 2 * 2 ^ 62 + s.memNat pa 8 % 2 ^ 62)
    ∧ (ScalarsReady s [d, a] → (s.sreg a).toNat % 64 = 0 →
        (T.releasedBefore s.cur.strm (releaseMark s) = false → Gives (.launch la d a) s (blocked (.drain (releaseMark s))))
        ∧ (∀ L K s1 g s2, T.releasedBefore s.cur.strm (releaseMark s) = true → readLaunch s (s.sreg a) false = .ok (L, K, s1) →
            s1.launchFrom L K false none = some (g, s2) →
            let s3 := (s2.addChild T.record 1).handOver s.cur.team g
            exec (.launch la d a) s = .next ((s3.putSreg d (s3.grid g).id).advance)
            ∧ (s2.addChild T.record 1).memNat T.record 8 = (s2.memNat T.record 8 + 1) % 2 ^ 64))
    ∧ (ScalarsReady s [d] → s.poisoned T.record 16 = false →
        (s.memNat T.record 8 ≠ 0 → Gives (.waitch la d) s (blocked .again))
        ∧ (s.memNat T.record 8 = 0 → Gives (.waitch la d) s (fun t => t.sreg d = s.mem64 (T.record + 8) ∧ t.memNat (T.record + 8) 8 = 0
            ∧ (∀ b, b < T.record + 8 ∨ T.record + 16 ≤ b → Memory.read t.mem b = Memory.read s.mem b) ∧ t.me = s.me.advance)))

/-- Nothing holds a word that reads a run in its own team's window: no access is outstanding, no ring word of the package and no FENCE of
the stream waits, and the window is restored and awake (08 R176, R178; 09 R184, R192; 11 R235; 17 R302). -/
structure Sys2Proof.Claims.Quiet (s : State) : Prop where
  accs : s.mine.accs = []
  rings : s.rings = []
  fences : ∀ r ∈ s.strandsOf s.cur.team s.cur.strm, r = s.cur ∨ ∀ n, (s.strand r).wait ≠ .fence n
  whole : s.mine.unrestored = []
  awake : ∀ i ∈ stripesOf s.mine.spBase s.mine.w, SMap.get 0 (s.core s.mine.core).stripes i = 1

/-- O43. The ring words (17 R300 to R302): refused at once, granted, or waiting; a word that is granted moves its one count of the header. A ring in the
team's own window, with nothing under way, asks no more than that its counts allow it. A waiting word is granted later, claims and awaits oldest first. -/
def Obligations.RingWords : Prop :=
  ∀ (s : State) (la : BitVec 4) (d a : BitVec 6),
    let x := (s.sreg (a + 1)).toNat
    let y := (s.sreg (a + 2)).toNat
    let all1 : W64 := 0xFFFFFFFFFFFFFFFF
    (Issues s → ScalarsReady s [d, a, a + 1, a + 2] →
      -- a ring wherever it lies
      (∀ (p : Spot) (s1 : State), Claims.RunOk s (s.sreg a) 64 64 → spotHere s (s.sreg a) 64 { r := true, w := true } = .ok (p, s1) →
        let at_ := p.place.1
        let pa := p.place.2
        let w (i : Nat) := s1.ringWord at_ pa i
        let valid (N : Nat) : Prop := w 1 = 0 ∧ w 5 % 64 = 0 ∧ w 6 ≤ 26 ∧ w 7 = 0 ∧ N = 2 ^ w 6
        let invalid : Prop := ¬ (w 1 = 0 ∧ w 5 % 64 = 0 ∧ w 6 ≤ 26 ∧ w 7 = 0)
        let older (fn : Nat) : Prop := ∃ o ∈ s1.rings, o.fn = fn ∧ o.at_ = at_ ∧ o.pa = pa
        let released : Prop := s1.mine.releasedBefore s.cur.strm (s.lastOp + 1) = true
        let ends (i : Instr) (b : State) (acq : Bool) (v : W64) : Prop := Gives i s (fun t =>
          OwnResult (if acq then b.dropL1 b.mine.core else b) t b.mine (b.myStream.setSreg d v false) (Claims.answered b b.me))
        let moves (i : Instr) (k new : Nat) (acq : Bool) (v : W64) : Prop :=
          ends i (s1.setRingWord s.mine.core at_ pa k new) acq v ∧ (s1.setRingWord s.mine.core at_ pa k new).ringWord at_ pa k = new % 2 ^ 64
        let waits (i : Instr) (fn g n : Nat) : Prop := Gives i s (fun t => ∃ b : State,
          b = { s1 with lastOp := s.lastOp + 1
                        rings := s1.rings ++ [{ r := s.cur, fn := fn, hdr := s.sreg a, at_ := at_, pa := pa, sd := d.toNat, g := BitVec.ofNat 64 g
                                                n := BitVec.ofNat 64 n, before := s.lastOp + 1 }] }
          ∧ OwnResult b t b.mine b.myStream { b.me with st := .blocked, wait := .ring })
        ((invalid ∨ ∃ N, valid N ∧ (x = 0 ∨ N < x)) → ends (.rclaim la d a) s1 false all1 ∧ ends (.rawait la d a) s1 false all1)
        ∧ (∀ N, valid N → 0 < x → x ≤ N →
            (w 0 + x ≤ N + w 4 → ¬ older 5 → moves (.rclaim la d a) 0 (w 0 + x) true (BitVec.ofNat 64 (w 0)))
            ∧ (N + w 4 < w 0 + x ∨ older 5 → waits (.rclaim la d a) 5 0 x)
            ∧ (w 3 + x ≤ w 2 → ¬ older 7 → moves (.rawait la d a) 3 (w 3 + x) true (BitVec.ofNat 64 (w 3)))
            ∧ (w 2 < w 3 + x ∨ older 7 → waits (.rawait la d a) 7 0 x))
        ∧ (x < w 2 ∨ w 0 < x + y ∨ y = 0 → ends (.rcommit la d a) s1 false 0)
        ∧ (x < w 4 ∨ w 3 < x + y ∨ y = 0 → ends (.rretire la d a) s1 false 0)
        ∧ (w 2 ≤ x → x + y ≤ w 0 → 0 < y →
            (w 2 = x → released → moves (.rcommit la d a) 2 (x + y) false 1) ∧ (w 2 ≠ x ∨ ¬ released → waits (.rcommit la d a) 6 x y))
        ∧ (w 4 ≤ x → x + y ≤ w 3 → 0 < y →
            (w 4 = x → released → moves (.rretire la d a) 4 (x + y) false 1) ∧ (w 4 ≠ x ∨ ¬ released → waits (.rretire la d a) 8 x y)))
      -- a ring in the team's own window
      ∧ ∀ off, Claims.Quiet s → s.aperturePlace s.cur.team (s.sreg a) 0 = some (s.cur.team, off) → (s.sreg a).toNat % 64 = 0 → off + 64 ≤ s.mine.w →
          let h (i : Nat) := natOfBytes (s.mine.winBytes (off + 8 * i) 8)
          let moves (i : Instr) (k new : Nat) (v : W64) : Prop := Gives i s (fun t => t.sreg d = v ∧ t.me = Claims.answered s s.me ∧ t.mem = s.mem
            ∧ natOfBytes (t.mine.winBytes (off + 8 * k) 8) = new % 2 ^ 64 ∧ ∀ q, q < off + 8 * k ∨ off + 8 * k + 8 ≤ q → t.mine.winByte q = s.mine.winByte q)
          (h 1 = 0 → h 5 % 64 = 0 → h 6 ≤ 26 → h 7 = 0 → 0 < x → x ≤ 2 ^ h 6 →
            (h 0 + x ≤ 2 ^ h 6 + h 4 → moves (.rclaim la d a) 0 (h 0 + x) (BitVec.ofNat 64 (h 0)))
            ∧ (h 3 + x ≤ h 2 → moves (.rawait la d a) 3 (h 3 + x) (BitVec.ofNat 64 (h 3))))
          ∧ (h 2 = x → x + y ≤ h 0 → 0 < y → moves (.rcommit la d a) 2 (x + y) 1)
          ∧ (h 4 = x → x + y ≤ h 3 → 0 < y → moves (.rretire la d a) 4 (x + y) 1))
    -- a word that has waited
    ∧ ∀ (q : RingWait), s.rings.find? (fun o => o.r == q.r) = some q → (q.at_ = .global → s.poisoned q.pa 64 = false) →
        (∀ u off, q.at_ = .window u off → (s.team u).live = true ∧ (s.team u).unrestored = []) → (s.team q.r.team).held = .active →
        let h (i : Nat) := s.ringWord q.at_ q.pa i
        let first : Prop := s.rings.find? (fun o => o.fn == q.fn && o.at_ == q.at_ && o.pa == q.pa) = some q
        let free : Prop := (s.team q.r.team).releasedBefore q.r.strm q.before = true
        -- the state in which the strand of q is the issuing one, and its count is moved
        let grants (k new : Nat) (acq : Bool) (v : W64) : Prop :=
          let b : State := State.setRingWord { s with cur := q.r, rings := s.rings.filter (fun o => o.r ≠ q.r) } (s.team q.r.team).core q.at_ q.pa k new
          b.ringWord q.at_ q.pa k = new % 2 ^ 64 ∧ ∃ z : State, exec (.ringWaitGrant q.r) s = .next { z with cur := s.cur }
            ∧ OwnResult (if acq then b.dropL1 b.mine.core else b) z b.mine (b.myStream.setSreg (BitVec.ofNat 6 q.sd) v false) (Claims.answered b b.me)
        (q.fn = 5 → first → h 1 = 0 → h 5 % 64 = 0 → h 6 ≤ 26 → h 7 = 0 → h 0 + q.n.toNat ≤ 2 ^ h 6 + h 4 → grants 0 (h 0 + q.n.toNat) true (BitVec.ofNat 64 (h 0)))
        ∧ (q.fn = 7 → first → h 1 = 0 → h 5 % 64 = 0 → h 6 ≤ 26 → h 7 = 0 → h 3 + q.n.toNat ≤ h 2 → grants 3 (h 3 + q.n.toNat) true (BitVec.ofNat 64 (h 3)))
        ∧ (q.fn = 6 → free → h 2 = q.g.toNat → grants 2 (q.g.toNat + q.n.toNat) false 1)
        ∧ (q.fn = 8 → free → h 4 = q.g.toNat → grants 4 (q.g.toNat + q.n.toNat) false 1)

/-- O44. Jobs, tasks and instruction stores (17 R303 to R310): a job record is made, waited for and counted; a task enters a deque and takes a core;
a thief takes the oldest that fits; a task that has retired counts itself out; ICINV. -/
def Obligations.JobsAndTasks : Prop :=
  ∀ (s : State) (la : BitVec 4) (d a : BitVec 6),
    let T := s.mine
    let e := s.sreg a
    let waits (i : Instr) (b : State) (w : Wait) : Prop := Gives i s (fun t => OwnResult b t b.mine b.myStream { b.me with st := .blocked, wait := w })
    let polls (b : State) (at_ : Space) (pa : Nat) : Prop :=
      (b.ringWord at_ pa 0 = 0 → Gives (.jobwait la d a) s (fun t =>
        OwnResult (b.dropL1 b.mine.core) t b.mine (b.myStream.setSreg d (BitVec.ofNat 64 (b.ringWord at_ pa 2)) false) b.me.advance))
      ∧ (b.ringWord at_ pa 0 ≠ 0 → waits (.jobwait la d a) b (.job at_ pa))
    let enters (b : State) (g : Nat) : Prop :=
      (∀ c, b.pushTo b.mine.core b.mine.ctx = some c → Gives (.spawn la d a) s (fun t =>
        OwnResult (b.push c g) t b.mine (b.myStream.setSreg d (b.grid g).id false) b.me.advance))
      ∧ (b.pushTo b.mine.core b.mine.ctx = none → waits (.spawn la d a) b (.push g))
    (Issues s →
      (ScalarsReady s [d, a] → Claims.RunOk s e 64 64 → ∀ p s1, spotHere s e 64 { r := false, w := true } = .ok (p, s1) →
        let b0 := s1.putSpot p (bytesOfNat 8 0 ++ bytesOfNat 8 (s.grid T.grid).id.toNat ++ List.replicate 48 0)
        let b := match p.place with | (.global, pa) => b0.refreshL1 T.core pa 64 | _ => b0
        Gives (.jobnew la d a) s (fun t => OwnResult b t b.mine (b.myStream.setSreg d e false) b.me.advance)
        ∧ ∀ pa, p = .mem [(pa, 64)] → b.memNat pa 8 = 0 ∧ b.memNat (pa + 8) 8 = (s.grid T.grid).id.toNat ∧ b.memNat (pa + 16) 8 = 0)
      ∧ ((∀ at_ pa, s.me.wait = .job at_ pa → (at_ = .global → s.poisoned pa 64 = false) → polls s at_ pa)
        ∧ ((∀ at_ pa, s.me.wait ≠ .job at_ pa) → ScalarsReady s [d, a] → T.enqueuing s.cur.strm = false → Claims.RunOk s e 64 64 →
            ∀ p s1, spotHere s e 64 { r := true, w := false } = .ok (p, s1) → (p.place.1 = .global → s1.poisoned p.place.2 64 = false) →
            polls s1 p.place.1 p.place.2))
      ∧ ((∀ g, s.me.wait = .push g → enters s g)
        ∧ ((∀ g, s.me.wait ≠ .push g) → ScalarsReady s [d, a, a + 1] → e.toNat % 64 = 0 → Claims.RunOk s (s.sreg (a + 1)) 64 64 →
            (T.releasedBefore s.cur.strm (releaseMark s) = false → waits (.spawn la d a) s (.drain (releaseMark s)))
            ∧ ∀ L K s1 p s2 g s3, T.releasedBefore s.cur.strm (releaseMark s) = true → readLaunch s e true = .ok (L, K, s1) →
                spotHere s1 (s.sreg (a + 1)) 64 { r := true, w := true } = .ok (p, s2) → s2.launchFrom L K true (some p.place) = some (g, s3) →
                exec (.spawn la d a) s = .next (spawnPush (s3.jobWord T.core p.place.1 p.place.2 0 (· + 1)) g d)))
      ∧ (ScalarsReady s [a, a + 1] →
          (T.releasedBefore s.cur.strm (releaseMark s) = false → waits (.icinv la a) s (.drain (releaseMark s)))
          ∧ (T.releasedBefore s.cur.strm (releaseMark s) = true →
              Gives (.icinv la a) s (fun t => OwnResult (s.dropCode T.ctx (e.toNat % 2 ^ 48) ((s.sreg (a + 1)).toNat % 2 ^ 40)) t s.mine s.myStream s.me.advance))))
    ∧ (∀ core place ctx (t : Task) s1, s.dispatchCtx core = some ctx → s.choose core ctx = some t → place.core = core →
        s.fitsAt ctx (s.grid t.grid).kernel place = true → s.startTeam t.grid 0 0 [s.lastTeam + 1] place = some s1 →
        exec (.taskDispatch core place) s = .next ((s1.onGrid t.grid (fun G => { G with placed := 1, handed := true })).onCore core (fun k =>
          { k with deque := takeTask (fun x => (s.grid x.grid).ctx == ctx) t.grid k.deque })))
    ∧ (∀ core victim ctx (t : Task), (s.core core).active.ctx = some ctx → core < 192 → victim < 192 → victim ≠ core → dieOf victim = dieOf core →
        (∀ x ∈ s.dequeOf core ctx, s.taskFits core x = false) → (s.dequeOf victim ctx).find? (s.taskFits core) = some t →
        (∀ v, v ≠ core → dieOf v = dieOf core → (∃ x ∈ s.dequeOf v ctx, s.taskFits core x = true) → stealKey core victim ≤ stealKey core v) →
        0 < s.dequeFree core ctx →
        -- the owner's dispatcher goes before a thief to the last entry of its deque (R309)
        let owners : Prop := (s.dequeOf victim ctx).length = 1 ∧ s.dispatchCtx victim = some ctx ∧ s.choose victim ctx = some t
        (owners → exec (.taskSteal core victim) s = .next s)
        ∧ (¬ owners → Gives (.taskSteal core victim) s (fun u => (u.core core).deque = t :: (s.core core).deque
          ∧ (u.core victim).deque = (s.core victim).deque.filter (fun x => x.grid ≠ t.grid) ∧ u.mem = s.mem)))
    ∧ (∀ t, let U := s.team t
        let G := s.grid U.grid
        U.live = true → U.retiring = true → U.accs = [] → U.engs = [] → U.deferred = [] → G.live = true → G.task = true → G.remote = none →
        exec (.taskRetire t) s = .next (((s.freeEngines t).jobEnds U.core G.job (G.killed || U.killed)).endTask t))

/-! The distributor, Farder's services, banks and power. -/

/-- O45. Teams are placed and end with their grid (20 R376, R379, R381): a team that starts has its place in the grid, its roles in v0, its roots at
their entries with every lane, its generators, and a record that counts no child. -/
def Obligations.PlacementOfTeams : Prop :=
  ∀ (s : State) (g : Nat),
    let G := s.grid g
    let rivals := (s.grids.map Prod.snd).filter Grid.waits
    let offered (h : Grid) : Prop := (∃ k ∈ rivals, k.urgent = true) → h.urgent = true
    (∀ lin rank cluster (p : Place) s1, s.startTeam g lin rank cluster p = some s1 →
      let t := s.lastTeam + 1
      let T := s1.team t
      let d := G.launch.gdim
      s1.lastTeam = t ∧ T.live = true ∧ T.held = .active ∧ T.core = p.core ∧ T.slot = p.slot ∧ T.ctx = G.ctx ∧ T.grid = g ∧ T.crank = rank
      ∧ T.tidx = (lin % d.1, lin / d.1 % d.2.1, lin / d.1 / d.2.1) ∧ T.gdim = d ∧ T.lanes = G.kernel.lanes ∧ T.w = G.kernel.spad
      ∧ T.cs.root.pc = G.kernel.centry ∧ T.cs.root.mask = firstLanes G.kernel.lanes ∧ T.cs.root.st = .running ∧ T.cs.root.cnt = G.kernel.regs
      ∧ (T.as.present = true ↔ G.kernel.aentry ≠ 0) ∧ (G.kernel.aentry ≠ 0 → T.as.root.pc = G.kernel.aentry ∧ T.cs.root.wm = G.kernel.regs)
      ∧ (∀ l, l < G.kernel.lanes → T.vr 0 l = (G.kernel.roles.getD (l / T.gw) 0).setWidth 32 ∧ T.gen l = BitVec.ofNat 64 (l + 1) * 0xD1B54A33D1B54A33)
      ∧ s1.memNat T.record 8 = 0 ∧ s1.memNat (T.record + 8) 8 = 0
      ∧ SMap.get 0 (s1.core p.core).active.slots p.slot = t
      -- the start is an acquire at its core: its L1D keeps private lines alone (18 R336; 19 R345)
      ∧ ∀ x ∈ (s1.core p.core).l1d, x ∈ (s.core p.core).l1d ∧ x.1 ∈ s1.privateAt p.core)
    ∧ (∀ places u s1, Grid.waits G = true → offered G → placesShape G.launch.clus places = true → (∀ p ∈ places, s.fitsAt G.ctx G.kernel p = true) →
        (∀ h ∈ rivals, offered h → Grid.before h G = true → s.unitFits h = false) → nthUnit G.launch G.placed = some u →
        s.startUnit g (u * clusTeams G.launch.clus) ((List.range (clusTeams G.launch.clus)).map (fun r => s.lastTeam + 1 + r)) 0 places = some s1 →
        exec (.unitPlacement g places) s = .next (s1.onGrid g (fun G => { G with placed := G.placed + 1, since := s.clock, urgent := false })))
    ∧ (Grid.waits G = true → G.since + 1048576 ≤ s.clock → exec (.gridUrgent g) s = .next (s.onGrid g (fun G => { G with urgent := true })))
    ∧ (G.live = true → G.task = false → G.handed = true → G.launch.gdim.1 * G.launch.gdim.2.1 * G.launch.gdim.2.2 ≤ G.retired →
        exec (.gridEnd g) s = .next (((s.childEnds G).dropGrid g).succeed g))
    ∧ (∀ r, s.candidate r = true → (s.strand r).st = .running → (s.strand r).readyAt + 2048 ≤ s.clock → exec (.candidateUrgent r) s = .next (s.onStrand r (fun x => { x with urgent := true })))
    ∧ (∀ r, (s.team r.team).held = .active → (s.strand r).wait = .yield → (s.strand r).yieldLeft = 0 → exec (.yieldExpiry r) s
        = .next (s.onStrand r (fun x => { x with st := .running, wait := .nothing, readyAt := s.clock, urgent := false })))

/-- O46. The resume service (11 R217, R223, R225; 19 R362): held records are written as they come up; an action that is permitted on a strand's oldest
record takes effect once the team stands in its core. After RESUME of its last record the strand goes on at SPC; SKIP passes the word. -/
def Obligations.ResumeService : Prop :=
  ∀ (s : State) (ctx seq : Nat) (q : TrapRec) (o : ResumeOpts),
    let r := q.strand
    let T := s.team q.team
    let ready := s.heldTraps.filter (fun h => h.ctxid == ctx
      && (match s.heldTraps.find? (fun k => k.sameLine h) with | some k => k.rank == h.rank | none => false) && s.recReady h)
    let offered (a : ResumeAct) : Prop := (s.ctx ctx).recs.find? (fun h => h.seq == seq && h.todo.isNone) = some q ∧ permitted q a = true
      ∧ T.live = true ∧ T.retiring = false ∧ T.held = .active ∧ ((s.strand r).st = .parked ∨ (s.strand r).st = .waiting)
    let oldest : Prop := ∃ h, oldestRec (s.openRecs ctx r) = some h ∧ h.rank = q.rank
    let own : Prop := q.ctxid = ctx ∧ ∀ h ∈ s.heldTraps, h.team = q.team → h.ctxid = ctx
    (ready ≠ [] → ∃ h ∈ ready, exec (.trapQueueDrain ctx) s
      = .next ((State.writeRec { s with heldTraps := s.heldTraps.filter (fun k => k.rank ≠ h.rank) } h).drew 1))
    -- what Farder changes first
    ∧ ((∀ i v, (((s.edit r (.scalar i v)).team r.team).stream r.strm).sreg i = v ∧ (((s.edit r (.scalar i v)).team r.team).stream r.strm).sref i = false)
        ∧ (∀ v l w, v.toNat < 120 → l < T.lanes → ((s.edit r (.vector v l w)).team r.team).vr v.toNat l = w)
        ∧ (∀ p v l, p ≠ 0 → l < T.lanes → l < 1024 → (((s.edit r (.predicate p v)).team r.team).pred p).getLsbD l = v.getLsbD l)
        ∧ ∀ e, (s.edit r e).mem = s.mem ∧ ∀ u, u ≠ r.team → (s.edit r e).team u = s.team u)
    ∧ (offered .resume → oldest → exec (.resume ctx seq o) s = .next ((o.edits.foldl (fun s e => s.edit r e) s).resumeRec q false o)
        ∧ ((s.strand r).st = .parked → (s.strand r).act = none → own → (∀ h ∈ s.openRecs ctx r, h.rank = q.rank) →
            ∃ u : State, s.resumeRec q false o = u.accMoved q.team ∧ u.mem = s.mem ∧ (u.strand r).st = .running ∧ (u.strand r).pc = q.spc
              ∧ (u.strand r).mask = (s.strand r).mask ∧ (u.strand r).step = o.step ∧ (u.strand r).freeze = o.freeze ∧ u.openRecs ctx r = []))
    ∧ (offered .skip → oldest → exec (.skip ctx seq o) s = .next ((o.edits.foldl (fun s e => s.edit r e) s).resumeRec q true o)
        ∧ ((s.strand r).st = .parked → (s.strand r).act = none → (s.strand r).replay = none → q.defer = false → own →
            (∀ h ∈ s.openRecs ctx r, h.rank = q.rank) → ∃ u : State, s.resumeRec q true o = u.accMoved q.team ∧ u.mem = s.mem
              ∧ (u.strand r).st = .running ∧ (u.strand r).pc = q.spc ∧ (u.strand r).skipAt = some q.pc ∧ u.openRecs ctx r = []))
    ∧ (offered .kill → exec (.kill ctx seq) s = .next (s.killRec q))
    ∧ (offered .killteam → T.inCall = false → exec (.killteam ctx seq) s
        = .next (((s.dropRecs q.ctxid (fun h => h.team == q.team)).onTeam q.team (fun T => { T with killed := true })).retireTeam q.team))
    -- PUBLISH: the walks join those of the die; the strand resumes after them
    ∧ (offered .publish → oldest → (∀ e ∈ T.engs, ∀ c k p, e.kind ≠ .repub c k p) → Gives (.resumePublish ctx seq) s (fun u =>
        u.walks = s.walks ++ [(dieOf T.core, q.team, s.lastOp + 1)] ∧ u.mem = s.mem ∧ (u.strand r) = s.strand r
        ∧ ∃ e, (u.team q.team).engs = T.engs ++ [e] ∧ e.id = s.lastOp + 1 ∧ e.strm = q.strm ∧ e.kind = .repub q.ctxid q.rank q.opts ∧ e.stage = .accepted))
    ∧ (∀ (e : EngOp) rank, (s.ctx ctx).recs.find? (fun h => h.rank == rank) = some q → s.republished q.team e ctx rank o none
        = ((o.edits.foldl (fun s e => s.edit r e) (s.onTeam q.team (fun T => T.dropEng e.id))).resumeRec { q with todo := none } false o).finishTeam q.team)

/-- O47. Pre-emption and power (11 R233, R235, R238; 13 R241, R267; 08 R178; 17 R293): the banks of a core are exchanged; an outgoing bank is saved
with its teams and their quad resources are free; a saved bank is loaded where its teams fit; windows come back row set by row set. -/
def Obligations.BanksAndPower : Prop :=
  ∀ (s : State) (core : Nat),
    let k := s.core core
    (∀ cores : List Nat, cores.Nodup → (∀ c ∈ cores, s.canSwitch c = true ∧ s.clusterIn cores c = true) →
      let s1 := cores.foldl State.exchange s
      exec (.bankSwitch cores) s = .next (((cores.filterMap (fun c => (s1.core c).active.ctx)).eraseDups).foldl State.pending s1))
    ∧ (((s.exchange core).core core).active = { k.shadow with dSince := none } ∧ ((s.exchange core).core core).shadow = { k.active with dSince := none }
        ∧ ((s.exchange core).core core).saving = !k.active.slots.isEmpty ∧ ((s.exchange core).core core).readyAt = s.clock + 40 ∧ (s.exchange core).mem = s.mem)
    ∧ (∀ ctx, k.shadow.ctx = some ctx → k.saving = true → (∀ p ∈ k.shadow.slots, (s.team p.2).quiet = true) → s.arenaStands ctx (s.ctx ctx).freeImage k.shadow = true →
        Gives (.spillSave core) s (fun u => (u.core core).shadow = Bank.empty ∧ (u.core core).saving = false ∧ (u.core core).active = k.active
          ∧ (u.ctx ctx).saved = (s.ctx ctx).saved ++ [{ image := (s.ctx ctx).freeImage, bank := k.shadow }] ∧ u.mem = (s.spill ctx (s.ctx ctx).freeImage k.shadow).mem
          ∧ ∀ t, (∃ p ∈ k.shadow.slots, p.2 = t) → u.team t = { s.team t with held := .saved }))
    -- what the spill engine writes: the records of the split table, the registers and the windows, at their places
    ∧ (let put (b : Bank) (off : Nat) (bs : List Byte) : Prop := (off, bs) ∈ s.coreImage b
       ∀ b : Bank, put b 0x21000 ((List.range 256).flatMap (fun i => bytesOfNat 160 (s.recordNat (SMap.get Strand.free b.split i))))
        ∧ ∀ p ∈ b.slots, let T := s.team p.2
          put b (0x200000 + T.spBase) (T.winBytes 0 T.w)
          ∧ ∀ g r, g < T.ngroups → r < 32 + 8 * T.heldBlocks → put b (0xC8000 + 128 * (120 * (s.groupBase b p.2 + g) + r))
              ((List.range T.gw).flatMap (fun j => bytesOfNat 4 (T.vr r (T.gw * g + j)).toNat)))
    ∧ (∀ ctx image (b : SavedBank) (places : List (Nat × Place)), (s.ctx ctx).saved.find? (fun b => b.image == image) = some b → core < 192 →
        k.shadow.slots = [] → k.saving = false → s.placesFit core (b.bank.slots.map Prod.snd) places = true →
        (b.bank.slots.map Prod.snd).foldl (fun n t => n + (s.team t).heldBlocks * (s.team t).ngroups) 0 ≤ k.shadow.pool →
        (∀ p ∈ b.bank.slots, s.keepsShape p.2 core = true) →
        (let Q := s.quad (quadOf core)
         let use := (b.bank.slots.map Prod.snd).foldl (fun n t => let u := (s.team t).quadUse; (n.1 + u.1, n.2.1 + u.2.1, n.2.2 + u.2.2)) (0, 0, 0)
         use.1 ≤ Q.entries ∧ use.2.1 ≤ Q.tiles ∧ use.2.2 ≤ Q.contexts) → s.arenaStands ctx image b.bank = true →
        Gives (.shadowLoad core ctx image places) s (fun u => (u.core core).active = k.active ∧ (u.core core).shadow.loaded = true
          ∧ (u.core core).shadow.split = b.bank.split ∧ (u.core core).shadow.reqs = k.shadow.reqs ++ b.bank.reqs
          ∧ (u.core core).shadow.pool = k.shadow.pool - (b.bank.slots.map Prod.snd).foldl (fun n t => n + (s.team t).heldBlocks * (s.team t).ngroups) 0
          ∧ (u.ctx ctx).saved = (s.ctx ctx).saved.filter (fun e => e.image ≠ image) ∧ u.mem = s.mem))
    ∧ (∀ t set, let T := s.team t
        T.live = true → T.held = .active → T.core = core → k.saving = false → set ∈ T.unrestored →
        (set ∈ s.stalledSets t ∨ ((∀ p ∈ k.active.slots, s.stalledSets p.2 = []) ∧ T.unrestored.head? = some set)) →
        exec (.windowRestore t set) s = .next (s.onTeam t (fun T => { T with unrestored := T.unrestored.filter (fun r => r ≠ set) })))
    ∧ (∀ stripe c, SMap.get 0 k.stripes stripe = c + 2 → c + 2048 ≤ s.clock →
        Gives (.stripeWake core stripe) s (fun u => SMap.get 0 (u.core core).stripes stripe = 1 ∧ u.mem = s.mem ∧ u.teams = s.teams))
    ∧ (∀ slice pair, slice < 384 → pair < 8 →
        ((∀ p ∈ s.gatedWays, p.1 ≠ 8 * slice + pair) → exec (.wayGate slice pair) s =
          .next { s with l2 := s.l2.filter (fun l => !(l.slice == slice && l.way / 2 == pair)), gatedWays := SMap.put s.gatedWays (8 * slice + pair) 0 })
        ∧ ∀ c, s.gatedWays.find? (fun p => p.1 == 8 * slice + pair) = some (8 * slice + pair, c) →
            (c = 0 → exec (.wayWake slice pair) s = .next { s with gatedWays := SMap.put s.gatedWays (8 * slice + pair) (s.clock + 1) })
            ∧ (0 < c → c + 1023 ≤ s.clock → exec (.wayWake slice pair) s = .next { s with gatedWays := SMap.erase s.gatedWays (8 * slice + pair) }))

/-! The hub: registers, firmware, attestation, ports and errors. -/

/-- O48. The hub's registers (23 R396, R398, R400; 11 R227, R230): a read of a free SEMA takes it, its holder frees it; a guarded register is written
by the holder and a write by another is logged; the Shutter fires, latches 32 cycles later and is rearmed; a timely HEARTBEAT makes a slot good. -/
def Obligations.GuardedRegisters : Prop :=
  ∀ (s : State) (who : Requester),
    let h := s.hub
    let no (w : Requester) : Nat := match w with | .port0 => 0 | .port1 => 1 | .harts => 2
    let linked : Prop := match who with | .port0 => h.portUp.1 = true | .port1 => h.portUp.2 = true | .harts => True
    let holder : Prop := h.semaHeld = true ∧ h.semaHolder = who
    let served : Prop := ∀ k, h.semaAt = some (s.now, k) → k ≤ no who
    let logged (place : Nat) : Out := .next { s with hub := { h with errLog := h.errLog ++ [(1, place)] } }
    let fires (u : State) (h2 : Hub) (src : Nat) : Prop :=
      (h2.shLatched = true → u = { s with hub := { h2 with shMiss := min 255 (h2.shMiss + 1) } })
      ∧ (h2.shLatched = false → h2.shPending = none → u = { s with hub := { h2 with shSrc := src, shPending := some s.now } })
    -- SEMA
    (linked → served → h.semaHeld = false → exec (.semaRead who) s = .next { s with hub :=
        { h with semaHeld := true, semaHolder := who, semaRead := BitVec.ofNat 64 (8 + 2 * no who + 1), semaAt := some (s.now, no who) } })
    ∧ (linked → served → h.semaHeld = true → exec (.semaRead who) s = .next { s with hub :=
        { h with semaRead := BitVec.ofNat 64 (8 + 2 * no h.semaHolder), semaAt := some (s.now, no who) } })
    ∧ (linked → holder → exec (.semaWrite who) s = .next { s with hub := { h with semaHeld := false } })
    ∧ (¬ holder → exec (.semaWrite who) s = .next s)
    -- comparators: four registers to each, at 32 bytes
    ∧ (∀ core reg val, core < 192 → reg < 32 →
        (who = .harts ∨ (linked ∧ holder) → Gives (.comparatorWrite who core reg val) s (fun u =>
          let c := SMap.get Comparator.reset (s.core core).cmps (reg / 4)
          let c2 := SMap.get Comparator.reset (u.core core).cmps (reg / 4)
          c2.regs = { ctl := if reg % 4 = 0 then val else c.regs.ctl, lo := if reg % 4 = 1 then val else c.regs.lo,
                      hi := if reg % 4 = 2 then val else c.regs.hi, qual := if reg % 4 = 3 then val else c.regs.qual }
          ∧ (∀ clock nonce, s.clock + 8 ≤ clock → c2.setting clock nonce = c2.regs)
          ∧ (∀ clock nonce, clock < s.clock + 8 → c2.setting clock nonce = c2.regs ∨ c2.setting clock nonce = c.regs
              ∨ ∃ p ∈ c.olds, clock < p.2 + 8 ∧ c2.setting clock nonce = p.1)
          ∧ (∀ i, i ≠ reg / 4 → SMap.get Comparator.reset (u.core core).cmps i = SMap.get Comparator.reset (s.core core).cmps i) ∧ u.mem = s.mem ∧ u.hub = h))
        ∧ (who ≠ .harts → linked → ¬ holder → exec (.comparatorWrite who core reg val) s = logged (0x10000100 + 0x10000 * core + 8 * reg)))
    -- SHCTL
    ∧ (∀ val : W64, linked → ¬ holder → (val.getLsbD 0 = true → exec (.shctlFire who val) s = logged 0x2000)
        ∧ (val.getLsbD 8 = true → val.getLsbD 0 = false → exec (.shctlRearm who val) s = logged 0x2000)
        ∧ (val.getLsbD 8 = false → val.getLsbD 0 = false → exec (.registerWrite who 0x2000 val) s = logged 0x2000))
    ∧ (∀ val : W64, linked → holder →
        let h1 := { h with shCause := val.extractLsb' 24 8, shEtrap := val.getLsbD 2, shEcmp := val.getLsbD 1 }
        (val.getLsbD 0 = true → val.getLsbD 8 = false → Gives (.shctlFire who val) s (fun u => fires u h1 3))
        ∧ (val.getLsbD 8 = true → val.getLsbD 0 = false → exec (.shctlRearm who val) s = .next { s with hub := { h1 with shLatched := false, shMiss := 0 } })
        ∧ (val.getLsbD 8 = false → val.getLsbD 0 = false → exec (.registerWrite who 0x2000 val) s = .next { s with hub := h1 }))
    ∧ (∀ t, h.shPending = some t → t + 32 ≤ s.now → Gives .shutterLatch s (fun u =>
        u.hub = { h with shPending := none, shLatched := true, snaps := u.hub.snaps } ∧ u = { s with hub := u.hub } ∧ u.hub.snaps.length = 192
        ∧ ∀ c, c < 192 → ∃ n ∈ u.hub.snaps, n.core = c ∧ n.tlbMisses = (s.core c).tlbMisses ∧ n.l1dMisses = (s.core c).l1dMisses
            ∧ n.rootPcs = (s.core c).active.slots.map (fun p => (p.1, (s.team p.2).cs.root.pc, (s.team p.2).as.root.pc))))
    -- firmware on trial: 60 s at 1.3 GHz
    ∧ (h.booted = true → h.trial = true →
        (s.now ≤ h.leftReset + 78000000000 → exec .heartbeat s = .next { s with hub :=
          { h with trial := false, slotGood := if h.farderB then (h.slotGood.1, true) else (true, h.slotGood.2) } })
        ∧ (h.leftReset + 78000000000 < s.now → exec .heartbeatTimeout s = .next (State.reboot { s with hub :=
          { h with slotFailed := if h.farderB then (h.slotFailed.1, true) else (true, h.slotFailed.2), farderNext := !h.farderB } })))

/-- O49. Firmware, attestation and ports (23 R395 to R399, R402): the security controller boots a slot that it verifies, else recovery, in which only
download is served; SPDM requests are answered in their order; links come up and go down; power events. Resetting memory is log 4, the SPDM order log 6. -/
def Obligations.FirmwareAndPorts : Prop :=
  ∀ (s : State) (port : Nat),
    let h := s.hub
    let sound (i : FwImage) : Prop := i.signed = true ∧ h.svnMin ≤ i.svn
    let slotF (b : Bool) : Prop := sound (if b then h.farder.2 else h.farder.1) ∧ (if b then h.slotFailed.2 else h.slotFailed.1) = false
    let slotC (b : Bool) : Prop := sound (if b then h.sched.2 else h.sched.1)
    let linked : Prop := port ≤ 1 ∧ (if port = 0 then h.portUp.1 else h.portUp.2) = true
    let answers (i : Instr) (level : Nat) (r : SpdmReply) : Prop := Gives i s (fun u =>
      SMap.get 0 u.hub.spdm port = level ∧ (∀ p, p ≠ port → SMap.get 0 u.hub.spdm p = SMap.get 0 h.spdm p)
      ∧ u = { s with hub := { h with spdm := u.hub.spdm, replies := h.replies ++ [r] } })
    let measured (i : Nat) : BitVec 512 :=
      if i = 3 then (if h.farderB then h.farder.2 else h.farder.1).measure
      else if i = 4 then (if h.schedB then h.sched.2 else h.sched.1).measure
      else if i = 5 then Config.fixedMeasure (5 + h.svnMin)
      else if i = 6 then Config.devidMeasure (BitVec.ofNat 64 (0x4C4E076800020000 + (if Config.stepping % 3 = 0 then 0x00 else if Config.stepping % 3 = 1 then 0x01 else 0x10) * 0x1000000))
      else Config.fixedMeasure i
    -- boot
    Gives .packageReset s (fun u => u.mem = [] ∧ u.teams = [] ∧ u.clock = 0 ∧ u.hub.svnMin = h.svnMin ∧ u.hub.farder = h.farder ∧ u.hub.sched = h.sched
      ∧ u.hub.semaHeld = false ∧ u.hub.shLatched = false
      ∧ (∀ f c, slotF f → (f = h.farderNext ∨ ¬ slotF h.farderNext) → slotC c → (c = h.schedNext ∨ ¬ slotC h.schedNext) →
          u.hub.booted = true ∧ u.hub.recovery = false ∧ u.hub.farderB = f ∧ u.hub.schedB = c ∧ u.hub.trial = !(if f then h.slotGood.2 else h.slotGood.1))
      ∧ (((∀ f, ¬ slotF f) ∨ (∀ c, ¬ slotC c)) → u.hub.booted = false ∧ u.hub.recovery = true))
    ∧ (linked → h.recovery = true → ∀ b image,
        (exec (.imageDownload port true b image) s = .next { s with hub := { h with sched := if b then (h.sched.1, image) else (image, h.sched.2), schedNext := b } })
        ∧ exec (.imageDownload port false b image) s = .next { s with hub :=
            { h with farder := (if b then (h.farder.1, image) else (image, h.farder.2)), farderNext := b, slotFailed := (if b then (h.slotFailed.1, false) else (false, h.slotFailed.2)), slotGood := (if b then (h.slotGood.1, false) else (false, h.slotGood.2)) } })
    ∧ (h.recovery = true → ∀ i ∈ [Instr.getVersion port, .getCapabilities port, .negotiateAlgorithms port, .getDigests port, .getCertificate port, .challenge port 0,
        .getMeasurements port 255], exec i s = .next s)
    -- attestation
    ∧ (linked → h.recovery = false → let l := SMap.get 0 h.spdm port
        answers (.getVersion port) 1 { port := port, request := 0x84, digests := [], bytes := [] }
        ∧ (1 ≤ l → answers (.getCapabilities port) (max l 2) { port := port, request := 0xE1, digests := [], bytes := [] })
        ∧ (2 ≤ l → answers (.negotiateAlgorithms port) (max l 3) { port := port, request := 0xE3, digests := [], bytes := [] })
        ∧ (3 ≤ l → answers (.getDigests port) l { port := port, request := 0x81, digests := [], bytes := [Config.spdmBytes 0x81 0] }
            ∧ answers (.getCertificate port) l { port := port, request := 0x82, digests := [], bytes := [Config.spdmBytes 0x82 0] }
            ∧ (∀ n, answers (.challenge port n) l { port := port, request := 0x83, digests := [], bytes := [Config.spdmBytes 0x83 n] })
            ∧ (∀ i, 1 ≤ i → i ≤ 6 → answers (.getMeasurements port i) l { port := port, request := 0xE0, digests := [measured i], bytes := [Config.spdmBytes 0xE0 s.nonce] })
            ∧ answers (.getMeasurements port 255) l { port := port, request := 0xE0, digests := [measured 1, measured 2, measured 3, measured 4, measured 5, measured 6], bytes := [Config.spdmBytes 0xE0 s.nonce] })
        ∧ (l < 3 → answers (.getDigests port) l { port := port, request := 0, digests := [], bytes := [] }))
    -- links and power
    ∧ (∀ rate width, 1 ≤ rate → rate ≤ 6 → width ∈ [1, 2, 4, 8, 16] →
        exec (.portLinkUp 0 rate width) s = .next { s with hub := { h with portUp := (true, h.portUp.2), portRate := ((rate, width), h.portRate.2) } }
        ∧ exec (.portLinkUp 1 rate width) s = .next { s with hub := { h with portUp := (h.portUp.1, true), portRate := (h.portRate.1, (rate, width)) } })
    ∧ exec (.portLinkDown 0) s = .next { s with hub := { h with semaHeld := h.semaHeld && decide (h.semaHolder ≠ .port0), portUp := (false, h.portUp.2), portRate := ((0, 0), h.portRate.2) } }
    ∧ exec (.portLinkDown 1) s = .next { s with hub := { h with semaHeld := h.semaHeld && decide (h.semaHolder ≠ .port1), portUp := (h.portUp.1, false), portRate := (h.portRate.1, (0, 0)) } }
    ∧ (∀ n, exec (.powerHoldoff n) s = .next { s with hub := { h with holdoff := h.holdoff + n } })
    ∧ Gives .thermalTrip s (fun u => u.hub.railsOn = false ∧ ∃ l, u.hub.errLog = l ++ [(3, 0)])

/-! Errors, links and the fabric's events. -/

/-- O50. Errors and links (17 R311, R312; 18 R315; 23 R403; 24 R405, R418): a corrected error changes nothing but a count; one in a dirty line poisons its
sector; a die link retries, the 64th time it goes down; an SRAM error that cannot be corrected is a machine-check of the strand. -/
def Obligations.ErrorsAndLinks : Prop :=
  ∀ (s : State) (pa link : Nat) (r : StrandRef) (lanes : Mask),
    let line (l : L2Line) : Bool := runsMeet l.bytes [(pa, 1)]
    let sector (u : State) : Prop := (∀ q, u.poisoned q 1 = true ↔ s.poisoned q 1 = true ∨ q / 128 = pa / 128) ∧ u = { s with poison := u.poison }
    let counted : State := { s with hub := { s.hub with errors := s.hub.errors + 1 } }
    let x := s.strand r
    let n := SMap.get 0 s.links link
    -- the L2, and HBM
    ((∃ l ∈ s.l2, line l = true) → (∀ d, exec (.l2EccError pa d .corrected) s = .next counted)
        ∧ exec (.l2EccError pa false .uncorrectable) s = .next { s with l2 := s.l2.filter (fun l => !line l) }
        ∧ (∀ d, exec (.l2EccError pa d .refetch) s = .next { s with l2 := s.l2.filter (fun l => !line l) })
        ∧ Gives (.l2EccError pa true .uncorrectable) s sector)
    ∧ (pa < 0xC000000000 → Gives (.hbmEccError pa .uncorrectable) s sector ∧ Gives (.patrolScrub pa .uncorrectable) s sector)
    ∧ (∀ k, k ≠ ErrorKind.uncorrectable → exec (.hbmEccError pa k) s = .next s ∧ exec (.patrolScrub pa k) s = .next s)
    -- the links between dies: each retry is of the flit before it, or of another
    ∧ (n < 63 → ∃ m, (m = n + 1 ∨ m = 1) ∧ ∀ ops, exec (.dieLinkCrcError link ops) s = .next { s with links := SMap.put s.links link m, nonce := s.nonce + 1 })
    ∧ (n = 63 → ∃ m, (m = 64 ∨ m = 1) ∧ ∀ t op (e : EngOp), (s.team t).acc? op = none → (s.team t).eng? op = some e → e.id = op → e.stage = .accepted →
        (∀ c k o, e.kind ≠ .repub c k o) → Gives (.dieLinkCrcError link [(t, op)]) s (fun u => SMap.get 0 u.links link = m ∧ (m = 1 → (u.team t).eng? op = some e) ∧ (m = 64 →
          u.hub = { s.hub with errLog := s.hub.errLog ++ [(2, link)], told := s.hub.told ++ [(2, link)] }
          ∧ (u.team t).eng? op = some { e with stage := .done, fault := some { cause := 0x3A, detail := 0, code := 0, addr := 0 } })))
    ∧ (n = 63 → ∃ m, (m = 64 ∨ m = 1) ∧ ∀ t op (w : RingWait), (s.team t).acc? op = none → (s.team t).eng? op = none →
        s.rings.find? (fun w => w.r.team == t && w.before == op) = some w → Gives (.dieLinkCrcError link [(t, op)]) s (fun u => SMap.get 0 u.links link = m
          ∧ (m = 64 → u.rings = s.rings.filter (fun v => v.r ≠ w.r) ∧ (u.strand w.r).st = .parked ∧ u.lastTrap = s.lastTrap + 1)))
    -- the links of the fabric
    ∧ (link < 32 → Gives (.fabricLinkRetryLimit link) s (fun u => SMap.has u.removed link = true ∧ (∀ k, k ≠ link → SMap.has u.removed k = SMap.has s.removed k)
        ∧ u = { s with removed := u.removed }))
    ∧ (link < 32 → SMap.has s.removed link = false → Gives (.fabricFlitCrcError link) s (fun u =>
        SMap.get 0 u.fabLinks link = SMap.get 0 s.fabLinks link + 1 ∧ u = { s with fabLinks := u.fabLinks }))
    -- SRAM
    ∧ exec (.sramEccError (some r) lanes .corrected) s = .next counted ∧ exec (.sramEccError (some r) lanes .refetch) s = .next s
    ∧ (x.st = .running → lanes &&& x.mask ≠ 0 → s.untranslated r = false → exec (.sramEccError (some r) lanes .uncorrectable) s
        = .next (s.takeTrap r { cause := 0x3A, detail := 0, code := 0, mask := lanes &&& x.mask, addr := 0 } x.pc x.pc))

/-- O51. The fabric's events (24 R406, R407, R409 to R411, R414, R415, R418): what another package writes lands in a window or nowhere; what comes back
ends the operation; a remote task's end counts its job down; groups and windows are registered. -/
def Obligations.FabricEvents : Prop :=
  ∀ (s : State) (g : W32) (c : Nat) (a : W64) (f : Leaf) (t op : Nat) (e : EngOp) (v : FabView),
    let C := s.ctx c
    let T := s.team t
    let pa := f.pa (va48 a)
    let within (n perm : Nat) : Prop := ∃ w ∈ C.windows, w.va ≤ a.toNat ∧ a.toNat + n ≤ w.va + w.len ∧ w.perms.getLsbD perm = true
    let incoming (k : RemoteKind) : Instr := .remoteOperation { group := g, addr := a, kind := k, origin := none }
    let looped (k : RemoteKind) : Instr := .remoteOperation { group := g, addr := a, kind := k, origin := some (t, op) }
    let updates (i : Instr) (n new : Nat) : Prop := Gives i s (fun u => u.memNat pa n = new ∧ (∀ q, q < pa ∨ pa + n ≤ q → Memory.read u.mem q = Memory.read s.mem q) ∧ u.teams = s.teams)
    let fails (f : UnitFault) : State := s.onTeam t (fun T => T.putEng { e with stage := .done, fault := some f })
    let fabric (d : Nat) : UnitFault := { cause := 0x3B, detail := d, code := v.pkg, addr := v.remote }
    let able : Prop := s.removed.length ≠ 32 ∧ (s.ctx T.ctx).group ≠ none
    let sends : Prop := T.eng? op = some e ∧ e.id = op ∧ e.fab = some v ∧ e.stage = .accepted ∧ s.fabReady t e v = true
    -- from other packages
    (s.member (some g) = some c → s.walk c (va48 a) = some f →
        (∀ bs, bs ≠ [] → a.toNat % 4096 + bs.length ≤ 4096 →
          (within bs.length 1 → Gives (incoming (.put bs)) s (fun u => u.teams = s.teams ∧
            ∀ q, Memory.read u.mem q = if pa ≤ q ∧ q < pa + bs.length then bs.getD (q - pa) 0 else Memory.read s.mem q))
          ∧ (¬ within bs.length 1 → exec (incoming (.put bs)) s = .next s))
        ∧ (∀ n, 0 < n → a.toNat % 4096 + n ≤ 4096 → Gives (incoming (.get n)) s (fun u => u.mem = s.mem ∧ u.teams = s.teams))
        ∧ (a.toNat % 8 = 0 → s.poisoned pa 8 = false → let old := s.memNat pa 8
            (within 8 2 → ∀ x y : W64,
              updates (incoming (.sig 0 x)) 8 ((old + x.toNat) % 2 ^ 64) ∧ updates (incoming (.sig 1 x)) 8 x.toNat
              ∧ updates (incoming (.atom 0 x y)) 8 ((old + x.toNat) % 2 ^ 64) ∧ updates (incoming (.atom 1 x y)) 8 x.toNat
              ∧ updates (incoming (.atom 2 x y)) 8 (if old = y.toNat then x.toNat else old)
              ∧ updates (incoming (.atom 3 x y)) 8 (if (BitVec.ofNat 64 old).toInt ≤ x.toInt then x.toNat else old)
              ∧ updates (incoming (.atom 4 x y)) 8 (if (BitVec.ofNat 64 old).toInt ≤ x.toInt then old else x.toNat))
            ∧ (¬ within 8 2 → ∀ x, exec (incoming (.sig 0 x)) s = .next s)))
    ∧ (s.member (some g) = none → ∀ k, exec (incoming k) s = .next s)
    -- this package's own operations, looped back
    ∧ (sends → v.fn = 5 → v.pkg = Config.packageNumber.toNat → (s.ctx T.ctx).group = some g →
        (s.member (some g) = none → ∀ k, exec (looped k) s = .next (fails (fabric 1)))
        ∧ (s.member (some g) = some c → v.remote = a → ¬ within 8 2 → ∀ k, exec (looped k) s = .next (fails (fabric 2)))
        ∧ (s.member (some g) = some c → v.remote = a → within 8 2 → s.walk c (va48 a) = some f → a.toNat % 8 = 0 → s.poisoned pa 8 = false → ∀ k,
            Gives (looped k) s (fun u => u.memNat pa 8 = (if ctlOp v.ctl = 0 then (s.memNat pa 8 + v.loc.toNat) % 2 ^ 64 else v.loc.toNat)
              ∧ (u.team t).eng? op = some { e with stage := .done })))
    -- other packages' answers
    ∧ (sends → v.pkg ≠ Config.packageNumber.toNat → able →
        (v.fn = 5 ∨ v.fn = 3 → (∀ bs, exec (.fabricOperationComplete t op (.ok bs)) s = .next (s.engDone t e 0)))
        ∧ (v.fn = 5 → ∀ d bs, 1 ≤ d → d ≤ 4 → exec (.fabricOperationComplete t op (.err d bs)) s = .next (fails (fabric d)))
        ∧ (v.fn = 0 → ctlLen v.ctl ≠ 0 → (∀ bs, (s.localRun t v.loc (ctlLen v.ctl) { r := true, w := false }).fault = none →
            Gives (.fabricOperationComplete t op (.ok bs)) s (fun u => (u.team t).eng? op = some { e with stage := .done })))
        -- a get into the team's own window
        ∧ (∀ bs off, v.fn = 1 → ctlLen v.ctl = bs.length → bs ≠ [] → s.aperturePlace t v.loc 0 = some (t, off) → T.live = true → v.loc.toNat % 4096 + bs.length ≤ 4096 →
            Gives (.fabricOperationComplete t op (.ok bs)) s (fun u => (∀ q, (u.team t).winByte q = if off ≤ q ∧ q < off + bs.length then bs.getD (q - off) 0 else T.winByte q)
              ∧ (u.team t).eng? op = some { e with stage := .done } ∧ u.mem = s.mem)))
    ∧ (T.eng? op = some e → e.id = op → e.fab = some v → v.fn = 4 → e.stage = .accepted → e.since + 2147483648 ≤ s.clock →
        Gives (.collJoinTimeout t op) s (fun u => ∃ code, (u.team t).eng? op = some { e with stage := .done, fault := some { cause := 0x3B, detail := 5, code := code, addr := v.remote } }))
    -- remote tasks
    ∧ (∀ core grid s1, core < 192 → s.enqueue (some g) a 0 none = .ok (grid, s1) → (s1.core core).active.ctx = some (s1.grid grid).ctx → 0 < s1.dequeFree core (s1.grid grid).ctx →
        exec (.remoteEnqueueRequest g a 0 none core) s = .next (s1.onCore core (fun k => { k with deque := k.deque ++ [{ grid := grid, bypass := 0 }] })))
    ∧ (∀ q killed, s.remotes.find? (fun r => r.team == t && r.op == op) = some q → (q.pkg = Config.packageNumber.toNat → q.ended = some killed) →
        exec (.remoteTaskCompletion t op false killed) s = .next (State.jobEnds { s with remotes := s.remotes.filter (fun r => !(r.team == t && r.op == op)) } 192 (some (q.at_, q.pa)) killed))
    ∧ (∀ q killed, s.remotes.find? (fun r => r.team == t && r.op == op) = some q → q.pkg ≠ Config.packageNumber.toNat → sends →
        exec (.remoteTaskCompletion t op true killed) s = .next (State.engFault (State.jobEnds { s with remotes := s.remotes.filter (fun r => !(r.team == t && r.op == op)) }
          192 (some (q.at_, q.pa)) true) t e (fabric 6)))
    -- groups and windows
    ∧ (C.live = true → C.group = none → s.member (some g) = none → exec (.fabricGroupAttach c (some g)) s = .next (s.setCtx c { C with group := some g }))
    ∧ (C.live = true → exec (.fabricGroupAttach c none) s = .next (s.setCtx c { C with group := none }))
    ∧ (∀ len perms, C.live = true → C.windows.length < 64 → a.toNat % 4096 = 0 → len % 4096 = 0 → 0 < len → rangeOk a len = true →
        s.mapped c a len (windowGrants perms) = true → exec (.fabricWindowRegister c a len perms) s
          = .next (s.setCtx c { C with windows := C.windows ++ [{ va := a.toNat, len := len, perms := perms }] }))
    ∧ (∀ i, i < C.windows.length → (C.group = none ∨ ∀ p ∈ s.teams, (s.ctx p.2.ctx).group ≠ C.group ∨ p.2.engs = []) →
        exec (.fabricWindowRemove c i) s = .next (s.setCtx c { C with windows := C.windows.eraseIdx i }))

/-! Contexts, Farder's services and its calls. -/

/-- O52. Contexts (20 R367; 23 R387 to R389, R393; 09 R205): what a context holds when it is created, the launch of its root grid, the loading of a bundle,
the service of a page fault, revocation, and the shootdown, after which no core holds a translation of the range. -/
def Obligations.ContextsAndTranslations : Prop :=
  ∀ (s : State) (ctx : Nat),
    let C := s.ctx ctx
    let meets (a n b m : Nat) : Prop := a < b + m ∧ b < a + n
    let ready (x : LaneAcc) : Prop := (∃ pa, x.st = .ready pa) ∧ x.at_ = .global
    -- creation
    (∀ (p : ContextPlan) (n : Nat), s.hub.booted = true → C.live = false → ctx < 65536 → p.satpRoot % 4096 = 0 → n ≤ 10 → p.trapqN = 2 ^ (6 + n) → p.trapqVa.toNat % 64 = 0 →
        p.frameVa.toNat % 64 = 0 → p.heapVa.toNat % 262144 = 0 → p.notifyHart < 16 →
        (s.setCtx ctx (planContext p)).pinnedPages ctx p.trapqVa (64 + 192 * p.trapqN) p.trapqPages = true →
        rangeOk p.walkVa (8 * (4 * 2 ^ 20 + 4096)) = true → (s.setCtx ctx (planContext p)).mapped ctx p.walkVa (8 * (4 * 2 ^ 20 + 4096)) (fun _ => true) = true →
        (s.setCtx ctx (planContext p)).oneRun ctx p.frameVa p.framePa p.frameSize = true →
        Gives (.contextCreate ctx p) s (fun u => (u.ctx ctx).live = true ∧ (u.ctx ctx).satpRoot = p.satpRoot ∧ (u.ctx ctx).bypass = 8 ∧ (u.ctx ctx).notifyHart = p.notifyHart
          ∧ (u.ctx ctx).cat = [] ∧ (u.ctx ctx).recs = [] ∧ (u.ctx ctx).group = none
          ∧ (let q := p.trapqPages.headD 0 + p.trapqVa.toNat % 4096; u.memNat q 8 = 0 ∧ u.memNat (q + 8) 8 = 0)
          ∧ (∀ c, c ≠ ctx → u.ctx c = s.ctx c) ∧ u.teams = s.teams))
    -- the root grid
    ∧ (∀ (desc : W64) L K g s1, C.live = true → C.exited = none → desc.toNat % 64 = 0 → canonical desc = true → s.serviceLaunch ctx desc false = some (L, K) →
        s.newGrid { Grid.none with ctx := ctx, kernel := K, launch := L } 0 [] [] = some (g, s1) →
        Gives (.rootLaunch ctx desc) s (fun u => g = s.lastGrid + 1 ∧ u.lastGrid = g ∧ (u.grid g).live = true ∧ (u.grid g).handed = true ∧ (u.grid g).ctx = ctx
          ∧ (u.grid g).kernel = K ∧ (u.grid g).launch = L ∧ (u.grid g).launcher = none ∧ (u.grid g).id = Config.gridBase + BitVec.ofNat 64 g ∧ (u.grid g).since = s.clock
          ∧ (∀ h, h ≠ g → u.grid h = s.grid h) ∧ u.teams = s.teams))
    ∧ (∀ desc, s.serviceLaunch ctx desc false = none → exec (.rootLaunch ctx desc) s = .next s)
    -- bundles
    ∧ (∀ isa images, C.live = true → isa = 1 ∨ isa = 2 → (∀ i ∈ images, KernelImage.sound i isa = true) →
        (∀ i ∈ images, ∀ x ∈ i.spdata ++ i.data, InitItem.named images.length x = true) →
        (∀ i ∈ images, s.mapped ctx i.krec 128 (fun p => !p.getLsbD 2) = true) →
        (∀ r ∈ imageRuns images, rangeOk r.1 r.2.length = true ∧ s.mapped ctx r.1 r.2.length (fun _ => true) = true) →
        exec (.bundleLoad ctx 1 isa images) s = .next (images.foldl (fun s i => s.dropCode ctx (va48 i.kernel.cb) (4 * i.code.length))
          ((imageRuns images).foldl (fun s r => s.putCtx ctx r.1 r.2) s)))
    ∧ (∀ version isa images, version ≠ 1 → exec (.bundleLoad ctx version isa images) s = .next s)
    ∧ (∀ (e : W64) (bs : List Byte) f, e.toNat % 4096 + bs.length ≤ 4096 → s.walk ctx (va48 e) = some f → ∀ q, Memory.read (s.putCtx ctx e bs).mem q
        = if f.pa (va48 e) ≤ q ∧ q < f.pa (va48 e) + bs.length then bs.getD (q - f.pa (va48 e)) 0 else Memory.read s.mem q)
    -- page faults
    ∧ (∀ vpn ptes f, C.live = true → s.resolvedIn ctx (4096 * vpn) 4096 = false →
        (((s.revokeIn ctx (4096 * vpn) 4096).dropTlbs ctx (4096 * vpn) 4096).writePtes ptes).walk ctx (4096 * vpn) = some f →
        exec (.pageFaultService ctx vpn ptes none) s = .next (((s.revokeIn ctx (4096 * vpn) 4096).dropTlbs ctx (4096 * vpn) 4096).writePtes ptes))
    ∧ (∀ vpn a b ptes, C.live = true → s.resolvedIn ctx (4096 * vpn) 4096 = false → a ≠ b → b + 4096 ≤ 0xC000000000 →
        (∃ f, s.walk ctx (4096 * vpn) = some f ∧ f.pa (4096 * vpn) = a) →
        let t := ((s.revokeIn ctx (4096 * vpn) 4096).dropTlbs ctx (4096 * vpn) 4096).store b (Memory.readN s.mem a 4096)
        (∃ f, (t.writePtes ptes).walk ctx (4096 * vpn) = some f ∧ f.pa (4096 * vpn) = b) → exec (.pageFaultService ctx vpn ptes (some (a, b))) s = .next (t.writePtes ptes))
    -- revocation and shootdown
    ∧ (∀ t i x, (s.team t).extents[i]? = some x → (∀ a ∈ (s.team t).accs, ∀ l ∈ a.lanes, ready l → ¬ meets (va48 l.e) a.size x.va x.len) →
        exec (.extentRevoke t i) s = .next (s.onTeam t (fun T => { T with extents := T.extents.set i { x with valid := false } })))
    ∧ (∀ base len, (∀ p ∈ s.teams, p.2.ctx = ctx → ∀ a ∈ p.2.accs, ∀ l ∈ a.lanes, ready l → ¬ meets (va48 l.e) a.size (va48 base) len) →
        Gives (.shootdown ctx base len) s (fun u => u = { s with cores := u.cores } ∧ (∀ c, (u.core c).l1d = (s.core c).l1d ∧ (u.core c).active = (s.core c).active)
          ∧ ∀ c (e : TlbEntry), e ∈ (u.core c).tlb ↔ e ∈ (s.core c).tlb
              ∧ ¬ (e.ctx = ctx ∧ meets (e.vpn * 2 ^ (12 + 9 * e.level)) (2 ^ (12 + 9 * e.level)) (va48 base) len)))

/-- O53. Farder's calls (23 R391, R392): each answers the strand that it serves, with its result in s48 and its status in s49; an argument that is not valid
gives status 1 and has no other effect. The statuses of MAP, PROTECT and RESUMEREC are log 23's. -/
def Obligations.FarderCalls : Prop :=
  ∀ (s : State) (r : StrandRef),
    let T := s.team r.team
    let ctx := T.ctx
    let C := s.ctx ctx
    let arg (i : Nat) : W64 := (T.stream r.strm).sreg (BitVec.ofNat 6 (48 + i))
    let served (n : Nat) : Prop := T.live = true ∧ T.retiring = false ∧ (s.strand r).st = .blocked ∧ (s.strand r).wait = .farder n
      ∧ ∃ rest, (T.stream r.strm).calls = { sid := r.sid, n := n } :: rest
    let ans (u : State) (v st : W64) : State := u.endCall r v st
    let setC (f : Context → Context) : State := s.onCtx ctx f
    let readable : Prop := rangeOk (arg 0) (arg 1).toNat = true ∧ s.mapped ctx (arg 0) (arg 1).toNat (fun p => p.getLsbD 1) = true
    -- the answer
    (∀ n v st, served n → T.held = .active → ∃ b : State, (ans s v st = (State.answerUnassigned (b.streamOf r).calls.length b r).pending ctx)
        ∧ (b.strand r).st = .running ∧ ((b.team r.team).stream r.strm).sreg 48 = v ∧ ((b.team r.team).stream r.strm).sreg 49 = st
        ∧ ((b.team r.team).stream r.strm).sref 48 = false ∧ ((b.team r.team).stream r.strm).sref 49 = false ∧ b.mem = s.mem
        ∧ ((b.team r.team).stream r.strm).calls = (T.stream r.strm).calls.drop 1)
    ∧ (served 0x0000 → exec (.null r) s = .next (ans s 0 0))
    ∧ (served 0x0001 → ((arg 1).toNat ≤ 4096 ∧ readable → exec (.log r) s = .next (ans (setC (fun c => { c with log := c.log ++ s.rangeBytes ctx (arg 0) (arg 1).toNat }))
          (BitVec.ofNat 64 (arg 1).toNat) 0))
        ∧ (¬ ((arg 1).toNat ≤ 4096 ∧ readable) → exec (.log r) s = .next (ans s 0 1)))
    ∧ (served 0x0002 → ∃ ns : Nat, exec (.time r) s = .next (ans s (BitVec.ofNat 64 ns) 0) ∧ 13 * ns < 10 * s.now + 13 ∧ 10 * s.now < 13 * ns + 13)
    ∧ (served 0x0010 → let n := (arg 1).toNat
        (∀ base ptes, n = 0 ∨ 2 ^ 47 < n ∨ permsOk (arg 2) = false → exec (.map r base ptes) s = .next (ans s 0 1))
        ∧ (∀ base, 0 < n → n ≤ 2 ^ 47 → permsOk (arg 2) = true → exec (.map r base []) s = .next (ans s 0 2))
        ∧ (∀ base ptes, 0 < n → n ≤ 2 ^ 47 → permsOk (arg 2) = true → ptes ≠ [] → base.toNat % 4096 = 0 → rangeOk base n = true → s.unmapped ctx base n = true →
            (s.writePtes ptes).mapped ctx base n (grantsAs (arg 2)) = true → exec (.map r base ptes) s = .next (ans ((s.writePtes ptes).zeroPages ctx (pagesOf base n)) base 0)))
    ∧ (let e := arg 0; let n := (arg 1).toNat; let ok : Prop := 0 < n ∧ n ≤ 2 ^ 47 ∧ rangeOk e n = true ∧ s.mapped ctx e n (fun _ => true) = true
        let quiet : Prop := s.resolvedIn ctx (va48 e / 4096 * 4096) (n + 8192) = false
        (served 0x0011 → ∀ ptes, (¬ ok → exec (.unmap r ptes) s = .next (ans s 0 1))
          ∧ (ok → quiet → (s.remap ctx e n ptes).unmapped ctx e n = true → exec (.unmap r ptes) s = .next (ans (s.remap ctx e n ptes) 0 0)))
        ∧ (served 0x0012 → ∀ ptes, (¬ (ok ∧ permsOk (arg 2) = true) → exec (.protect r ptes) s = .next (ans s 0 1))
          ∧ (ok → permsOk (arg 2) = true → quiet → (s.remap ctx e n ptes).mapped ctx e n (grantsAs (arg 2)) = true →
              exec (.protect r ptes) s = .next (ans (s.remap ctx e n ptes) 0 0))))
    ∧ (served 0x0020 → (arg 0 = 0 → exec (.handler r) s = .next (ans (setC (fun c => { c with handler := none })) (s.handlerId ctx) 0))
        ∧ (∀ p ∈ s.grids, arg 0 ≠ 0 → p.2.live = true → p.2.ctx = ctx → p.2.id = arg 0 → (∀ q ∈ s.grids, q.2.live = true → q.2.ctx = ctx → q.2.id = arg 0 → q = p) →
            exec (.handler r) s = .next (ans (setC (fun c => { c with handler := some p.1 })) (s.handlerId ctx) 0))
        ∧ (arg 0 ≠ 0 → (∀ p ∈ s.grids, p.2.live = true → p.2.ctx = ctx → p.2.id ≠ arg 0) → exec (.handler r) s = .next (ans s 0 1)))
    ∧ (served 0x0021 → ∀ q, C.recs.find? (fun q => !q.own && q.todo.isNone && q.seq % 2 ^ 24 == (arg 0).toNat % 2 ^ 24) = some q →
        (∀ a, (arg 1 = 0 ∧ arg 2 = 0 ∧ a = ResumeAct.resume ∨ arg 1 = 0 ∧ arg 2 = 4 ∧ a = .publish ∨ arg 1 = 1 ∧ arg 2 = 0 ∧ a = .skip ∨ arg 1 = 2 ∧ arg 2 = 0 ∧ a = .kill
            ∨ arg 1 = 3 ∧ arg 2 = 0 ∧ a = .killteam) →
          (s.service ctx q.seq a { step := false, freeze := false } = none → exec (.resumerec r) s = .next (ans s 0 3))
          ∧ (∀ s1, s.service ctx q.seq a { step := false, freeze := false } = some s1 → s1.calling r 0x0021 = true → exec (.resumerec r) s = .next (ans s1 0 0)))
        ∧ (4 ≤ (arg 1).toNat → exec (.resumerec r) s = .next (ans s 0 1)))
    ∧ (served 0x0022 → ((arg 0).toNat ≤ 63 → exec (.setbypass r) s = .next (ans (setC (fun c => { c with bypass := (arg 0).toNat })) (BitVec.ofNat 64 C.bypass) 0))
        ∧ (63 < (arg 0).toNat → exec (.setbypass r) s = .next (ans s 0 1)))
    ∧ (served 0x0030 → exec (.notify r) s = .next (ans (setC (fun c => { c with notified := c.notified ++ [arg 0] })) 0 0))
    ∧ (served 0x0031 → let s1 := setC (fun c => { c with exited := some (arg 0) })
        let s2 := ((s1.grids.filter (fun p => p.2.live && p.2.ctx == ctx)).map Prod.fst).foldl State.killGrid s1
        exec (.exit r) s = .next (((s2.teams.filter (fun p => p.2.live && !p.2.retiring && p.2.ctx == ctx)).map Prod.fst).foldl
          (fun s t => (s.onTeam t (fun T => { T with killed := true })).retireTeam t) s2))
    ∧ (∀ g, (s.grid g).task = false ∨ 0 < (s.grid g).placed → ((s.killGrid g).grid g).killed = true ∧ ((s.killGrid g).grid g).placed = Launch.units (s.grid g).launch)

/-- O54. The traps of an arithmetic vector word, precise and before its first pass (04 R79, R83; 11 Table 11-2). A named register outside the
strand's blocks is the register-bound fault 0x13, with the lowest such register in CODE and the whole mask. Sources of different tags in
some group are the tag trap 0x14, with the active lanes of those groups alone in the mask. A REF source of VPOPC or VCLZ is 0x15. Each
waits while earlier accesses of the strand are to be translated (log 12). -/
def Obligations.VectorTraps : Prop :=
  ∀ (s : State) (m : BitVec 3) (d a b : BitVec 7), s.untranslated s.cur = false →
    let Bound (i : Instr) (fs : List (BitVec 7)) : Prop := ∀ r ∈ fs, r.toNat < 120 → ¬ Mapped s r.toNat →
      (∀ q ∈ fs, q.toNat < 120 → s.mine.regBusy q.toNat s.me.mask = false ∧ (¬ Mapped s q.toNat → r.toNat ≤ q.toNat)) →
      exec i s = .next (s.trapHere { cause := 0x13, detail := 0, code := r.toNat, mask := s.me.mask, addr := 0 })
    let Fails (i : Instr) (cause : Nat) (bad : Nat → Prop) : Prop := (∃ g, ActiveGroup s g ∧ bad g) →
      ∃ x : TrapInfo, exec i s = .next (s.trapHere x) ∧ x.cause = cause ∧ x.detail = 0 ∧ x.code = 0
        ∧ ∀ l, x.mask.getLsbD l = true ↔ s.me.mask.getLsbD l = true ∧ ActiveGroup s (l / s.mine.gw) ∧ bad (l / s.mine.gw)
    let Two (i : Instr) : Prop := Bound i [a, b, d] ∧ ∀ ta tb : Nat → BitVec 4, VecReady s [a.toNat, b.toNat] [d.toNat] →
      Tagged s [a.toNat] ta → Tagged s [b.toNat] tb → (∀ g, ActiveGroup s g → ta g = tb g → ta g = tF32) → Fails i 0x14 (fun g => ta g ≠ tb g)
    let One (i : Instr) : Prop := Bound i [a, d] ∧ ∀ ta : Nat → BitVec 4, VecReady s [a.toNat] [d.toNat] →
      Tagged s [a.toNat] ta → Fails i 0x15 (fun g => ta g = tRef)
    Two (.vadd m d a b) ∧ Two (.vsub m d a b) ∧ Two (.vmul m d a b) ∧ Two (.vmin d a b) ∧ Two (.vmax d a b)
    ∧ One (.vpopc d a) ∧ One (.vclz d a)

/-- O55. A step (02 R33, R39; 05 R105 to R107; 11 R221, R232; 17 R294). A turn of an event runs the event. A strand's turn, where its front end selects the
strand, fetches the packet at its pc and runs the word that the bytes there decode to (but a word that steers or traps waits for earlier accesses, and
a step trap that is due comes first): at once where its bundle is checked, else after the checks of
R39, of which a zero word, an undecodable word and one well-formed unchained word are shown. A pc outside the code extent is the fetch fault.
A turn that posts a trap is shown where its cycle has no trap yet (the order of traps in one cycle is log 27's).
With no turn left the strand `cur` has its turn, or another that is ready, or one cycle passes (log 1). -/
def Obligations.StepRunsDecoded : Prop :=
  ∀ s : State,
    let fresh : Prop := ∀ k ∈ s.recsNow, k.cycle ≠ s.clock
    (∀ i rest t, s.agenda = .event i :: rest → isEvent i = true → exec i { s with agenda := rest } = .next t → t.lastTrap = s.lastTrap ∨ fresh →
      step s = .next t)
    ∧ (s.agenda = [] → step s = if s.selectable s.cur then step { s with agenda := [.word s.cur] }
        else match s.strandsIn.find? (fun r => s.selectable r && s.canIssue r) with
          | some r => step { s with agenda := [.word r] }
          | none => .next (s.passTime 1))
    ∧ (∀ r rest, s.agenda = .word r :: rest →
        let q0 : State := { s with agenda := rest }
        let q : State := { q0 with cur := r }
        let issues (t : State) : State := if (q.strand r).checked = 0 then t.issuedAt (q.team r.team).core r.strm else t
        let ends (t : State) : Prop := fresh → step s = .next (issues t)
        let runs (i : Instr) (u : State) : Prop := ∀ t, exec i u = .next t → t ≠ u → (t.strand r).st ≠ .blocked ∨ (q.strand r).st ≠ .blocked →
          (t.settle r).lastTrap = s.lastTrap ∨ fresh → step s = .next (issues (t.settle r))
        (q0.selectable r = false → step s = .next q)
        ∧ (q0.selectable r = true → q.untranslated r = true → (q.strand r).stepDue = true ∨ q.steersNext r = true → step s = .next q)
        ∧ (q0.selectable r = true → q.untranslated r = false → (q.strand r).stepDue = true → ends (q.stepStop r))
        ∧ (q0.selectable r = true → (q.strand r).stepDue = false → (q.untranslated r && q.steersNext r) = false →
        let p := q.onStrand r (fun x => { x with st := .running })
        let T := p.team r.team
        let x := p.strand r
        let k := x.pc.toNat % 12 / 4
        (¬ (T.cb ≤ packetOf x.pc ∧ packetOf x.pc < T.ce) →
          ends (p.takeTrap r { cause := 0x05, detail := 0, code := 0, mask := x.mask, addr := x.pc } x.pc x.pc))
        ∧ (∀ pa u, p.fetch r.team x.pc = .poisoned pa u →
            ends (u.takeTrap r { cause := 0x3A, detail := 0, code := 0, mask := x.mask, addr := BitVec.ofNat 64 pa } x.pc x.pc))
        ∧ ∀ ws u, p.fetch r.team x.pc = .ok ws u → x.skipAt = none → x.early = [] →
            let w := ws.getD k 0
            (0 < x.checked →
                (∀ i, decodeWord w = .ok i → i.wf = true → runs i u)
                ∧ (w = 0 → ends (u.takeTrap r { cause := 0x01, detail := 0, code := 0, mask := x.mask, addr := 0 } x.pc x.pc))
                ∧ (w ≠ 0 → (∀ i, decodeWord w = .ok i → i.wf = false) →
                    ends (u.takeTrap r { cause := 0x02, detail := k, code := 0, mask := x.mask, addr := 0 } x.pc x.pc)))
            ∧ (x.checked = 0 →
                let c := checkBundle u (u.team r.team) r x ws
                let v := u.drewCmp (u.team r.team).core
                let wordAt := packetOf x.pc + BitVec.ofNat 64 (4 * k)
                (∀ i, decodeWord w = .ok i → c.trap = none → c.fires = false →
                  runs i (v.onStrand r (fun x => { x with checked := c.count, bundlePc := x.pc })))
                ∧ (Claims.Unwatched u → u.cur = r → k < ws.length →
                    (w = 0 → ends (v.takeTrap r { cause := 0x01, detail := 0, code := 0, mask := x.mask, addr := 0 } wordAt x.pc))
                    ∧ (w ≠ 0 → (∀ i, decodeWord w = .ok i → i.wf = false) →
                        ends (v.takeTrap r { cause := 0x02, detail := k, code := 0, mask := x.mask, addr := 0 } wordAt x.pc))
                    ∧ ∀ i, decodeWord w = .ok i → i.wf = true → chainBit w = false → placeOk (u.team r.team) r.strm i = true →
                        c.trap = none ∧ c.count = 1 ∧ c.fires = false))))
    ∧ (∀ r t, (∀ f, settled r (.fault f) = .fault f) ∧ ((t.strand r).st ≠ .running → settled r (.next t) = .next t)
        ∧ ((t.strand r).st = .running → (t.strand r).stepDue = false → r.strm = .a → settled r (.next t) = .next (t.onStrand r (fun x =>
            { x with readyAt := t.clock, urgent := false, windows := x.windows.filter (fun w => !(t.team r.team).opClosed w.1) }))))
    ∧ ∀ (t : Nat) (pc : W64),
        let T := s.team t
        let at_ := packetOf pc
        T.cb ≤ at_ → at_ < T.ce →
        (∀ e, (s.core T.core).l1i.find? (fun e => e.1 == l1iKey T.ctx at_) = some e → s.fetch t pc = .ok (packetWords e.2.bits) s)
        ∧ ∀ pas s1, (∀ e ∈ (s.core T.core).l1i, e.1 ≠ l1iKey T.ctx at_) → s.wordPlaces T.core T.ctx [at_, at_ + 4, at_ + 8] = some (pas, s1) →
            (∀ a ∈ pas, a % 4 = 0 ∧ s1.storeLine (dieOf T.core) (a / 128) = none ∧ s1.poisoned a 4 = false) →
            ∃ u, s.fetch t pc = .ok (pas.map (fun a => BitVec.ofNat 32 (s1.memNat a 4))) u

/-- O56. Words of the spec's own examples decode to the instructions they stand for (Tables of 02 to 24). -/
def Obligations.DecodedWords : Prop :=
  ∀ p ∈ ([(0x01000000, .nop), (0x02FFFFFD, .bra (-3)), (0x03048000, .brc 1 1 0), (0x0E000002, .sysc 2), (0x10082040, .sadd 2 2 1),
      (0x14009010, .swr 9 0x010), (0x1B480000, .regclaim 2 4), (0x1D229000, .vrdx 1 10 32), (0x20210286, .vadd 1 4 5 6), (0x33304050, .vcmp 1 4 8 5 0),
      (0x3520E181, .vcvt 2 7 6 0 0 1), (0x48254A16, .vshfl 1 21 20 22), (0x5202924D, .atoms 0 20 2 9 3 1), (0x5E0F1F8A, .ldg 0 120 126 2 2),
      (0x63000004, .fence 4), (0x6B01C09A, .strefS 0 14 2 6), (0x6F0A8183, .mma 0 1 40 6 3), (0x75021303, .mpairRecv 0 2 12 3),
      (0x7A020900, .epgen 0 8 9 0), (0x7E024C06, .rcommit 0 9 12), (0x7E002823, .renq 0 40)] : List (W32 × Instr)),
    decodeWord p.1 = .ok p.2

/-- O57. Decoding and encoding agree (02 R33, R43 to R48): the word encoded for an instruction is not zero, carries its chain bit and decodes to
it, from the word and from its bytes in memory order; and every word that decodes is the encoding of what it decodes to, so no bit of a word is
dropped. -/
def Obligations.EncodingsRoundTrip : Prop :=
  (∀ (i : Instr) (c : Bool) (w : W32), encode c i = some w →
    w ≠ 0 ∧ chainBit w = c ∧ decodeWord w = .ok i ∧ ∀ rest, decodeBytes (bytesOfNat 4 w.toNat ++ rest) = .ok (c, i, rest))
  ∧ ∀ (w : W32) (i : Instr), decodeWord w = .ok i → encode (chainBit w) i = some w

/-- O58. Every step keeps the canonical form of memory, whichever turn it takes (18 R314; the form itself is the model's, log 4). -/
def Obligations.MemoryKeepsForm : Prop :=
  ∀ s t : State, memoryWf s = true → step s = .next t → memoryWf t = true

/-- O59. What reset leaves: the clock at 0 (05 R114), no team, grid or context, every split record FREE and the pool whole (01 R19, 04 R86), comparators
disabled (11 Table 11-3), stripes gated (08 R178), the matrix pools whole (13 R239, 14 R268), SEMA free and SHCTL 0 (23 Tables 23-4, 23-5), and
memory in its canonical form. -/
def Obligations.ResetState : Prop :=
  let s := State.reset
  memoryWf s = true ∧ s.clock = 0
  ∧ (∀ t, (s.team t).live = false) ∧ (∀ g, (s.grid g).live = false) ∧ (∀ c, (s.ctx c).live = false)
  ∧ (∀ c, (∀ i, (SMap.get Strand.free (s.core c).active.split i).st = .free) ∧ (s.core c).active.pool = 768
      ∧ (s.core c).shadow.pool = 768 ∧ (∀ i, (SMap.get Comparator.reset (s.core c).cmps i).regs.ctl = 0)
      ∧ ∀ i, SMap.get 0 (s.core c).stripes i = 0)
  ∧ (∀ q, (s.quad q).tiles = 64 ∧ (s.quad q).entries = 16 ∧ (s.quad q).contexts = 4 ∧ (s.quad q).waits = [])
  ∧ s.hub.semaHeld = false ∧ s.hub.shCause = 0 ∧ s.hub.shMiss = 0 ∧ s.hub.shLatched = false ∧ s.hub.shSrc = 0 ∧ s.hub.shEtrap = false
  ∧ s.hub.shEcmp = false

/-- O60. Bytes stored at a physical address (18 R314; 19 R346, R347): they read back, little-endian, every other byte reads as before, the
reference tag of each 8-byte word that holds one of them is cleared and every other tag is as it was, and nothing else changes. -/
def Obligations.StoredBytes : Prop :=
  ∀ (s : State) (pa : Nat) (bs : List Byte), let t := s.store pa bs
    (∀ a, Memory.read t.mem a = if pa ≤ a ∧ a < pa + bs.length then bs.getD (a - pa) 0 else Memory.read s.mem a)
    ∧ (memoryWf s = true → memoryWf t = true)
    ∧ (∀ w, SMap.has t.memTags w = (SMap.has s.memTags w && !(List.range bs.length).any (fun i => (pa + i) / 8 == w)))
    ∧ t = { s with mem := t.mem, memTags := t.memTags }
    ∧ ∀ n v, (s.storeNat pa n v).memNat pa n = v % 256 ^ n ∧ t.memNat pa bs.length = natOfBytes bs
end

