-- ==== Sys2Proof/Laws/Maps.lean ====
section
/-! SUPPORT. Laws of sparse tables, byte strings and memory: a read after a write, and the canonical form. -/

namespace Sys2Proof

variable {α : Type} (d : α) (m : SMap α) (k j : Nat) (v : α)

@[simp] theorem SMap.get_put_same : SMap.get d (SMap.put m k v) k = v := by
  induction m with
  | nil => simp [SMap.put, SMap.get]
  | cons e rest ih =>
    by_cases h : e.1 < k
    · have hne : e.1 ≠ k := by omega
      simp [SMap.put, SMap.get, h, hne, ih]
    · simp [SMap.put, SMap.get, h]

theorem SMap.get_put_ne (h : j ≠ k) : SMap.get d (SMap.put m k v) j = SMap.get d m j := by
  have hk : ¬ k = j := fun e => h e.symm
  induction m with
  | nil => simp [SMap.put, SMap.get, hk]
  | cons e rest ih =>
    by_cases h1 : e.1 < k
    · simp [SMap.put, SMap.get, h1, ih]
    · by_cases h2 : e.1 = k
      · have h3 : ¬ e.1 = j := fun x => hk (h2.symm.trans x)
        simp [SMap.put, SMap.get, h2, hk]
      · simp [SMap.put, SMap.get, h1, h2, hk]

@[simp] theorem SMap.get_erase_same : SMap.get d (SMap.erase m k) k = d := by
  induction m with
  | nil => simp [SMap.erase, SMap.get]
  | cons e rest ih =>
    obtain ⟨i, w⟩ := e
    simp only [SMap.erase]
    split
    · exact ih
    · rename_i h; simp [SMap.get, h, ih]

theorem SMap.get_erase_ne (h : j ≠ k) : SMap.get d (SMap.erase m k) j = SMap.get d m j := by
  induction m with
  | nil => rfl
  | cons e rest ih =>
    obtain ⟨i, w⟩ := e
    simp only [SMap.erase]
    split
    · rename_i h1; subst h1
      have : ¬ i = j := fun e => h e.symm
      simp [SMap.get, this, ih]
    · simp [SMap.get, ih]

variable [DecidableEq α]

@[simp] theorem SMap.get_set_same : SMap.get d (SMap.set d m k v) k = v := by
  unfold SMap.set; split
  · rename_i h; simp [h]
  · simp

theorem SMap.get_set_ne (h : j ≠ k) : SMap.get d (SMap.set d m k v) j = SMap.get d m j := by
  unfold SMap.set; split
  · exact SMap.get_erase_ne d m k j h
  · exact SMap.get_put_ne d m k j v h

/-- A read after a write. -/
theorem SMap.get_set : SMap.get d (SMap.set d m k v) j = if j = k then v else SMap.get d m j := by
  split
  · rename_i h; subst h; simp
  · rename_i h; exact SMap.get_set_ne d m k j v h

/-! The canonical form. -/

theorem SMap.wfFrom_weaken {lo hi : Nat} (h : lo ≤ hi) (hw : SMap.wfFrom d hi m = true) : SMap.wfFrom d lo m = true := by
  cases m with
  | nil => rfl
  | cons e rest =>
    obtain ⟨i, w⟩ := e
    simp only [SMap.wfFrom, Bool.and_eq_true, decide_eq_true_eq] at hw ⊢
    exact ⟨⟨by omega, hw.1.2⟩, hw.2⟩

theorem SMap.wfFrom_erase (lo : Nat) (hw : SMap.wfFrom d lo m = true) : SMap.wfFrom d lo (SMap.erase m k) = true := by
  induction m generalizing lo with
  | nil => rfl
  | cons e rest ih =>
    obtain ⟨i, w⟩ := e
    simp only [SMap.wfFrom, Bool.and_eq_true, decide_eq_true_eq] at hw
    simp only [SMap.erase]
    split
    · exact ih lo (SMap.wfFrom_weaken d rest (by omega) hw.2)
    · simp only [SMap.wfFrom, Bool.and_eq_true, decide_eq_true_eq]
      exact ⟨hw.1, ih (i + 1) hw.2⟩

theorem SMap.wfFrom_put (lo : Nat) (hk : lo ≤ k) (hv : v ≠ d) (hw : SMap.wfFrom d lo m = true) :
    SMap.wfFrom d lo (SMap.put m k v) = true := by
  induction m generalizing lo with
  | nil => simp [SMap.put, SMap.wfFrom, hk, hv]
  | cons e rest ih =>
    obtain ⟨⟨h1, h2⟩, h3⟩ : (lo ≤ e.1 ∧ e.2 ≠ d) ∧ SMap.wfFrom d (e.1 + 1) rest = true := by simpa [SMap.wfFrom] using hw
    by_cases h : e.1 < k
    · simpa [SMap.put, SMap.wfFrom, h, h1, h2] using ih (e.1 + 1) h h3
    · by_cases h' : e.1 = k
      · simpa [SMap.put, SMap.wfFrom, h', hk, hv] using h' ▸ h3
      · have hlt : k + 1 ≤ e.1 := by omega
        simp [SMap.put, SMap.wfFrom, h, h', hk, hv, hlt, h2, h3]

/-- A write keeps the canonical form. -/
theorem SMap.wf_set (hw : SMap.wf d m = true) : SMap.wf d (SMap.set d m k v) = true := by
  unfold SMap.set; split
  · exact SMap.wfFrom_erase d m k 0 hw
  · rename_i h; exact SMap.wfFrom_put d m k v 0 (Nat.zero_le k) h hw

/-! Sets of numbers. -/

omit [DecidableEq α] in
theorem SMap.has_put (s : SMap Unit) : SMap.has (SMap.put s k ()) j = (k == j || SMap.has s j) := by
  induction s with
  | nil => simp [SMap.put, SMap.has]
  | cons e rest ih =>
    by_cases h : e.1 < k
    · simp only [SMap.put, h, if_true, SMap.has, ih, Bool.or_left_comm]
    · by_cases h' : e.1 = k
      · simp [SMap.put, SMap.has, h']
      · simp [SMap.put, SMap.has, h, h']

omit [DecidableEq α] in
theorem SMap.has_erase (s : SMap Unit) : SMap.has (SMap.erase s k) j = (!(k == j) && SMap.has s j) := by
  induction s with
  | nil => simp [SMap.erase, SMap.has]
  | cons e rest ih =>
    obtain ⟨i, u⟩ := e
    simp only [SMap.erase]
    split
    · rename_i h; subst h; simp only [ih, SMap.has]; cases (i == j) <;> simp
    · rename_i h
      simp only [SMap.has, ih]
      by_cases hi : i = j
      · subst hi
        have : (k == i) = false := beq_false_of_ne (fun e => h e.symm)
        rw [this]; rfl
      · have : (i == j) = false := beq_false_of_ne hi
        rw [this]; rfl

omit [DecidableEq α] in
theorem SMap.has_flag (s : SMap Unit) (on : Bool) : SMap.has (SMap.flag s k on) j = if j = k then on else SMap.has s j := by
  have e : (k == j) = decide (j = k) := by
    by_cases h : j = k
    · subst h; simp
    · have : ¬ k = j := fun e => h e.symm
      simp [h, this]
  cases on
  · have : SMap.flag s k false = SMap.erase s k := rfl
    rw [this, SMap.has_erase, e]
    by_cases h : j = k <;> simp [h]
  · have : SMap.flag s k true = SMap.put s k () := rfl
    rw [this, SMap.has_put, e]
    by_cases h : j = k <;> simp [h]

/-! Bytes. -/

omit [DecidableEq α] in
@[simp] theorem bytesOfNat_length (n x : Nat) : (bytesOfNat n x).length = n := by
  induction n generalizing x with
  | zero => rfl
  | succ n ih => simp [bytesOfNat, ih]

omit [DecidableEq α] in
theorem natOfBytes_bytesOfNat (n x : Nat) : natOfBytes (bytesOfNat n x) = x % 256 ^ n := by
  induction n generalizing x with
  | zero => simp [bytesOfNat, natOfBytes, Nat.mod_one]
  | succ n ih =>
    simp only [bytesOfNat, natOfBytes, ih, BitVec.toNat_ofNat]
    have h : x % 256 ^ (n + 1) = x % 256 + 256 * (x / 256 % 256 ^ n) := by
      rw [show 256 ^ (n + 1) = 256 * 256 ^ n from by rw [Nat.pow_succ, Nat.mul_comm], Nat.mod_mul]
    rw [h]

end Sys2Proof

namespace Sys2Proof.Machine

/-! Memory. -/

/-- A byte read after the write of a byte. -/
theorem Memory.read_write (m : List Host.Cell) (a b : Nat) (v : Byte) :
    Memory.read (Memory.write m a v) b = if b = a then v else Memory.read m b := SMap.get_set _ _ _ _ _

theorem Memory.wf_write (m : List Host.Cell) (a : Nat) (v : Byte) (h : Memory.wf m = true) : Memory.wf (Memory.write m a v) = true :=
  SMap.wf_set _ _ _ _ h

theorem Memory.wf_writeN (m : List Host.Cell) (a : Nat) (bs : List Byte) (h : Memory.wf m = true) :
    Memory.wf (Memory.writeN m a bs) = true := by
  induction bs generalizing m a with
  | nil => exact h
  | cons b rest ih => exact ih _ _ (Memory.wf_write m a b h)

/-- A byte read after the write of a run: the run's byte inside it, the old byte outside. -/
theorem Memory.read_writeN (m : List Host.Cell) (a b : Nat) (bs : List Byte) :
    Memory.read (Memory.writeN m a bs) b = if a ≤ b ∧ b < a + bs.length then bs.getD (b - a) 0 else Memory.read m b := by
  induction bs generalizing m a with
  | nil =>
    have : ¬ (a ≤ b ∧ b < a + ([] : List Byte).length) := by simp
    rw [if_neg this]; rfl
  | cons x rest ih =>
    simp only [Memory.writeN, ih, Memory.read_write, List.length_cons]
    by_cases h1 : b = a
    · subst h1
      have : ¬ (b + 1 ≤ b ∧ b < b + 1 + rest.length) := by omega
      rw [if_neg this, if_pos rfl, if_pos (by omega), Nat.sub_self]; rfl
    · by_cases h2 : a + 1 ≤ b ∧ b < a + 1 + rest.length
      · have h3 : a ≤ b ∧ b < a + (rest.length + 1) := by omega
        have h4 : b - a = (b - (a + 1)) + 1 := by omega
        rw [if_pos h2, if_pos h3, h4]; rfl
      · have h3 : ¬ (a ≤ b ∧ b < a + (rest.length + 1)) := by omega
        rw [if_neg h2, if_neg h1, if_neg h3]

/-- A run read back after it was written. -/
theorem Memory.readN_writeN (m : List Host.Cell) (a : Nat) (bs : List Byte) : Memory.readN (Memory.writeN m a bs) a bs.length = bs := by
  apply List.ext_getElem
  · simp [Memory.readN]
  · intro i h1 h2
    have h3 : i < bs.length := h2
    simp only [Memory.readN, List.getElem_map, List.getElem_range, Memory.read_writeN]
    have : a ≤ a + i ∧ a + i < a + bs.length := by omega
    simp [this, List.getD, h3]

/-- A run elsewhere is as it was. -/
theorem Memory.readN_writeN_far (m : List Host.Cell) (a b n : Nat) (bs : List Byte) (h : a + bs.length ≤ b ∨ b + n ≤ a) :
    Memory.readN (Memory.writeN m a bs) b n = Memory.readN m b n := by
  apply List.map_congr_left
  intro i hi
  have hi' : i < n := List.mem_range.mp hi
  rw [Memory.read_writeN]
  have : ¬ (a ≤ b + i ∧ b + i < a + bs.length) := by omega
  simp [this]

/-- A little-endian number read back after it was stored. -/
theorem State.memNat_storeNat (s : State) (a n v : Nat) : (s.storeNat a n v).memNat a n = v % 256 ^ n := by
  have h := Memory.readN_writeN s.mem a (bytesOfNat n v)
  rw [bytesOfNat_length] at h
  simp only [State.memNat, State.storeNat, State.store, h, natOfBytes_bytesOfNat]

/-- A number elsewhere is as it was. -/
theorem State.memNat_storeNat_far (s : State) (a n v b k : Nat) (h : a + n ≤ b ∨ b + k ≤ a) :
    (s.storeNat a n v).memNat b k = s.memNat b k := by
  simp only [State.memNat, State.storeNat, State.store]
  rw [Memory.readN_writeN_far]
  simpa using h

/-- Part of a run read back. -/
theorem Memory.readN_writeN_part (m : List Host.Cell) (a off n : Nat) (bs : List Byte) (h : off + n ≤ bs.length) :
    Memory.readN (Memory.writeN m a bs) (a + off) n = (bs.drop off).take n := by
  apply List.ext_getElem
  · simp [Memory.readN]; omega
  · intro i h1 h2
    have h3 : i < n := by simpa [Memory.readN] using h1
    simp only [Memory.readN, List.getElem_map, List.getElem_range, Memory.read_writeN, List.getElem_take, List.getElem_drop]
    have h4 : a ≤ a + off + i ∧ a + off + i < a + bs.length := by omega
    have h5 : a + off + i - a = off + i := by omega
    have h6 : off + i < bs.length := by omega
    simp [h4, h5, List.getD, h6]

theorem flatMap_bytes_length (k : Nat) (l : List Nat) : (l.flatMap (bytesOfNat k)).length = k * l.length := by
  induction l with
  | nil => simp
  | cons x xs ih =>
    rw [List.flatMap_cons, List.length_append, ih, bytesOfNat_length, List.length_cons, Nat.mul_succ]; omega

theorem flatMap_bytes_part (k i : Nat) (l : List Nat) (h : i < l.length) : ((l.flatMap (bytesOfNat k)).drop (k * i)).take k = bytesOfNat k l[i] := by
  induction l generalizing i with
  | nil => simp at h
  | cons x xs ih =>
    cases i with
    | zero =>
      rw [Nat.mul_zero, List.drop_zero, List.flatMap_cons, List.take_append_of_le_length (by simp)]
      have : (bytesOfNat k x).take k = bytesOfNat k x := List.take_of_length_le (by simp)
      rw [this]; rfl
    | succ i =>
      have e : k * (i + 1) = (bytesOfNat k x).length + k * i := by rw [bytesOfNat_length, Nat.mul_succ]; omega
      rw [List.flatMap_cons, e, List.drop_append, List.drop_eq_nil_of_le (by omega), List.nil_append, Nat.add_sub_cancel_left, ih i (by simpa using h)]; rfl

/-- One number of a record of numbers of k bytes, read back after the record was stored. -/
theorem State.memNat_store_record (s : State) (a k i : Nat) (l : List Nat) (h : i < l.length) :
    (s.store a (l.flatMap (bytesOfNat k))).memNat (a + k * i) k = l[i] % 256 ^ k := by
  have hl : k * i + k ≤ (l.flatMap (bytesOfNat k)).length := by
    rw [flatMap_bytes_length, ← Nat.mul_succ]; exact Nat.mul_le_mul_left k h
  simp only [State.memNat, State.store, Memory.readN_writeN_part _ _ _ _ _ hl, flatMap_bytes_part k i l h, natOfBytes_bytesOfNat]

theorem State.memNat_store_far (s : State) (a b n : Nat) (bs : List Byte) (h : a + bs.length ≤ b ∨ b + n ≤ a) :
    (s.store a bs).memNat b n = s.memNat b n := by
  simp only [State.memNat, State.store]
  rw [Memory.readN_writeN_far _ _ _ _ _ h]

theorem natOfBytes_lt (bs : List Byte) : natOfBytes bs < 256 ^ bs.length := by
  induction bs with
  | nil => simp [natOfBytes]
  | cons b bs ih =>
    simp only [natOfBytes, List.length_cons, Nat.pow_succ]
    have := b.isLt
    omega

theorem State.memNat_lt (s : State) (a n : Nat) : s.memNat a n < 256 ^ n := by
  have := natOfBytes_lt (Memory.readN s.mem a n)
  simpa [State.memNat, Memory.readN] using this

end Sys2Proof.Machine
end

