-- ==== Sys2Proof/Laws/State.lean ====
section
/-! SUPPORT. What each update of the state leaves alone, field by field, and what it puts where it writes: the lemmas that later proofs
cite, so that none unfolds a record update. -/

namespace Sys2Proof.Machine

variable (s : State)

/-! setTeam -/

@[simp] theorem State.setTeam_agenda (t : Nat) (T : Team) : (s.setTeam t T).agenda = s.agenda := rfl
@[simp] theorem State.setTeam_cur (t : Nat) (T : Team) : (s.setTeam t T).cur = s.cur := rfl
@[simp] theorem State.setTeam_nonce (t : Nat) (T : Team) : (s.setTeam t T).nonce = s.nonce := rfl
@[simp] theorem State.setTeam_clock (t : Nat) (T : Team) : (s.setTeam t T).clock = s.clock := rfl
@[simp] theorem State.setTeam_lastTeam (t : Nat) (T : Team) : (s.setTeam t T).lastTeam = s.lastTeam := rfl
@[simp] theorem State.setTeam_lastGrid (t : Nat) (T : Team) : (s.setTeam t T).lastGrid = s.lastGrid := rfl
@[simp] theorem State.setTeam_lastOp (t : Nat) (T : Team) : (s.setTeam t T).lastOp = s.lastOp := rfl
@[simp] theorem State.setTeam_lastTrap (t : Nat) (T : Team) : (s.setTeam t T).lastTrap = s.lastTrap := rfl
@[simp] theorem State.setTeam_mem (t : Nat) (T : Team) : (s.setTeam t T).mem = s.mem := rfl
@[simp] theorem State.setTeam_memTags (t : Nat) (T : Team) : (s.setTeam t T).memTags = s.memTags := rfl
@[simp] theorem State.setTeam_poison (t : Nat) (T : Team) : (s.setTeam t T).poison = s.poison := rfl
@[simp] theorem State.setTeam_cores (t : Nat) (T : Team) : (s.setTeam t T).cores = s.cores := rfl
@[simp] theorem State.setTeam_quads (t : Nat) (T : Team) : (s.setTeam t T).quads = s.quads := rfl
@[simp] theorem State.setTeam_ctxs (t : Nat) (T : Team) : (s.setTeam t T).ctxs = s.ctxs := rfl
@[simp] theorem State.setTeam_grids (t : Nat) (T : Team) : (s.setTeam t T).grids = s.grids := rfl
@[simp] theorem State.setTeam_l2 (t : Nat) (T : Team) : (s.setTeam t T).l2 = s.l2 := rfl
@[simp] theorem State.setTeam_gatedWays (t : Nat) (T : Team) : (s.setTeam t T).gatedWays = s.gatedWays := rfl
@[simp] theorem State.setTeam_sliceClk (t : Nat) (T : Team) : (s.setTeam t T).sliceClk = s.sliceClk := rfl
@[simp] theorem State.setTeam_walks (t : Nat) (T : Team) : (s.setTeam t T).walks = s.walks := rfl
@[simp] theorem State.setTeam_walking (t : Nat) (T : Team) : (s.setTeam t T).walking = s.walking := rfl
@[simp] theorem State.setTeam_rings (t : Nat) (T : Team) : (s.setTeam t T).rings = s.rings := rfl
@[simp] theorem State.setTeam_heldTraps (t : Nat) (T : Team) : (s.setTeam t T).heldTraps = s.heldTraps := rfl
@[simp] theorem State.setTeam_links (t : Nat) (T : Team) : (s.setTeam t T).links = s.links := rfl
@[simp] theorem State.setTeam_fabLinks (t : Nat) (T : Team) : (s.setTeam t T).fabLinks = s.fabLinks := rfl
@[simp] theorem State.setTeam_removed (t : Nat) (T : Team) : (s.setTeam t T).removed = s.removed := rfl
@[simp] theorem State.setTeam_remotes (t : Nat) (T : Team) : (s.setTeam t T).remotes = s.remotes := rfl
@[simp] theorem State.setTeam_istore (t : Nat) (T : Team) : (s.setTeam t T).istore = s.istore := rfl
@[simp] theorem State.setTeam_touched (t : Nat) (T : Team) : (s.setTeam t T).touched = s.touched := rfl
@[simp] theorem State.setTeam_hub (t : Nat) (T : Team) : (s.setTeam t T).hub = s.hub := rfl

/-! onTeam -/

@[simp] theorem State.onTeam_agenda (t : Nat) (f : Team → Team) : (s.onTeam t f).agenda = s.agenda := rfl
@[simp] theorem State.onTeam_cur (t : Nat) (f : Team → Team) : (s.onTeam t f).cur = s.cur := rfl
@[simp] theorem State.onTeam_nonce (t : Nat) (f : Team → Team) : (s.onTeam t f).nonce = s.nonce := rfl
@[simp] theorem State.onTeam_clock (t : Nat) (f : Team → Team) : (s.onTeam t f).clock = s.clock := rfl
@[simp] theorem State.onTeam_lastTeam (t : Nat) (f : Team → Team) : (s.onTeam t f).lastTeam = s.lastTeam := rfl
@[simp] theorem State.onTeam_lastGrid (t : Nat) (f : Team → Team) : (s.onTeam t f).lastGrid = s.lastGrid := rfl
@[simp] theorem State.onTeam_lastOp (t : Nat) (f : Team → Team) : (s.onTeam t f).lastOp = s.lastOp := rfl
@[simp] theorem State.onTeam_lastTrap (t : Nat) (f : Team → Team) : (s.onTeam t f).lastTrap = s.lastTrap := rfl
@[simp] theorem State.onTeam_mem (t : Nat) (f : Team → Team) : (s.onTeam t f).mem = s.mem := rfl
@[simp] theorem State.onTeam_memTags (t : Nat) (f : Team → Team) : (s.onTeam t f).memTags = s.memTags := rfl
@[simp] theorem State.onTeam_poison (t : Nat) (f : Team → Team) : (s.onTeam t f).poison = s.poison := rfl
@[simp] theorem State.onTeam_cores (t : Nat) (f : Team → Team) : (s.onTeam t f).cores = s.cores := rfl
@[simp] theorem State.onTeam_quads (t : Nat) (f : Team → Team) : (s.onTeam t f).quads = s.quads := rfl
@[simp] theorem State.onTeam_ctxs (t : Nat) (f : Team → Team) : (s.onTeam t f).ctxs = s.ctxs := rfl
@[simp] theorem State.onTeam_grids (t : Nat) (f : Team → Team) : (s.onTeam t f).grids = s.grids := rfl
@[simp] theorem State.onTeam_l2 (t : Nat) (f : Team → Team) : (s.onTeam t f).l2 = s.l2 := rfl
@[simp] theorem State.onTeam_gatedWays (t : Nat) (f : Team → Team) : (s.onTeam t f).gatedWays = s.gatedWays := rfl
@[simp] theorem State.onTeam_sliceClk (t : Nat) (f : Team → Team) : (s.onTeam t f).sliceClk = s.sliceClk := rfl
@[simp] theorem State.onTeam_walks (t : Nat) (f : Team → Team) : (s.onTeam t f).walks = s.walks := rfl
@[simp] theorem State.onTeam_walking (t : Nat) (f : Team → Team) : (s.onTeam t f).walking = s.walking := rfl
@[simp] theorem State.onTeam_rings (t : Nat) (f : Team → Team) : (s.onTeam t f).rings = s.rings := rfl
@[simp] theorem State.onTeam_heldTraps (t : Nat) (f : Team → Team) : (s.onTeam t f).heldTraps = s.heldTraps := rfl
@[simp] theorem State.onTeam_links (t : Nat) (f : Team → Team) : (s.onTeam t f).links = s.links := rfl
@[simp] theorem State.onTeam_fabLinks (t : Nat) (f : Team → Team) : (s.onTeam t f).fabLinks = s.fabLinks := rfl
@[simp] theorem State.onTeam_removed (t : Nat) (f : Team → Team) : (s.onTeam t f).removed = s.removed := rfl
@[simp] theorem State.onTeam_remotes (t : Nat) (f : Team → Team) : (s.onTeam t f).remotes = s.remotes := rfl
@[simp] theorem State.onTeam_istore (t : Nat) (f : Team → Team) : (s.onTeam t f).istore = s.istore := rfl
@[simp] theorem State.onTeam_touched (t : Nat) (f : Team → Team) : (s.onTeam t f).touched = s.touched := rfl
@[simp] theorem State.onTeam_hub (t : Nat) (f : Team → Team) : (s.onTeam t f).hub = s.hub := rfl

/-! onMine -/

@[simp] theorem State.onMine_agenda (f : Team → Team) : (s.onMine f).agenda = s.agenda := rfl
@[simp] theorem State.onMine_cur (f : Team → Team) : (s.onMine f).cur = s.cur := rfl
@[simp] theorem State.onMine_nonce (f : Team → Team) : (s.onMine f).nonce = s.nonce := rfl
@[simp] theorem State.onMine_clock (f : Team → Team) : (s.onMine f).clock = s.clock := rfl
@[simp] theorem State.onMine_lastTeam (f : Team → Team) : (s.onMine f).lastTeam = s.lastTeam := rfl
@[simp] theorem State.onMine_lastGrid (f : Team → Team) : (s.onMine f).lastGrid = s.lastGrid := rfl
@[simp] theorem State.onMine_lastOp (f : Team → Team) : (s.onMine f).lastOp = s.lastOp := rfl
@[simp] theorem State.onMine_lastTrap (f : Team → Team) : (s.onMine f).lastTrap = s.lastTrap := rfl
@[simp] theorem State.onMine_mem (f : Team → Team) : (s.onMine f).mem = s.mem := rfl
@[simp] theorem State.onMine_memTags (f : Team → Team) : (s.onMine f).memTags = s.memTags := rfl
@[simp] theorem State.onMine_poison (f : Team → Team) : (s.onMine f).poison = s.poison := rfl
@[simp] theorem State.onMine_cores (f : Team → Team) : (s.onMine f).cores = s.cores := rfl
@[simp] theorem State.onMine_quads (f : Team → Team) : (s.onMine f).quads = s.quads := rfl
@[simp] theorem State.onMine_ctxs (f : Team → Team) : (s.onMine f).ctxs = s.ctxs := rfl
@[simp] theorem State.onMine_grids (f : Team → Team) : (s.onMine f).grids = s.grids := rfl
@[simp] theorem State.onMine_l2 (f : Team → Team) : (s.onMine f).l2 = s.l2 := rfl
@[simp] theorem State.onMine_gatedWays (f : Team → Team) : (s.onMine f).gatedWays = s.gatedWays := rfl
@[simp] theorem State.onMine_sliceClk (f : Team → Team) : (s.onMine f).sliceClk = s.sliceClk := rfl
@[simp] theorem State.onMine_walks (f : Team → Team) : (s.onMine f).walks = s.walks := rfl
@[simp] theorem State.onMine_walking (f : Team → Team) : (s.onMine f).walking = s.walking := rfl
@[simp] theorem State.onMine_rings (f : Team → Team) : (s.onMine f).rings = s.rings := rfl
@[simp] theorem State.onMine_heldTraps (f : Team → Team) : (s.onMine f).heldTraps = s.heldTraps := rfl
@[simp] theorem State.onMine_links (f : Team → Team) : (s.onMine f).links = s.links := rfl
@[simp] theorem State.onMine_fabLinks (f : Team → Team) : (s.onMine f).fabLinks = s.fabLinks := rfl
@[simp] theorem State.onMine_removed (f : Team → Team) : (s.onMine f).removed = s.removed := rfl
@[simp] theorem State.onMine_remotes (f : Team → Team) : (s.onMine f).remotes = s.remotes := rfl
@[simp] theorem State.onMine_istore (f : Team → Team) : (s.onMine f).istore = s.istore := rfl
@[simp] theorem State.onMine_touched (f : Team → Team) : (s.onMine f).touched = s.touched := rfl
@[simp] theorem State.onMine_hub (f : Team → Team) : (s.onMine f).hub = s.hub := rfl

/-! onMyStream -/

@[simp] theorem State.onMyStream_agenda (f : Stream → Stream) : (s.onMyStream f).agenda = s.agenda := rfl
@[simp] theorem State.onMyStream_cur (f : Stream → Stream) : (s.onMyStream f).cur = s.cur := rfl
@[simp] theorem State.onMyStream_nonce (f : Stream → Stream) : (s.onMyStream f).nonce = s.nonce := rfl
@[simp] theorem State.onMyStream_clock (f : Stream → Stream) : (s.onMyStream f).clock = s.clock := rfl
@[simp] theorem State.onMyStream_lastTeam (f : Stream → Stream) : (s.onMyStream f).lastTeam = s.lastTeam := rfl
@[simp] theorem State.onMyStream_lastGrid (f : Stream → Stream) : (s.onMyStream f).lastGrid = s.lastGrid := rfl
@[simp] theorem State.onMyStream_lastOp (f : Stream → Stream) : (s.onMyStream f).lastOp = s.lastOp := rfl
@[simp] theorem State.onMyStream_lastTrap (f : Stream → Stream) : (s.onMyStream f).lastTrap = s.lastTrap := rfl
@[simp] theorem State.onMyStream_mem (f : Stream → Stream) : (s.onMyStream f).mem = s.mem := rfl
@[simp] theorem State.onMyStream_memTags (f : Stream → Stream) : (s.onMyStream f).memTags = s.memTags := rfl
@[simp] theorem State.onMyStream_poison (f : Stream → Stream) : (s.onMyStream f).poison = s.poison := rfl
@[simp] theorem State.onMyStream_cores (f : Stream → Stream) : (s.onMyStream f).cores = s.cores := rfl
@[simp] theorem State.onMyStream_quads (f : Stream → Stream) : (s.onMyStream f).quads = s.quads := rfl
@[simp] theorem State.onMyStream_ctxs (f : Stream → Stream) : (s.onMyStream f).ctxs = s.ctxs := rfl
@[simp] theorem State.onMyStream_grids (f : Stream → Stream) : (s.onMyStream f).grids = s.grids := rfl
@[simp] theorem State.onMyStream_l2 (f : Stream → Stream) : (s.onMyStream f).l2 = s.l2 := rfl
@[simp] theorem State.onMyStream_gatedWays (f : Stream → Stream) : (s.onMyStream f).gatedWays = s.gatedWays := rfl
@[simp] theorem State.onMyStream_sliceClk (f : Stream → Stream) : (s.onMyStream f).sliceClk = s.sliceClk := rfl
@[simp] theorem State.onMyStream_walks (f : Stream → Stream) : (s.onMyStream f).walks = s.walks := rfl
@[simp] theorem State.onMyStream_walking (f : Stream → Stream) : (s.onMyStream f).walking = s.walking := rfl
@[simp] theorem State.onMyStream_rings (f : Stream → Stream) : (s.onMyStream f).rings = s.rings := rfl
@[simp] theorem State.onMyStream_heldTraps (f : Stream → Stream) : (s.onMyStream f).heldTraps = s.heldTraps := rfl
@[simp] theorem State.onMyStream_links (f : Stream → Stream) : (s.onMyStream f).links = s.links := rfl
@[simp] theorem State.onMyStream_fabLinks (f : Stream → Stream) : (s.onMyStream f).fabLinks = s.fabLinks := rfl
@[simp] theorem State.onMyStream_removed (f : Stream → Stream) : (s.onMyStream f).removed = s.removed := rfl
@[simp] theorem State.onMyStream_remotes (f : Stream → Stream) : (s.onMyStream f).remotes = s.remotes := rfl
@[simp] theorem State.onMyStream_istore (f : Stream → Stream) : (s.onMyStream f).istore = s.istore := rfl
@[simp] theorem State.onMyStream_touched (f : Stream → Stream) : (s.onMyStream f).touched = s.touched := rfl
@[simp] theorem State.onMyStream_hub (f : Stream → Stream) : (s.onMyStream f).hub = s.hub := rfl

/-! putSreg -/

@[simp] theorem State.putSreg_agenda (i : BitVec 6) (v : W64) : (s.putSreg i v).agenda = s.agenda := rfl
@[simp] theorem State.putSreg_cur (i : BitVec 6) (v : W64) : (s.putSreg i v).cur = s.cur := rfl
@[simp] theorem State.putSreg_nonce (i : BitVec 6) (v : W64) : (s.putSreg i v).nonce = s.nonce := rfl
@[simp] theorem State.putSreg_clock (i : BitVec 6) (v : W64) : (s.putSreg i v).clock = s.clock := rfl
@[simp] theorem State.putSreg_lastTeam (i : BitVec 6) (v : W64) : (s.putSreg i v).lastTeam = s.lastTeam := rfl
@[simp] theorem State.putSreg_lastGrid (i : BitVec 6) (v : W64) : (s.putSreg i v).lastGrid = s.lastGrid := rfl
@[simp] theorem State.putSreg_lastOp (i : BitVec 6) (v : W64) : (s.putSreg i v).lastOp = s.lastOp := rfl
@[simp] theorem State.putSreg_lastTrap (i : BitVec 6) (v : W64) : (s.putSreg i v).lastTrap = s.lastTrap := rfl
@[simp] theorem State.putSreg_mem (i : BitVec 6) (v : W64) : (s.putSreg i v).mem = s.mem := rfl
@[simp] theorem State.putSreg_memTags (i : BitVec 6) (v : W64) : (s.putSreg i v).memTags = s.memTags := rfl
@[simp] theorem State.putSreg_poison (i : BitVec 6) (v : W64) : (s.putSreg i v).poison = s.poison := rfl
@[simp] theorem State.putSreg_cores (i : BitVec 6) (v : W64) : (s.putSreg i v).cores = s.cores := rfl
@[simp] theorem State.putSreg_quads (i : BitVec 6) (v : W64) : (s.putSreg i v).quads = s.quads := rfl
@[simp] theorem State.putSreg_ctxs (i : BitVec 6) (v : W64) : (s.putSreg i v).ctxs = s.ctxs := rfl
@[simp] theorem State.putSreg_grids (i : BitVec 6) (v : W64) : (s.putSreg i v).grids = s.grids := rfl
@[simp] theorem State.putSreg_l2 (i : BitVec 6) (v : W64) : (s.putSreg i v).l2 = s.l2 := rfl
@[simp] theorem State.putSreg_gatedWays (i : BitVec 6) (v : W64) : (s.putSreg i v).gatedWays = s.gatedWays := rfl
@[simp] theorem State.putSreg_sliceClk (i : BitVec 6) (v : W64) : (s.putSreg i v).sliceClk = s.sliceClk := rfl
@[simp] theorem State.putSreg_walks (i : BitVec 6) (v : W64) : (s.putSreg i v).walks = s.walks := rfl
@[simp] theorem State.putSreg_walking (i : BitVec 6) (v : W64) : (s.putSreg i v).walking = s.walking := rfl
@[simp] theorem State.putSreg_rings (i : BitVec 6) (v : W64) : (s.putSreg i v).rings = s.rings := rfl
@[simp] theorem State.putSreg_heldTraps (i : BitVec 6) (v : W64) : (s.putSreg i v).heldTraps = s.heldTraps := rfl
@[simp] theorem State.putSreg_links (i : BitVec 6) (v : W64) : (s.putSreg i v).links = s.links := rfl
@[simp] theorem State.putSreg_fabLinks (i : BitVec 6) (v : W64) : (s.putSreg i v).fabLinks = s.fabLinks := rfl
@[simp] theorem State.putSreg_removed (i : BitVec 6) (v : W64) : (s.putSreg i v).removed = s.removed := rfl
@[simp] theorem State.putSreg_remotes (i : BitVec 6) (v : W64) : (s.putSreg i v).remotes = s.remotes := rfl
@[simp] theorem State.putSreg_istore (i : BitVec 6) (v : W64) : (s.putSreg i v).istore = s.istore := rfl
@[simp] theorem State.putSreg_touched (i : BitVec 6) (v : W64) : (s.putSreg i v).touched = s.touched := rfl
@[simp] theorem State.putSreg_hub (i : BitVec 6) (v : W64) : (s.putSreg i v).hub = s.hub := rfl

/-! orFlagsOf -/

@[simp] theorem State.orFlagsOf_agenda (t : Nat) (x : StreamId) (f : Flags) : (s.orFlagsOf t x f).agenda = s.agenda := rfl
@[simp] theorem State.orFlagsOf_cur (t : Nat) (x : StreamId) (f : Flags) : (s.orFlagsOf t x f).cur = s.cur := rfl
@[simp] theorem State.orFlagsOf_nonce (t : Nat) (x : StreamId) (f : Flags) : (s.orFlagsOf t x f).nonce = s.nonce := rfl
@[simp] theorem State.orFlagsOf_clock (t : Nat) (x : StreamId) (f : Flags) : (s.orFlagsOf t x f).clock = s.clock := rfl
@[simp] theorem State.orFlagsOf_lastTeam (t : Nat) (x : StreamId) (f : Flags) : (s.orFlagsOf t x f).lastTeam = s.lastTeam := rfl
@[simp] theorem State.orFlagsOf_lastGrid (t : Nat) (x : StreamId) (f : Flags) : (s.orFlagsOf t x f).lastGrid = s.lastGrid := rfl
@[simp] theorem State.orFlagsOf_lastOp (t : Nat) (x : StreamId) (f : Flags) : (s.orFlagsOf t x f).lastOp = s.lastOp := rfl
@[simp] theorem State.orFlagsOf_lastTrap (t : Nat) (x : StreamId) (f : Flags) : (s.orFlagsOf t x f).lastTrap = s.lastTrap := rfl
@[simp] theorem State.orFlagsOf_mem (t : Nat) (x : StreamId) (f : Flags) : (s.orFlagsOf t x f).mem = s.mem := rfl
@[simp] theorem State.orFlagsOf_memTags (t : Nat) (x : StreamId) (f : Flags) : (s.orFlagsOf t x f).memTags = s.memTags := rfl
@[simp] theorem State.orFlagsOf_poison (t : Nat) (x : StreamId) (f : Flags) : (s.orFlagsOf t x f).poison = s.poison := rfl
@[simp] theorem State.orFlagsOf_cores (t : Nat) (x : StreamId) (f : Flags) : (s.orFlagsOf t x f).cores = s.cores := rfl
@[simp] theorem State.orFlagsOf_quads (t : Nat) (x : StreamId) (f : Flags) : (s.orFlagsOf t x f).quads = s.quads := rfl
@[simp] theorem State.orFlagsOf_ctxs (t : Nat) (x : StreamId) (f : Flags) : (s.orFlagsOf t x f).ctxs = s.ctxs := rfl
@[simp] theorem State.orFlagsOf_grids (t : Nat) (x : StreamId) (f : Flags) : (s.orFlagsOf t x f).grids = s.grids := rfl
@[simp] theorem State.orFlagsOf_l2 (t : Nat) (x : StreamId) (f : Flags) : (s.orFlagsOf t x f).l2 = s.l2 := rfl
@[simp] theorem State.orFlagsOf_gatedWays (t : Nat) (x : StreamId) (f : Flags) : (s.orFlagsOf t x f).gatedWays = s.gatedWays := rfl
@[simp] theorem State.orFlagsOf_sliceClk (t : Nat) (x : StreamId) (f : Flags) : (s.orFlagsOf t x f).sliceClk = s.sliceClk := rfl
@[simp] theorem State.orFlagsOf_walks (t : Nat) (x : StreamId) (f : Flags) : (s.orFlagsOf t x f).walks = s.walks := rfl
@[simp] theorem State.orFlagsOf_walking (t : Nat) (x : StreamId) (f : Flags) : (s.orFlagsOf t x f).walking = s.walking := rfl
@[simp] theorem State.orFlagsOf_rings (t : Nat) (x : StreamId) (f : Flags) : (s.orFlagsOf t x f).rings = s.rings := rfl
@[simp] theorem State.orFlagsOf_heldTraps (t : Nat) (x : StreamId) (f : Flags) : (s.orFlagsOf t x f).heldTraps = s.heldTraps := rfl
@[simp] theorem State.orFlagsOf_links (t : Nat) (x : StreamId) (f : Flags) : (s.orFlagsOf t x f).links = s.links := rfl
@[simp] theorem State.orFlagsOf_fabLinks (t : Nat) (x : StreamId) (f : Flags) : (s.orFlagsOf t x f).fabLinks = s.fabLinks := rfl
@[simp] theorem State.orFlagsOf_removed (t : Nat) (x : StreamId) (f : Flags) : (s.orFlagsOf t x f).removed = s.removed := rfl
@[simp] theorem State.orFlagsOf_remotes (t : Nat) (x : StreamId) (f : Flags) : (s.orFlagsOf t x f).remotes = s.remotes := rfl
@[simp] theorem State.orFlagsOf_istore (t : Nat) (x : StreamId) (f : Flags) : (s.orFlagsOf t x f).istore = s.istore := rfl
@[simp] theorem State.orFlagsOf_touched (t : Nat) (x : StreamId) (f : Flags) : (s.orFlagsOf t x f).touched = s.touched := rfl
@[simp] theorem State.orFlagsOf_hub (t : Nat) (x : StreamId) (f : Flags) : (s.orFlagsOf t x f).hub = s.hub := rfl

/-! orFlags -/

@[simp] theorem State.orFlags_agenda (f : Flags) : (s.orFlags f).agenda = s.agenda := rfl
@[simp] theorem State.orFlags_cur (f : Flags) : (s.orFlags f).cur = s.cur := rfl
@[simp] theorem State.orFlags_nonce (f : Flags) : (s.orFlags f).nonce = s.nonce := rfl
@[simp] theorem State.orFlags_clock (f : Flags) : (s.orFlags f).clock = s.clock := rfl
@[simp] theorem State.orFlags_lastTeam (f : Flags) : (s.orFlags f).lastTeam = s.lastTeam := rfl
@[simp] theorem State.orFlags_lastGrid (f : Flags) : (s.orFlags f).lastGrid = s.lastGrid := rfl
@[simp] theorem State.orFlags_lastOp (f : Flags) : (s.orFlags f).lastOp = s.lastOp := rfl
@[simp] theorem State.orFlags_lastTrap (f : Flags) : (s.orFlags f).lastTrap = s.lastTrap := rfl
@[simp] theorem State.orFlags_mem (f : Flags) : (s.orFlags f).mem = s.mem := rfl
@[simp] theorem State.orFlags_memTags (f : Flags) : (s.orFlags f).memTags = s.memTags := rfl
@[simp] theorem State.orFlags_poison (f : Flags) : (s.orFlags f).poison = s.poison := rfl
@[simp] theorem State.orFlags_cores (f : Flags) : (s.orFlags f).cores = s.cores := rfl
@[simp] theorem State.orFlags_quads (f : Flags) : (s.orFlags f).quads = s.quads := rfl
@[simp] theorem State.orFlags_ctxs (f : Flags) : (s.orFlags f).ctxs = s.ctxs := rfl
@[simp] theorem State.orFlags_grids (f : Flags) : (s.orFlags f).grids = s.grids := rfl
@[simp] theorem State.orFlags_l2 (f : Flags) : (s.orFlags f).l2 = s.l2 := rfl
@[simp] theorem State.orFlags_gatedWays (f : Flags) : (s.orFlags f).gatedWays = s.gatedWays := rfl
@[simp] theorem State.orFlags_sliceClk (f : Flags) : (s.orFlags f).sliceClk = s.sliceClk := rfl
@[simp] theorem State.orFlags_walks (f : Flags) : (s.orFlags f).walks = s.walks := rfl
@[simp] theorem State.orFlags_walking (f : Flags) : (s.orFlags f).walking = s.walking := rfl
@[simp] theorem State.orFlags_rings (f : Flags) : (s.orFlags f).rings = s.rings := rfl
@[simp] theorem State.orFlags_heldTraps (f : Flags) : (s.orFlags f).heldTraps = s.heldTraps := rfl
@[simp] theorem State.orFlags_links (f : Flags) : (s.orFlags f).links = s.links := rfl
@[simp] theorem State.orFlags_fabLinks (f : Flags) : (s.orFlags f).fabLinks = s.fabLinks := rfl
@[simp] theorem State.orFlags_removed (f : Flags) : (s.orFlags f).removed = s.removed := rfl
@[simp] theorem State.orFlags_remotes (f : Flags) : (s.orFlags f).remotes = s.remotes := rfl
@[simp] theorem State.orFlags_istore (f : Flags) : (s.orFlags f).istore = s.istore := rfl
@[simp] theorem State.orFlags_touched (f : Flags) : (s.orFlags f).touched = s.touched := rfl
@[simp] theorem State.orFlags_hub (f : Flags) : (s.orFlags f).hub = s.hub := rfl

/-! setCore -/

@[simp] theorem State.setCore_agenda (c : Nat) (C : Core) : (s.setCore c C).agenda = s.agenda := rfl
@[simp] theorem State.setCore_cur (c : Nat) (C : Core) : (s.setCore c C).cur = s.cur := rfl
@[simp] theorem State.setCore_nonce (c : Nat) (C : Core) : (s.setCore c C).nonce = s.nonce := rfl
@[simp] theorem State.setCore_clock (c : Nat) (C : Core) : (s.setCore c C).clock = s.clock := rfl
@[simp] theorem State.setCore_lastTeam (c : Nat) (C : Core) : (s.setCore c C).lastTeam = s.lastTeam := rfl
@[simp] theorem State.setCore_lastGrid (c : Nat) (C : Core) : (s.setCore c C).lastGrid = s.lastGrid := rfl
@[simp] theorem State.setCore_lastOp (c : Nat) (C : Core) : (s.setCore c C).lastOp = s.lastOp := rfl
@[simp] theorem State.setCore_lastTrap (c : Nat) (C : Core) : (s.setCore c C).lastTrap = s.lastTrap := rfl
@[simp] theorem State.setCore_mem (c : Nat) (C : Core) : (s.setCore c C).mem = s.mem := rfl
@[simp] theorem State.setCore_memTags (c : Nat) (C : Core) : (s.setCore c C).memTags = s.memTags := rfl
@[simp] theorem State.setCore_poison (c : Nat) (C : Core) : (s.setCore c C).poison = s.poison := rfl
@[simp] theorem State.setCore_teams (c : Nat) (C : Core) : (s.setCore c C).teams = s.teams := rfl
@[simp] theorem State.setCore_quads (c : Nat) (C : Core) : (s.setCore c C).quads = s.quads := rfl
@[simp] theorem State.setCore_ctxs (c : Nat) (C : Core) : (s.setCore c C).ctxs = s.ctxs := rfl
@[simp] theorem State.setCore_grids (c : Nat) (C : Core) : (s.setCore c C).grids = s.grids := rfl
@[simp] theorem State.setCore_l2 (c : Nat) (C : Core) : (s.setCore c C).l2 = s.l2 := rfl
@[simp] theorem State.setCore_gatedWays (c : Nat) (C : Core) : (s.setCore c C).gatedWays = s.gatedWays := rfl
@[simp] theorem State.setCore_sliceClk (c : Nat) (C : Core) : (s.setCore c C).sliceClk = s.sliceClk := rfl
@[simp] theorem State.setCore_walks (c : Nat) (C : Core) : (s.setCore c C).walks = s.walks := rfl
@[simp] theorem State.setCore_walking (c : Nat) (C : Core) : (s.setCore c C).walking = s.walking := rfl
@[simp] theorem State.setCore_rings (c : Nat) (C : Core) : (s.setCore c C).rings = s.rings := rfl
@[simp] theorem State.setCore_heldTraps (c : Nat) (C : Core) : (s.setCore c C).heldTraps = s.heldTraps := rfl
@[simp] theorem State.setCore_links (c : Nat) (C : Core) : (s.setCore c C).links = s.links := rfl
@[simp] theorem State.setCore_fabLinks (c : Nat) (C : Core) : (s.setCore c C).fabLinks = s.fabLinks := rfl
@[simp] theorem State.setCore_removed (c : Nat) (C : Core) : (s.setCore c C).removed = s.removed := rfl
@[simp] theorem State.setCore_remotes (c : Nat) (C : Core) : (s.setCore c C).remotes = s.remotes := rfl
@[simp] theorem State.setCore_istore (c : Nat) (C : Core) : (s.setCore c C).istore = s.istore := rfl
@[simp] theorem State.setCore_touched (c : Nat) (C : Core) : (s.setCore c C).touched = s.touched := rfl
@[simp] theorem State.setCore_hub (c : Nat) (C : Core) : (s.setCore c C).hub = s.hub := rfl

/-! onCore -/

@[simp] theorem State.onCore_agenda (c : Nat) (f : Core → Core) : (s.onCore c f).agenda = s.agenda := rfl
@[simp] theorem State.onCore_cur (c : Nat) (f : Core → Core) : (s.onCore c f).cur = s.cur := rfl
@[simp] theorem State.onCore_nonce (c : Nat) (f : Core → Core) : (s.onCore c f).nonce = s.nonce := rfl
@[simp] theorem State.onCore_clock (c : Nat) (f : Core → Core) : (s.onCore c f).clock = s.clock := rfl
@[simp] theorem State.onCore_lastTeam (c : Nat) (f : Core → Core) : (s.onCore c f).lastTeam = s.lastTeam := rfl
@[simp] theorem State.onCore_lastGrid (c : Nat) (f : Core → Core) : (s.onCore c f).lastGrid = s.lastGrid := rfl
@[simp] theorem State.onCore_lastOp (c : Nat) (f : Core → Core) : (s.onCore c f).lastOp = s.lastOp := rfl
@[simp] theorem State.onCore_lastTrap (c : Nat) (f : Core → Core) : (s.onCore c f).lastTrap = s.lastTrap := rfl
@[simp] theorem State.onCore_mem (c : Nat) (f : Core → Core) : (s.onCore c f).mem = s.mem := rfl
@[simp] theorem State.onCore_memTags (c : Nat) (f : Core → Core) : (s.onCore c f).memTags = s.memTags := rfl
@[simp] theorem State.onCore_poison (c : Nat) (f : Core → Core) : (s.onCore c f).poison = s.poison := rfl
@[simp] theorem State.onCore_teams (c : Nat) (f : Core → Core) : (s.onCore c f).teams = s.teams := rfl
@[simp] theorem State.onCore_quads (c : Nat) (f : Core → Core) : (s.onCore c f).quads = s.quads := rfl
@[simp] theorem State.onCore_ctxs (c : Nat) (f : Core → Core) : (s.onCore c f).ctxs = s.ctxs := rfl
@[simp] theorem State.onCore_grids (c : Nat) (f : Core → Core) : (s.onCore c f).grids = s.grids := rfl
@[simp] theorem State.onCore_l2 (c : Nat) (f : Core → Core) : (s.onCore c f).l2 = s.l2 := rfl
@[simp] theorem State.onCore_gatedWays (c : Nat) (f : Core → Core) : (s.onCore c f).gatedWays = s.gatedWays := rfl
@[simp] theorem State.onCore_sliceClk (c : Nat) (f : Core → Core) : (s.onCore c f).sliceClk = s.sliceClk := rfl
@[simp] theorem State.onCore_walks (c : Nat) (f : Core → Core) : (s.onCore c f).walks = s.walks := rfl
@[simp] theorem State.onCore_walking (c : Nat) (f : Core → Core) : (s.onCore c f).walking = s.walking := rfl
@[simp] theorem State.onCore_rings (c : Nat) (f : Core → Core) : (s.onCore c f).rings = s.rings := rfl
@[simp] theorem State.onCore_heldTraps (c : Nat) (f : Core → Core) : (s.onCore c f).heldTraps = s.heldTraps := rfl
@[simp] theorem State.onCore_links (c : Nat) (f : Core → Core) : (s.onCore c f).links = s.links := rfl
@[simp] theorem State.onCore_fabLinks (c : Nat) (f : Core → Core) : (s.onCore c f).fabLinks = s.fabLinks := rfl
@[simp] theorem State.onCore_removed (c : Nat) (f : Core → Core) : (s.onCore c f).removed = s.removed := rfl
@[simp] theorem State.onCore_remotes (c : Nat) (f : Core → Core) : (s.onCore c f).remotes = s.remotes := rfl
@[simp] theorem State.onCore_istore (c : Nat) (f : Core → Core) : (s.onCore c f).istore = s.istore := rfl
@[simp] theorem State.onCore_touched (c : Nat) (f : Core → Core) : (s.onCore c f).touched = s.touched := rfl
@[simp] theorem State.onCore_hub (c : Nat) (f : Core → Core) : (s.onCore c f).hub = s.hub := rfl

/-! issuedAt -/

@[simp] theorem State.issuedAt_agenda (c : Nat) (x : StreamId) : (s.issuedAt c x).agenda = s.agenda := rfl
@[simp] theorem State.issuedAt_cur (c : Nat) (x : StreamId) : (s.issuedAt c x).cur = s.cur := rfl
@[simp] theorem State.issuedAt_nonce (c : Nat) (x : StreamId) : (s.issuedAt c x).nonce = s.nonce := rfl
@[simp] theorem State.issuedAt_clock (c : Nat) (x : StreamId) : (s.issuedAt c x).clock = s.clock := rfl
@[simp] theorem State.issuedAt_lastTeam (c : Nat) (x : StreamId) : (s.issuedAt c x).lastTeam = s.lastTeam := rfl
@[simp] theorem State.issuedAt_lastGrid (c : Nat) (x : StreamId) : (s.issuedAt c x).lastGrid = s.lastGrid := rfl
@[simp] theorem State.issuedAt_lastOp (c : Nat) (x : StreamId) : (s.issuedAt c x).lastOp = s.lastOp := rfl
@[simp] theorem State.issuedAt_lastTrap (c : Nat) (x : StreamId) : (s.issuedAt c x).lastTrap = s.lastTrap := rfl
@[simp] theorem State.issuedAt_mem (c : Nat) (x : StreamId) : (s.issuedAt c x).mem = s.mem := rfl
@[simp] theorem State.issuedAt_memTags (c : Nat) (x : StreamId) : (s.issuedAt c x).memTags = s.memTags := rfl
@[simp] theorem State.issuedAt_poison (c : Nat) (x : StreamId) : (s.issuedAt c x).poison = s.poison := rfl
@[simp] theorem State.issuedAt_teams (c : Nat) (x : StreamId) : (s.issuedAt c x).teams = s.teams := rfl
@[simp] theorem State.issuedAt_quads (c : Nat) (x : StreamId) : (s.issuedAt c x).quads = s.quads := rfl
@[simp] theorem State.issuedAt_ctxs (c : Nat) (x : StreamId) : (s.issuedAt c x).ctxs = s.ctxs := rfl
@[simp] theorem State.issuedAt_grids (c : Nat) (x : StreamId) : (s.issuedAt c x).grids = s.grids := rfl
@[simp] theorem State.issuedAt_l2 (c : Nat) (x : StreamId) : (s.issuedAt c x).l2 = s.l2 := rfl
@[simp] theorem State.issuedAt_gatedWays (c : Nat) (x : StreamId) : (s.issuedAt c x).gatedWays = s.gatedWays := rfl
@[simp] theorem State.issuedAt_sliceClk (c : Nat) (x : StreamId) : (s.issuedAt c x).sliceClk = s.sliceClk := rfl
@[simp] theorem State.issuedAt_walks (c : Nat) (x : StreamId) : (s.issuedAt c x).walks = s.walks := rfl
@[simp] theorem State.issuedAt_walking (c : Nat) (x : StreamId) : (s.issuedAt c x).walking = s.walking := rfl
@[simp] theorem State.issuedAt_rings (c : Nat) (x : StreamId) : (s.issuedAt c x).rings = s.rings := rfl
@[simp] theorem State.issuedAt_heldTraps (c : Nat) (x : StreamId) : (s.issuedAt c x).heldTraps = s.heldTraps := rfl
@[simp] theorem State.issuedAt_links (c : Nat) (x : StreamId) : (s.issuedAt c x).links = s.links := rfl
@[simp] theorem State.issuedAt_fabLinks (c : Nat) (x : StreamId) : (s.issuedAt c x).fabLinks = s.fabLinks := rfl
@[simp] theorem State.issuedAt_removed (c : Nat) (x : StreamId) : (s.issuedAt c x).removed = s.removed := rfl
@[simp] theorem State.issuedAt_remotes (c : Nat) (x : StreamId) : (s.issuedAt c x).remotes = s.remotes := rfl
@[simp] theorem State.issuedAt_istore (c : Nat) (x : StreamId) : (s.issuedAt c x).istore = s.istore := rfl
@[simp] theorem State.issuedAt_touched (c : Nat) (x : StreamId) : (s.issuedAt c x).touched = s.touched := rfl
@[simp] theorem State.issuedAt_hub (c : Nat) (x : StreamId) : (s.issuedAt c x).hub = s.hub := rfl

/-! setQuad -/

@[simp] theorem State.setQuad_agenda (q : Nat) (Q : Quad) : (s.setQuad q Q).agenda = s.agenda := rfl
@[simp] theorem State.setQuad_cur (q : Nat) (Q : Quad) : (s.setQuad q Q).cur = s.cur := rfl
@[simp] theorem State.setQuad_nonce (q : Nat) (Q : Quad) : (s.setQuad q Q).nonce = s.nonce := rfl
@[simp] theorem State.setQuad_clock (q : Nat) (Q : Quad) : (s.setQuad q Q).clock = s.clock := rfl
@[simp] theorem State.setQuad_lastTeam (q : Nat) (Q : Quad) : (s.setQuad q Q).lastTeam = s.lastTeam := rfl
@[simp] theorem State.setQuad_lastGrid (q : Nat) (Q : Quad) : (s.setQuad q Q).lastGrid = s.lastGrid := rfl
@[simp] theorem State.setQuad_lastOp (q : Nat) (Q : Quad) : (s.setQuad q Q).lastOp = s.lastOp := rfl
@[simp] theorem State.setQuad_lastTrap (q : Nat) (Q : Quad) : (s.setQuad q Q).lastTrap = s.lastTrap := rfl
@[simp] theorem State.setQuad_mem (q : Nat) (Q : Quad) : (s.setQuad q Q).mem = s.mem := rfl
@[simp] theorem State.setQuad_memTags (q : Nat) (Q : Quad) : (s.setQuad q Q).memTags = s.memTags := rfl
@[simp] theorem State.setQuad_poison (q : Nat) (Q : Quad) : (s.setQuad q Q).poison = s.poison := rfl
@[simp] theorem State.setQuad_teams (q : Nat) (Q : Quad) : (s.setQuad q Q).teams = s.teams := rfl
@[simp] theorem State.setQuad_cores (q : Nat) (Q : Quad) : (s.setQuad q Q).cores = s.cores := rfl
@[simp] theorem State.setQuad_ctxs (q : Nat) (Q : Quad) : (s.setQuad q Q).ctxs = s.ctxs := rfl
@[simp] theorem State.setQuad_grids (q : Nat) (Q : Quad) : (s.setQuad q Q).grids = s.grids := rfl
@[simp] theorem State.setQuad_l2 (q : Nat) (Q : Quad) : (s.setQuad q Q).l2 = s.l2 := rfl
@[simp] theorem State.setQuad_gatedWays (q : Nat) (Q : Quad) : (s.setQuad q Q).gatedWays = s.gatedWays := rfl
@[simp] theorem State.setQuad_sliceClk (q : Nat) (Q : Quad) : (s.setQuad q Q).sliceClk = s.sliceClk := rfl
@[simp] theorem State.setQuad_walks (q : Nat) (Q : Quad) : (s.setQuad q Q).walks = s.walks := rfl
@[simp] theorem State.setQuad_walking (q : Nat) (Q : Quad) : (s.setQuad q Q).walking = s.walking := rfl
@[simp] theorem State.setQuad_rings (q : Nat) (Q : Quad) : (s.setQuad q Q).rings = s.rings := rfl
@[simp] theorem State.setQuad_heldTraps (q : Nat) (Q : Quad) : (s.setQuad q Q).heldTraps = s.heldTraps := rfl
@[simp] theorem State.setQuad_links (q : Nat) (Q : Quad) : (s.setQuad q Q).links = s.links := rfl
@[simp] theorem State.setQuad_fabLinks (q : Nat) (Q : Quad) : (s.setQuad q Q).fabLinks = s.fabLinks := rfl
@[simp] theorem State.setQuad_removed (q : Nat) (Q : Quad) : (s.setQuad q Q).removed = s.removed := rfl
@[simp] theorem State.setQuad_remotes (q : Nat) (Q : Quad) : (s.setQuad q Q).remotes = s.remotes := rfl
@[simp] theorem State.setQuad_istore (q : Nat) (Q : Quad) : (s.setQuad q Q).istore = s.istore := rfl
@[simp] theorem State.setQuad_touched (q : Nat) (Q : Quad) : (s.setQuad q Q).touched = s.touched := rfl
@[simp] theorem State.setQuad_hub (q : Nat) (Q : Quad) : (s.setQuad q Q).hub = s.hub := rfl

/-! onQuad -/

@[simp] theorem State.onQuad_agenda (q : Nat) (f : Quad → Quad) : (s.onQuad q f).agenda = s.agenda := rfl
@[simp] theorem State.onQuad_cur (q : Nat) (f : Quad → Quad) : (s.onQuad q f).cur = s.cur := rfl
@[simp] theorem State.onQuad_nonce (q : Nat) (f : Quad → Quad) : (s.onQuad q f).nonce = s.nonce := rfl
@[simp] theorem State.onQuad_clock (q : Nat) (f : Quad → Quad) : (s.onQuad q f).clock = s.clock := rfl
@[simp] theorem State.onQuad_lastTeam (q : Nat) (f : Quad → Quad) : (s.onQuad q f).lastTeam = s.lastTeam := rfl
@[simp] theorem State.onQuad_lastGrid (q : Nat) (f : Quad → Quad) : (s.onQuad q f).lastGrid = s.lastGrid := rfl
@[simp] theorem State.onQuad_lastOp (q : Nat) (f : Quad → Quad) : (s.onQuad q f).lastOp = s.lastOp := rfl
@[simp] theorem State.onQuad_lastTrap (q : Nat) (f : Quad → Quad) : (s.onQuad q f).lastTrap = s.lastTrap := rfl
@[simp] theorem State.onQuad_mem (q : Nat) (f : Quad → Quad) : (s.onQuad q f).mem = s.mem := rfl
@[simp] theorem State.onQuad_memTags (q : Nat) (f : Quad → Quad) : (s.onQuad q f).memTags = s.memTags := rfl
@[simp] theorem State.onQuad_poison (q : Nat) (f : Quad → Quad) : (s.onQuad q f).poison = s.poison := rfl
@[simp] theorem State.onQuad_teams (q : Nat) (f : Quad → Quad) : (s.onQuad q f).teams = s.teams := rfl
@[simp] theorem State.onQuad_cores (q : Nat) (f : Quad → Quad) : (s.onQuad q f).cores = s.cores := rfl
@[simp] theorem State.onQuad_ctxs (q : Nat) (f : Quad → Quad) : (s.onQuad q f).ctxs = s.ctxs := rfl
@[simp] theorem State.onQuad_grids (q : Nat) (f : Quad → Quad) : (s.onQuad q f).grids = s.grids := rfl
@[simp] theorem State.onQuad_l2 (q : Nat) (f : Quad → Quad) : (s.onQuad q f).l2 = s.l2 := rfl
@[simp] theorem State.onQuad_gatedWays (q : Nat) (f : Quad → Quad) : (s.onQuad q f).gatedWays = s.gatedWays := rfl
@[simp] theorem State.onQuad_sliceClk (q : Nat) (f : Quad → Quad) : (s.onQuad q f).sliceClk = s.sliceClk := rfl
@[simp] theorem State.onQuad_walks (q : Nat) (f : Quad → Quad) : (s.onQuad q f).walks = s.walks := rfl
@[simp] theorem State.onQuad_walking (q : Nat) (f : Quad → Quad) : (s.onQuad q f).walking = s.walking := rfl
@[simp] theorem State.onQuad_rings (q : Nat) (f : Quad → Quad) : (s.onQuad q f).rings = s.rings := rfl
@[simp] theorem State.onQuad_heldTraps (q : Nat) (f : Quad → Quad) : (s.onQuad q f).heldTraps = s.heldTraps := rfl
@[simp] theorem State.onQuad_links (q : Nat) (f : Quad → Quad) : (s.onQuad q f).links = s.links := rfl
@[simp] theorem State.onQuad_fabLinks (q : Nat) (f : Quad → Quad) : (s.onQuad q f).fabLinks = s.fabLinks := rfl
@[simp] theorem State.onQuad_removed (q : Nat) (f : Quad → Quad) : (s.onQuad q f).removed = s.removed := rfl
@[simp] theorem State.onQuad_remotes (q : Nat) (f : Quad → Quad) : (s.onQuad q f).remotes = s.remotes := rfl
@[simp] theorem State.onQuad_istore (q : Nat) (f : Quad → Quad) : (s.onQuad q f).istore = s.istore := rfl
@[simp] theorem State.onQuad_touched (q : Nat) (f : Quad → Quad) : (s.onQuad q f).touched = s.touched := rfl
@[simp] theorem State.onQuad_hub (q : Nat) (f : Quad → Quad) : (s.onQuad q f).hub = s.hub := rfl

/-! setCtx -/

@[simp] theorem State.setCtx_agenda (c : Nat) (C : Context) : (s.setCtx c C).agenda = s.agenda := rfl
@[simp] theorem State.setCtx_cur (c : Nat) (C : Context) : (s.setCtx c C).cur = s.cur := rfl
@[simp] theorem State.setCtx_nonce (c : Nat) (C : Context) : (s.setCtx c C).nonce = s.nonce := rfl
@[simp] theorem State.setCtx_clock (c : Nat) (C : Context) : (s.setCtx c C).clock = s.clock := rfl
@[simp] theorem State.setCtx_lastTeam (c : Nat) (C : Context) : (s.setCtx c C).lastTeam = s.lastTeam := rfl
@[simp] theorem State.setCtx_lastGrid (c : Nat) (C : Context) : (s.setCtx c C).lastGrid = s.lastGrid := rfl
@[simp] theorem State.setCtx_lastOp (c : Nat) (C : Context) : (s.setCtx c C).lastOp = s.lastOp := rfl
@[simp] theorem State.setCtx_lastTrap (c : Nat) (C : Context) : (s.setCtx c C).lastTrap = s.lastTrap := rfl
@[simp] theorem State.setCtx_mem (c : Nat) (C : Context) : (s.setCtx c C).mem = s.mem := rfl
@[simp] theorem State.setCtx_memTags (c : Nat) (C : Context) : (s.setCtx c C).memTags = s.memTags := rfl
@[simp] theorem State.setCtx_poison (c : Nat) (C : Context) : (s.setCtx c C).poison = s.poison := rfl
@[simp] theorem State.setCtx_teams (c : Nat) (C : Context) : (s.setCtx c C).teams = s.teams := rfl
@[simp] theorem State.setCtx_cores (c : Nat) (C : Context) : (s.setCtx c C).cores = s.cores := rfl
@[simp] theorem State.setCtx_quads (c : Nat) (C : Context) : (s.setCtx c C).quads = s.quads := rfl
@[simp] theorem State.setCtx_grids (c : Nat) (C : Context) : (s.setCtx c C).grids = s.grids := rfl
@[simp] theorem State.setCtx_l2 (c : Nat) (C : Context) : (s.setCtx c C).l2 = s.l2 := rfl
@[simp] theorem State.setCtx_gatedWays (c : Nat) (C : Context) : (s.setCtx c C).gatedWays = s.gatedWays := rfl
@[simp] theorem State.setCtx_sliceClk (c : Nat) (C : Context) : (s.setCtx c C).sliceClk = s.sliceClk := rfl
@[simp] theorem State.setCtx_walks (c : Nat) (C : Context) : (s.setCtx c C).walks = s.walks := rfl
@[simp] theorem State.setCtx_walking (c : Nat) (C : Context) : (s.setCtx c C).walking = s.walking := rfl
@[simp] theorem State.setCtx_rings (c : Nat) (C : Context) : (s.setCtx c C).rings = s.rings := rfl
@[simp] theorem State.setCtx_heldTraps (c : Nat) (C : Context) : (s.setCtx c C).heldTraps = s.heldTraps := rfl
@[simp] theorem State.setCtx_links (c : Nat) (C : Context) : (s.setCtx c C).links = s.links := rfl
@[simp] theorem State.setCtx_fabLinks (c : Nat) (C : Context) : (s.setCtx c C).fabLinks = s.fabLinks := rfl
@[simp] theorem State.setCtx_removed (c : Nat) (C : Context) : (s.setCtx c C).removed = s.removed := rfl
@[simp] theorem State.setCtx_remotes (c : Nat) (C : Context) : (s.setCtx c C).remotes = s.remotes := rfl
@[simp] theorem State.setCtx_istore (c : Nat) (C : Context) : (s.setCtx c C).istore = s.istore := rfl
@[simp] theorem State.setCtx_touched (c : Nat) (C : Context) : (s.setCtx c C).touched = s.touched := rfl
@[simp] theorem State.setCtx_hub (c : Nat) (C : Context) : (s.setCtx c C).hub = s.hub := rfl

/-! onCtx -/

@[simp] theorem State.onCtx_agenda (c : Nat) (f : Context → Context) : (s.onCtx c f).agenda = s.agenda := rfl
@[simp] theorem State.onCtx_cur (c : Nat) (f : Context → Context) : (s.onCtx c f).cur = s.cur := rfl
@[simp] theorem State.onCtx_nonce (c : Nat) (f : Context → Context) : (s.onCtx c f).nonce = s.nonce := rfl
@[simp] theorem State.onCtx_clock (c : Nat) (f : Context → Context) : (s.onCtx c f).clock = s.clock := rfl
@[simp] theorem State.onCtx_lastTeam (c : Nat) (f : Context → Context) : (s.onCtx c f).lastTeam = s.lastTeam := rfl
@[simp] theorem State.onCtx_lastGrid (c : Nat) (f : Context → Context) : (s.onCtx c f).lastGrid = s.lastGrid := rfl
@[simp] theorem State.onCtx_lastOp (c : Nat) (f : Context → Context) : (s.onCtx c f).lastOp = s.lastOp := rfl
@[simp] theorem State.onCtx_lastTrap (c : Nat) (f : Context → Context) : (s.onCtx c f).lastTrap = s.lastTrap := rfl
@[simp] theorem State.onCtx_mem (c : Nat) (f : Context → Context) : (s.onCtx c f).mem = s.mem := rfl
@[simp] theorem State.onCtx_memTags (c : Nat) (f : Context → Context) : (s.onCtx c f).memTags = s.memTags := rfl
@[simp] theorem State.onCtx_poison (c : Nat) (f : Context → Context) : (s.onCtx c f).poison = s.poison := rfl
@[simp] theorem State.onCtx_teams (c : Nat) (f : Context → Context) : (s.onCtx c f).teams = s.teams := rfl
@[simp] theorem State.onCtx_cores (c : Nat) (f : Context → Context) : (s.onCtx c f).cores = s.cores := rfl
@[simp] theorem State.onCtx_quads (c : Nat) (f : Context → Context) : (s.onCtx c f).quads = s.quads := rfl
@[simp] theorem State.onCtx_grids (c : Nat) (f : Context → Context) : (s.onCtx c f).grids = s.grids := rfl
@[simp] theorem State.onCtx_l2 (c : Nat) (f : Context → Context) : (s.onCtx c f).l2 = s.l2 := rfl
@[simp] theorem State.onCtx_gatedWays (c : Nat) (f : Context → Context) : (s.onCtx c f).gatedWays = s.gatedWays := rfl
@[simp] theorem State.onCtx_sliceClk (c : Nat) (f : Context → Context) : (s.onCtx c f).sliceClk = s.sliceClk := rfl
@[simp] theorem State.onCtx_walks (c : Nat) (f : Context → Context) : (s.onCtx c f).walks = s.walks := rfl
@[simp] theorem State.onCtx_walking (c : Nat) (f : Context → Context) : (s.onCtx c f).walking = s.walking := rfl
@[simp] theorem State.onCtx_rings (c : Nat) (f : Context → Context) : (s.onCtx c f).rings = s.rings := rfl
@[simp] theorem State.onCtx_heldTraps (c : Nat) (f : Context → Context) : (s.onCtx c f).heldTraps = s.heldTraps := rfl
@[simp] theorem State.onCtx_links (c : Nat) (f : Context → Context) : (s.onCtx c f).links = s.links := rfl
@[simp] theorem State.onCtx_fabLinks (c : Nat) (f : Context → Context) : (s.onCtx c f).fabLinks = s.fabLinks := rfl
@[simp] theorem State.onCtx_removed (c : Nat) (f : Context → Context) : (s.onCtx c f).removed = s.removed := rfl
@[simp] theorem State.onCtx_remotes (c : Nat) (f : Context → Context) : (s.onCtx c f).remotes = s.remotes := rfl
@[simp] theorem State.onCtx_istore (c : Nat) (f : Context → Context) : (s.onCtx c f).istore = s.istore := rfl
@[simp] theorem State.onCtx_touched (c : Nat) (f : Context → Context) : (s.onCtx c f).touched = s.touched := rfl
@[simp] theorem State.onCtx_hub (c : Nat) (f : Context → Context) : (s.onCtx c f).hub = s.hub := rfl

/-! setGrid -/

@[simp] theorem State.setGrid_agenda (g : Nat) (G : Grid) : (s.setGrid g G).agenda = s.agenda := rfl
@[simp] theorem State.setGrid_cur (g : Nat) (G : Grid) : (s.setGrid g G).cur = s.cur := rfl
@[simp] theorem State.setGrid_nonce (g : Nat) (G : Grid) : (s.setGrid g G).nonce = s.nonce := rfl
@[simp] theorem State.setGrid_clock (g : Nat) (G : Grid) : (s.setGrid g G).clock = s.clock := rfl
@[simp] theorem State.setGrid_lastTeam (g : Nat) (G : Grid) : (s.setGrid g G).lastTeam = s.lastTeam := rfl
@[simp] theorem State.setGrid_lastGrid (g : Nat) (G : Grid) : (s.setGrid g G).lastGrid = s.lastGrid := rfl
@[simp] theorem State.setGrid_lastOp (g : Nat) (G : Grid) : (s.setGrid g G).lastOp = s.lastOp := rfl
@[simp] theorem State.setGrid_lastTrap (g : Nat) (G : Grid) : (s.setGrid g G).lastTrap = s.lastTrap := rfl
@[simp] theorem State.setGrid_mem (g : Nat) (G : Grid) : (s.setGrid g G).mem = s.mem := rfl
@[simp] theorem State.setGrid_memTags (g : Nat) (G : Grid) : (s.setGrid g G).memTags = s.memTags := rfl
@[simp] theorem State.setGrid_poison (g : Nat) (G : Grid) : (s.setGrid g G).poison = s.poison := rfl
@[simp] theorem State.setGrid_teams (g : Nat) (G : Grid) : (s.setGrid g G).teams = s.teams := rfl
@[simp] theorem State.setGrid_cores (g : Nat) (G : Grid) : (s.setGrid g G).cores = s.cores := rfl
@[simp] theorem State.setGrid_quads (g : Nat) (G : Grid) : (s.setGrid g G).quads = s.quads := rfl
@[simp] theorem State.setGrid_ctxs (g : Nat) (G : Grid) : (s.setGrid g G).ctxs = s.ctxs := rfl
@[simp] theorem State.setGrid_l2 (g : Nat) (G : Grid) : (s.setGrid g G).l2 = s.l2 := rfl
@[simp] theorem State.setGrid_gatedWays (g : Nat) (G : Grid) : (s.setGrid g G).gatedWays = s.gatedWays := rfl
@[simp] theorem State.setGrid_sliceClk (g : Nat) (G : Grid) : (s.setGrid g G).sliceClk = s.sliceClk := rfl
@[simp] theorem State.setGrid_walks (g : Nat) (G : Grid) : (s.setGrid g G).walks = s.walks := rfl
@[simp] theorem State.setGrid_walking (g : Nat) (G : Grid) : (s.setGrid g G).walking = s.walking := rfl
@[simp] theorem State.setGrid_rings (g : Nat) (G : Grid) : (s.setGrid g G).rings = s.rings := rfl
@[simp] theorem State.setGrid_heldTraps (g : Nat) (G : Grid) : (s.setGrid g G).heldTraps = s.heldTraps := rfl
@[simp] theorem State.setGrid_links (g : Nat) (G : Grid) : (s.setGrid g G).links = s.links := rfl
@[simp] theorem State.setGrid_fabLinks (g : Nat) (G : Grid) : (s.setGrid g G).fabLinks = s.fabLinks := rfl
@[simp] theorem State.setGrid_removed (g : Nat) (G : Grid) : (s.setGrid g G).removed = s.removed := rfl
@[simp] theorem State.setGrid_remotes (g : Nat) (G : Grid) : (s.setGrid g G).remotes = s.remotes := rfl
@[simp] theorem State.setGrid_istore (g : Nat) (G : Grid) : (s.setGrid g G).istore = s.istore := rfl
@[simp] theorem State.setGrid_touched (g : Nat) (G : Grid) : (s.setGrid g G).touched = s.touched := rfl
@[simp] theorem State.setGrid_hub (g : Nat) (G : Grid) : (s.setGrid g G).hub = s.hub := rfl

/-! onGrid -/

@[simp] theorem State.onGrid_agenda (g : Nat) (f : Grid → Grid) : (s.onGrid g f).agenda = s.agenda := rfl
@[simp] theorem State.onGrid_cur (g : Nat) (f : Grid → Grid) : (s.onGrid g f).cur = s.cur := rfl
@[simp] theorem State.onGrid_nonce (g : Nat) (f : Grid → Grid) : (s.onGrid g f).nonce = s.nonce := rfl
@[simp] theorem State.onGrid_clock (g : Nat) (f : Grid → Grid) : (s.onGrid g f).clock = s.clock := rfl
@[simp] theorem State.onGrid_lastTeam (g : Nat) (f : Grid → Grid) : (s.onGrid g f).lastTeam = s.lastTeam := rfl
@[simp] theorem State.onGrid_lastGrid (g : Nat) (f : Grid → Grid) : (s.onGrid g f).lastGrid = s.lastGrid := rfl
@[simp] theorem State.onGrid_lastOp (g : Nat) (f : Grid → Grid) : (s.onGrid g f).lastOp = s.lastOp := rfl
@[simp] theorem State.onGrid_lastTrap (g : Nat) (f : Grid → Grid) : (s.onGrid g f).lastTrap = s.lastTrap := rfl
@[simp] theorem State.onGrid_mem (g : Nat) (f : Grid → Grid) : (s.onGrid g f).mem = s.mem := rfl
@[simp] theorem State.onGrid_memTags (g : Nat) (f : Grid → Grid) : (s.onGrid g f).memTags = s.memTags := rfl
@[simp] theorem State.onGrid_poison (g : Nat) (f : Grid → Grid) : (s.onGrid g f).poison = s.poison := rfl
@[simp] theorem State.onGrid_teams (g : Nat) (f : Grid → Grid) : (s.onGrid g f).teams = s.teams := rfl
@[simp] theorem State.onGrid_cores (g : Nat) (f : Grid → Grid) : (s.onGrid g f).cores = s.cores := rfl
@[simp] theorem State.onGrid_quads (g : Nat) (f : Grid → Grid) : (s.onGrid g f).quads = s.quads := rfl
@[simp] theorem State.onGrid_ctxs (g : Nat) (f : Grid → Grid) : (s.onGrid g f).ctxs = s.ctxs := rfl
@[simp] theorem State.onGrid_l2 (g : Nat) (f : Grid → Grid) : (s.onGrid g f).l2 = s.l2 := rfl
@[simp] theorem State.onGrid_gatedWays (g : Nat) (f : Grid → Grid) : (s.onGrid g f).gatedWays = s.gatedWays := rfl
@[simp] theorem State.onGrid_sliceClk (g : Nat) (f : Grid → Grid) : (s.onGrid g f).sliceClk = s.sliceClk := rfl
@[simp] theorem State.onGrid_walks (g : Nat) (f : Grid → Grid) : (s.onGrid g f).walks = s.walks := rfl
@[simp] theorem State.onGrid_walking (g : Nat) (f : Grid → Grid) : (s.onGrid g f).walking = s.walking := rfl
@[simp] theorem State.onGrid_rings (g : Nat) (f : Grid → Grid) : (s.onGrid g f).rings = s.rings := rfl
@[simp] theorem State.onGrid_heldTraps (g : Nat) (f : Grid → Grid) : (s.onGrid g f).heldTraps = s.heldTraps := rfl
@[simp] theorem State.onGrid_links (g : Nat) (f : Grid → Grid) : (s.onGrid g f).links = s.links := rfl
@[simp] theorem State.onGrid_fabLinks (g : Nat) (f : Grid → Grid) : (s.onGrid g f).fabLinks = s.fabLinks := rfl
@[simp] theorem State.onGrid_removed (g : Nat) (f : Grid → Grid) : (s.onGrid g f).removed = s.removed := rfl
@[simp] theorem State.onGrid_remotes (g : Nat) (f : Grid → Grid) : (s.onGrid g f).remotes = s.remotes := rfl
@[simp] theorem State.onGrid_istore (g : Nat) (f : Grid → Grid) : (s.onGrid g f).istore = s.istore := rfl
@[simp] theorem State.onGrid_touched (g : Nat) (f : Grid → Grid) : (s.onGrid g f).touched = s.touched := rfl
@[simp] theorem State.onGrid_hub (g : Nat) (f : Grid → Grid) : (s.onGrid g f).hub = s.hub := rfl

/-! store -/

@[simp] theorem State.store_agenda (pa : Nat) (bs : List Byte) : (s.store pa bs).agenda = s.agenda := rfl
@[simp] theorem State.store_cur (pa : Nat) (bs : List Byte) : (s.store pa bs).cur = s.cur := rfl
@[simp] theorem State.store_nonce (pa : Nat) (bs : List Byte) : (s.store pa bs).nonce = s.nonce := rfl
@[simp] theorem State.store_clock (pa : Nat) (bs : List Byte) : (s.store pa bs).clock = s.clock := rfl
@[simp] theorem State.store_lastTeam (pa : Nat) (bs : List Byte) : (s.store pa bs).lastTeam = s.lastTeam := rfl
@[simp] theorem State.store_lastGrid (pa : Nat) (bs : List Byte) : (s.store pa bs).lastGrid = s.lastGrid := rfl
@[simp] theorem State.store_lastOp (pa : Nat) (bs : List Byte) : (s.store pa bs).lastOp = s.lastOp := rfl
@[simp] theorem State.store_lastTrap (pa : Nat) (bs : List Byte) : (s.store pa bs).lastTrap = s.lastTrap := rfl
@[simp] theorem State.store_poison (pa : Nat) (bs : List Byte) : (s.store pa bs).poison = s.poison := rfl
@[simp] theorem State.store_teams (pa : Nat) (bs : List Byte) : (s.store pa bs).teams = s.teams := rfl
@[simp] theorem State.store_cores (pa : Nat) (bs : List Byte) : (s.store pa bs).cores = s.cores := rfl
@[simp] theorem State.store_quads (pa : Nat) (bs : List Byte) : (s.store pa bs).quads = s.quads := rfl
@[simp] theorem State.store_ctxs (pa : Nat) (bs : List Byte) : (s.store pa bs).ctxs = s.ctxs := rfl
@[simp] theorem State.store_grids (pa : Nat) (bs : List Byte) : (s.store pa bs).grids = s.grids := rfl
@[simp] theorem State.store_l2 (pa : Nat) (bs : List Byte) : (s.store pa bs).l2 = s.l2 := rfl
@[simp] theorem State.store_gatedWays (pa : Nat) (bs : List Byte) : (s.store pa bs).gatedWays = s.gatedWays := rfl
@[simp] theorem State.store_sliceClk (pa : Nat) (bs : List Byte) : (s.store pa bs).sliceClk = s.sliceClk := rfl
@[simp] theorem State.store_walks (pa : Nat) (bs : List Byte) : (s.store pa bs).walks = s.walks := rfl
@[simp] theorem State.store_walking (pa : Nat) (bs : List Byte) : (s.store pa bs).walking = s.walking := rfl
@[simp] theorem State.store_rings (pa : Nat) (bs : List Byte) : (s.store pa bs).rings = s.rings := rfl
@[simp] theorem State.store_heldTraps (pa : Nat) (bs : List Byte) : (s.store pa bs).heldTraps = s.heldTraps := rfl
@[simp] theorem State.store_links (pa : Nat) (bs : List Byte) : (s.store pa bs).links = s.links := rfl
@[simp] theorem State.store_fabLinks (pa : Nat) (bs : List Byte) : (s.store pa bs).fabLinks = s.fabLinks := rfl
@[simp] theorem State.store_removed (pa : Nat) (bs : List Byte) : (s.store pa bs).removed = s.removed := rfl
@[simp] theorem State.store_remotes (pa : Nat) (bs : List Byte) : (s.store pa bs).remotes = s.remotes := rfl
@[simp] theorem State.store_istore (pa : Nat) (bs : List Byte) : (s.store pa bs).istore = s.istore := rfl
@[simp] theorem State.store_touched (pa : Nat) (bs : List Byte) : (s.store pa bs).touched = s.touched := rfl
@[simp] theorem State.store_hub (pa : Nat) (bs : List Byte) : (s.store pa bs).hub = s.hub := rfl

/-! storeNat -/

@[simp] theorem State.storeNat_agenda (pa n v : Nat) : (s.storeNat pa n v).agenda = s.agenda := rfl
@[simp] theorem State.storeNat_cur (pa n v : Nat) : (s.storeNat pa n v).cur = s.cur := rfl
@[simp] theorem State.storeNat_nonce (pa n v : Nat) : (s.storeNat pa n v).nonce = s.nonce := rfl
@[simp] theorem State.storeNat_clock (pa n v : Nat) : (s.storeNat pa n v).clock = s.clock := rfl
@[simp] theorem State.storeNat_lastTeam (pa n v : Nat) : (s.storeNat pa n v).lastTeam = s.lastTeam := rfl
@[simp] theorem State.storeNat_lastGrid (pa n v : Nat) : (s.storeNat pa n v).lastGrid = s.lastGrid := rfl
@[simp] theorem State.storeNat_lastOp (pa n v : Nat) : (s.storeNat pa n v).lastOp = s.lastOp := rfl
@[simp] theorem State.storeNat_lastTrap (pa n v : Nat) : (s.storeNat pa n v).lastTrap = s.lastTrap := rfl
@[simp] theorem State.storeNat_poison (pa n v : Nat) : (s.storeNat pa n v).poison = s.poison := rfl
@[simp] theorem State.storeNat_teams (pa n v : Nat) : (s.storeNat pa n v).teams = s.teams := rfl
@[simp] theorem State.storeNat_cores (pa n v : Nat) : (s.storeNat pa n v).cores = s.cores := rfl
@[simp] theorem State.storeNat_quads (pa n v : Nat) : (s.storeNat pa n v).quads = s.quads := rfl
@[simp] theorem State.storeNat_ctxs (pa n v : Nat) : (s.storeNat pa n v).ctxs = s.ctxs := rfl
@[simp] theorem State.storeNat_grids (pa n v : Nat) : (s.storeNat pa n v).grids = s.grids := rfl
@[simp] theorem State.storeNat_l2 (pa n v : Nat) : (s.storeNat pa n v).l2 = s.l2 := rfl
@[simp] theorem State.storeNat_gatedWays (pa n v : Nat) : (s.storeNat pa n v).gatedWays = s.gatedWays := rfl
@[simp] theorem State.storeNat_sliceClk (pa n v : Nat) : (s.storeNat pa n v).sliceClk = s.sliceClk := rfl
@[simp] theorem State.storeNat_walks (pa n v : Nat) : (s.storeNat pa n v).walks = s.walks := rfl
@[simp] theorem State.storeNat_walking (pa n v : Nat) : (s.storeNat pa n v).walking = s.walking := rfl
@[simp] theorem State.storeNat_rings (pa n v : Nat) : (s.storeNat pa n v).rings = s.rings := rfl
@[simp] theorem State.storeNat_heldTraps (pa n v : Nat) : (s.storeNat pa n v).heldTraps = s.heldTraps := rfl
@[simp] theorem State.storeNat_links (pa n v : Nat) : (s.storeNat pa n v).links = s.links := rfl
@[simp] theorem State.storeNat_fabLinks (pa n v : Nat) : (s.storeNat pa n v).fabLinks = s.fabLinks := rfl
@[simp] theorem State.storeNat_removed (pa n v : Nat) : (s.storeNat pa n v).removed = s.removed := rfl
@[simp] theorem State.storeNat_remotes (pa n v : Nat) : (s.storeNat pa n v).remotes = s.remotes := rfl
@[simp] theorem State.storeNat_istore (pa n v : Nat) : (s.storeNat pa n v).istore = s.istore := rfl
@[simp] theorem State.storeNat_touched (pa n v : Nat) : (s.storeNat pa n v).touched = s.touched := rfl
@[simp] theorem State.storeNat_hub (pa n v : Nat) : (s.storeNat pa n v).hub = s.hub := rfl

/-! drew -/

@[simp] theorem State.drew_agenda (n : Nat) : (s.drew n).agenda = s.agenda := rfl
@[simp] theorem State.drew_cur (n : Nat) : (s.drew n).cur = s.cur := rfl
@[simp] theorem State.drew_clock (n : Nat) : (s.drew n).clock = s.clock := rfl
@[simp] theorem State.drew_lastTeam (n : Nat) : (s.drew n).lastTeam = s.lastTeam := rfl
@[simp] theorem State.drew_lastGrid (n : Nat) : (s.drew n).lastGrid = s.lastGrid := rfl
@[simp] theorem State.drew_lastOp (n : Nat) : (s.drew n).lastOp = s.lastOp := rfl
@[simp] theorem State.drew_lastTrap (n : Nat) : (s.drew n).lastTrap = s.lastTrap := rfl
@[simp] theorem State.drew_mem (n : Nat) : (s.drew n).mem = s.mem := rfl
@[simp] theorem State.drew_memTags (n : Nat) : (s.drew n).memTags = s.memTags := rfl
@[simp] theorem State.drew_poison (n : Nat) : (s.drew n).poison = s.poison := rfl
@[simp] theorem State.drew_teams (n : Nat) : (s.drew n).teams = s.teams := rfl
@[simp] theorem State.drew_cores (n : Nat) : (s.drew n).cores = s.cores := rfl
@[simp] theorem State.drew_quads (n : Nat) : (s.drew n).quads = s.quads := rfl
@[simp] theorem State.drew_ctxs (n : Nat) : (s.drew n).ctxs = s.ctxs := rfl
@[simp] theorem State.drew_grids (n : Nat) : (s.drew n).grids = s.grids := rfl
@[simp] theorem State.drew_l2 (n : Nat) : (s.drew n).l2 = s.l2 := rfl
@[simp] theorem State.drew_gatedWays (n : Nat) : (s.drew n).gatedWays = s.gatedWays := rfl
@[simp] theorem State.drew_sliceClk (n : Nat) : (s.drew n).sliceClk = s.sliceClk := rfl
@[simp] theorem State.drew_walks (n : Nat) : (s.drew n).walks = s.walks := rfl
@[simp] theorem State.drew_walking (n : Nat) : (s.drew n).walking = s.walking := rfl
@[simp] theorem State.drew_rings (n : Nat) : (s.drew n).rings = s.rings := rfl
@[simp] theorem State.drew_heldTraps (n : Nat) : (s.drew n).heldTraps = s.heldTraps := rfl
@[simp] theorem State.drew_links (n : Nat) : (s.drew n).links = s.links := rfl
@[simp] theorem State.drew_fabLinks (n : Nat) : (s.drew n).fabLinks = s.fabLinks := rfl
@[simp] theorem State.drew_removed (n : Nat) : (s.drew n).removed = s.removed := rfl
@[simp] theorem State.drew_remotes (n : Nat) : (s.drew n).remotes = s.remotes := rfl
@[simp] theorem State.drew_istore (n : Nat) : (s.drew n).istore = s.istore := rfl
@[simp] theorem State.drew_touched (n : Nat) : (s.drew n).touched = s.touched := rfl
@[simp] theorem State.drew_hub (n : Nat) : (s.drew n).hub = s.hub := rfl

/-! setBank -/

@[simp] theorem State.setBank_agenda (t : Nat) (b : Bank) : (s.setBank t b).agenda = s.agenda := by
  unfold State.setBank; cases (s.team t).held <;> rfl
@[simp] theorem State.setBank_cur (t : Nat) (b : Bank) : (s.setBank t b).cur = s.cur := by
  unfold State.setBank; cases (s.team t).held <;> rfl
@[simp] theorem State.setBank_nonce (t : Nat) (b : Bank) : (s.setBank t b).nonce = s.nonce := by
  unfold State.setBank; cases (s.team t).held <;> rfl
@[simp] theorem State.setBank_clock (t : Nat) (b : Bank) : (s.setBank t b).clock = s.clock := by
  unfold State.setBank; cases (s.team t).held <;> rfl
@[simp] theorem State.setBank_lastTeam (t : Nat) (b : Bank) : (s.setBank t b).lastTeam = s.lastTeam := by
  unfold State.setBank; cases (s.team t).held <;> rfl
@[simp] theorem State.setBank_lastGrid (t : Nat) (b : Bank) : (s.setBank t b).lastGrid = s.lastGrid := by
  unfold State.setBank; cases (s.team t).held <;> rfl
@[simp] theorem State.setBank_lastOp (t : Nat) (b : Bank) : (s.setBank t b).lastOp = s.lastOp := by
  unfold State.setBank; cases (s.team t).held <;> rfl
@[simp] theorem State.setBank_lastTrap (t : Nat) (b : Bank) : (s.setBank t b).lastTrap = s.lastTrap := by
  unfold State.setBank; cases (s.team t).held <;> rfl
@[simp] theorem State.setBank_mem (t : Nat) (b : Bank) : (s.setBank t b).mem = s.mem := by
  unfold State.setBank; cases (s.team t).held <;> rfl
@[simp] theorem State.setBank_memTags (t : Nat) (b : Bank) : (s.setBank t b).memTags = s.memTags := by
  unfold State.setBank; cases (s.team t).held <;> rfl
@[simp] theorem State.setBank_poison (t : Nat) (b : Bank) : (s.setBank t b).poison = s.poison := by
  unfold State.setBank; cases (s.team t).held <;> rfl
@[simp] theorem State.setBank_teams (t : Nat) (b : Bank) : (s.setBank t b).teams = s.teams := by
  unfold State.setBank; cases (s.team t).held <;> rfl
@[simp] theorem State.setBank_quads (t : Nat) (b : Bank) : (s.setBank t b).quads = s.quads := by
  unfold State.setBank; cases (s.team t).held <;> rfl
@[simp] theorem State.setBank_grids (t : Nat) (b : Bank) : (s.setBank t b).grids = s.grids := by
  unfold State.setBank; cases (s.team t).held <;> rfl
@[simp] theorem State.setBank_l2 (t : Nat) (b : Bank) : (s.setBank t b).l2 = s.l2 := by
  unfold State.setBank; cases (s.team t).held <;> rfl
@[simp] theorem State.setBank_gatedWays (t : Nat) (b : Bank) : (s.setBank t b).gatedWays = s.gatedWays := by
  unfold State.setBank; cases (s.team t).held <;> rfl
@[simp] theorem State.setBank_sliceClk (t : Nat) (b : Bank) : (s.setBank t b).sliceClk = s.sliceClk := by
  unfold State.setBank; cases (s.team t).held <;> rfl
@[simp] theorem State.setBank_walks (t : Nat) (b : Bank) : (s.setBank t b).walks = s.walks := by
  unfold State.setBank; cases (s.team t).held <;> rfl
@[simp] theorem State.setBank_walking (t : Nat) (b : Bank) : (s.setBank t b).walking = s.walking := by
  unfold State.setBank; cases (s.team t).held <;> rfl
@[simp] theorem State.setBank_rings (t : Nat) (b : Bank) : (s.setBank t b).rings = s.rings := by
  unfold State.setBank; cases (s.team t).held <;> rfl
@[simp] theorem State.setBank_heldTraps (t : Nat) (b : Bank) : (s.setBank t b).heldTraps = s.heldTraps := by
  unfold State.setBank; cases (s.team t).held <;> rfl
@[simp] theorem State.setBank_links (t : Nat) (b : Bank) : (s.setBank t b).links = s.links := by
  unfold State.setBank; cases (s.team t).held <;> rfl
@[simp] theorem State.setBank_fabLinks (t : Nat) (b : Bank) : (s.setBank t b).fabLinks = s.fabLinks := by
  unfold State.setBank; cases (s.team t).held <;> rfl
@[simp] theorem State.setBank_removed (t : Nat) (b : Bank) : (s.setBank t b).removed = s.removed := by
  unfold State.setBank; cases (s.team t).held <;> rfl
@[simp] theorem State.setBank_remotes (t : Nat) (b : Bank) : (s.setBank t b).remotes = s.remotes := by
  unfold State.setBank; cases (s.team t).held <;> rfl
@[simp] theorem State.setBank_istore (t : Nat) (b : Bank) : (s.setBank t b).istore = s.istore := by
  unfold State.setBank; cases (s.team t).held <;> rfl
@[simp] theorem State.setBank_touched (t : Nat) (b : Bank) : (s.setBank t b).touched = s.touched := by
  unfold State.setBank; cases (s.team t).held <;> rfl
@[simp] theorem State.setBank_hub (t : Nat) (b : Bank) : (s.setBank t b).hub = s.hub := by
  unfold State.setBank; cases (s.team t).held <;> rfl

/-! setStrand -/

@[simp] theorem State.setStrand_agenda (r : StrandRef) (x : Strand) : (s.setStrand r x).agenda = s.agenda := by
  unfold State.setStrand; cases r.sid <;> simp
@[simp] theorem State.setStrand_cur (r : StrandRef) (x : Strand) : (s.setStrand r x).cur = s.cur := by
  unfold State.setStrand; cases r.sid <;> simp
@[simp] theorem State.setStrand_nonce (r : StrandRef) (x : Strand) : (s.setStrand r x).nonce = s.nonce := by
  unfold State.setStrand; cases r.sid <;> simp
@[simp] theorem State.setStrand_clock (r : StrandRef) (x : Strand) : (s.setStrand r x).clock = s.clock := by
  unfold State.setStrand; cases r.sid <;> simp
@[simp] theorem State.setStrand_lastTeam (r : StrandRef) (x : Strand) : (s.setStrand r x).lastTeam = s.lastTeam := by
  unfold State.setStrand; cases r.sid <;> simp
@[simp] theorem State.setStrand_lastGrid (r : StrandRef) (x : Strand) : (s.setStrand r x).lastGrid = s.lastGrid := by
  unfold State.setStrand; cases r.sid <;> simp
@[simp] theorem State.setStrand_lastOp (r : StrandRef) (x : Strand) : (s.setStrand r x).lastOp = s.lastOp := by
  unfold State.setStrand; cases r.sid <;> simp
@[simp] theorem State.setStrand_lastTrap (r : StrandRef) (x : Strand) : (s.setStrand r x).lastTrap = s.lastTrap := by
  unfold State.setStrand; cases r.sid <;> simp
@[simp] theorem State.setStrand_mem (r : StrandRef) (x : Strand) : (s.setStrand r x).mem = s.mem := by
  unfold State.setStrand; cases r.sid <;> simp
@[simp] theorem State.setStrand_memTags (r : StrandRef) (x : Strand) : (s.setStrand r x).memTags = s.memTags := by
  unfold State.setStrand; cases r.sid <;> simp
@[simp] theorem State.setStrand_poison (r : StrandRef) (x : Strand) : (s.setStrand r x).poison = s.poison := by
  unfold State.setStrand; cases r.sid <;> simp
@[simp] theorem State.setStrand_quads (r : StrandRef) (x : Strand) : (s.setStrand r x).quads = s.quads := by
  unfold State.setStrand; cases r.sid <;> simp
@[simp] theorem State.setStrand_grids (r : StrandRef) (x : Strand) : (s.setStrand r x).grids = s.grids := by
  unfold State.setStrand; cases r.sid <;> simp
@[simp] theorem State.setStrand_l2 (r : StrandRef) (x : Strand) : (s.setStrand r x).l2 = s.l2 := by
  unfold State.setStrand; cases r.sid <;> simp
@[simp] theorem State.setStrand_gatedWays (r : StrandRef) (x : Strand) : (s.setStrand r x).gatedWays = s.gatedWays := by
  unfold State.setStrand; cases r.sid <;> simp
@[simp] theorem State.setStrand_sliceClk (r : StrandRef) (x : Strand) : (s.setStrand r x).sliceClk = s.sliceClk := by
  unfold State.setStrand; cases r.sid <;> simp
@[simp] theorem State.setStrand_walks (r : StrandRef) (x : Strand) : (s.setStrand r x).walks = s.walks := by
  unfold State.setStrand; cases r.sid <;> simp
@[simp] theorem State.setStrand_walking (r : StrandRef) (x : Strand) : (s.setStrand r x).walking = s.walking := by
  unfold State.setStrand; cases r.sid <;> simp
@[simp] theorem State.setStrand_rings (r : StrandRef) (x : Strand) : (s.setStrand r x).rings = s.rings := by
  unfold State.setStrand; cases r.sid <;> simp
@[simp] theorem State.setStrand_heldTraps (r : StrandRef) (x : Strand) : (s.setStrand r x).heldTraps = s.heldTraps := by
  unfold State.setStrand; cases r.sid <;> simp
@[simp] theorem State.setStrand_links (r : StrandRef) (x : Strand) : (s.setStrand r x).links = s.links := by
  unfold State.setStrand; cases r.sid <;> simp
@[simp] theorem State.setStrand_fabLinks (r : StrandRef) (x : Strand) : (s.setStrand r x).fabLinks = s.fabLinks := by
  unfold State.setStrand; cases r.sid <;> simp
@[simp] theorem State.setStrand_removed (r : StrandRef) (x : Strand) : (s.setStrand r x).removed = s.removed := by
  unfold State.setStrand; cases r.sid <;> simp
@[simp] theorem State.setStrand_remotes (r : StrandRef) (x : Strand) : (s.setStrand r x).remotes = s.remotes := by
  unfold State.setStrand; cases r.sid <;> simp
@[simp] theorem State.setStrand_istore (r : StrandRef) (x : Strand) : (s.setStrand r x).istore = s.istore := by
  unfold State.setStrand; cases r.sid <;> simp
@[simp] theorem State.setStrand_touched (r : StrandRef) (x : Strand) : (s.setStrand r x).touched = s.touched := by
  unfold State.setStrand; cases r.sid <;> simp
@[simp] theorem State.setStrand_hub (r : StrandRef) (x : Strand) : (s.setStrand r x).hub = s.hub := by
  unfold State.setStrand; cases r.sid <;> simp

/-! onStrand -/

@[simp] theorem State.onStrand_agenda (r : StrandRef) (f : Strand → Strand) : (s.onStrand r f).agenda = s.agenda := by simp [State.onStrand]
@[simp] theorem State.onStrand_cur (r : StrandRef) (f : Strand → Strand) : (s.onStrand r f).cur = s.cur := by simp [State.onStrand]
@[simp] theorem State.onStrand_nonce (r : StrandRef) (f : Strand → Strand) : (s.onStrand r f).nonce = s.nonce := by simp [State.onStrand]
@[simp] theorem State.onStrand_clock (r : StrandRef) (f : Strand → Strand) : (s.onStrand r f).clock = s.clock := by simp [State.onStrand]
@[simp] theorem State.onStrand_lastTeam (r : StrandRef) (f : Strand → Strand) : (s.onStrand r f).lastTeam = s.lastTeam := by simp [State.onStrand]
@[simp] theorem State.onStrand_lastGrid (r : StrandRef) (f : Strand → Strand) : (s.onStrand r f).lastGrid = s.lastGrid := by simp [State.onStrand]
@[simp] theorem State.onStrand_lastOp (r : StrandRef) (f : Strand → Strand) : (s.onStrand r f).lastOp = s.lastOp := by simp [State.onStrand]
@[simp] theorem State.onStrand_lastTrap (r : StrandRef) (f : Strand → Strand) : (s.onStrand r f).lastTrap = s.lastTrap := by simp [State.onStrand]
@[simp] theorem State.onStrand_mem (r : StrandRef) (f : Strand → Strand) : (s.onStrand r f).mem = s.mem := by simp [State.onStrand]
@[simp] theorem State.onStrand_memTags (r : StrandRef) (f : Strand → Strand) : (s.onStrand r f).memTags = s.memTags := by simp [State.onStrand]
@[simp] theorem State.onStrand_poison (r : StrandRef) (f : Strand → Strand) : (s.onStrand r f).poison = s.poison := by simp [State.onStrand]
@[simp] theorem State.onStrand_quads (r : StrandRef) (f : Strand → Strand) : (s.onStrand r f).quads = s.quads := by simp [State.onStrand]
@[simp] theorem State.onStrand_grids (r : StrandRef) (f : Strand → Strand) : (s.onStrand r f).grids = s.grids := by simp [State.onStrand]
@[simp] theorem State.onStrand_l2 (r : StrandRef) (f : Strand → Strand) : (s.onStrand r f).l2 = s.l2 := by simp [State.onStrand]
@[simp] theorem State.onStrand_gatedWays (r : StrandRef) (f : Strand → Strand) : (s.onStrand r f).gatedWays = s.gatedWays := by simp [State.onStrand]
@[simp] theorem State.onStrand_sliceClk (r : StrandRef) (f : Strand → Strand) : (s.onStrand r f).sliceClk = s.sliceClk := by simp [State.onStrand]
@[simp] theorem State.onStrand_walks (r : StrandRef) (f : Strand → Strand) : (s.onStrand r f).walks = s.walks := by simp [State.onStrand]
@[simp] theorem State.onStrand_walking (r : StrandRef) (f : Strand → Strand) : (s.onStrand r f).walking = s.walking := by simp [State.onStrand]
@[simp] theorem State.onStrand_rings (r : StrandRef) (f : Strand → Strand) : (s.onStrand r f).rings = s.rings := by simp [State.onStrand]
@[simp] theorem State.onStrand_heldTraps (r : StrandRef) (f : Strand → Strand) : (s.onStrand r f).heldTraps = s.heldTraps := by simp [State.onStrand]
@[simp] theorem State.onStrand_links (r : StrandRef) (f : Strand → Strand) : (s.onStrand r f).links = s.links := by simp [State.onStrand]
@[simp] theorem State.onStrand_fabLinks (r : StrandRef) (f : Strand → Strand) : (s.onStrand r f).fabLinks = s.fabLinks := by simp [State.onStrand]
@[simp] theorem State.onStrand_removed (r : StrandRef) (f : Strand → Strand) : (s.onStrand r f).removed = s.removed := by simp [State.onStrand]
@[simp] theorem State.onStrand_remotes (r : StrandRef) (f : Strand → Strand) : (s.onStrand r f).remotes = s.remotes := by simp [State.onStrand]
@[simp] theorem State.onStrand_istore (r : StrandRef) (f : Strand → Strand) : (s.onStrand r f).istore = s.istore := by simp [State.onStrand]
@[simp] theorem State.onStrand_touched (r : StrandRef) (f : Strand → Strand) : (s.onStrand r f).touched = s.touched := by simp [State.onStrand]
@[simp] theorem State.onStrand_hub (r : StrandRef) (f : Strand → Strand) : (s.onStrand r f).hub = s.hub := by simp [State.onStrand]

/-! advance -/

@[simp] theorem State.advance_agenda  : (s.advance).agenda = s.agenda := by simp [State.advance]
@[simp] theorem State.advance_cur  : (s.advance).cur = s.cur := by simp [State.advance]
@[simp] theorem State.advance_nonce  : (s.advance).nonce = s.nonce := by simp [State.advance]
@[simp] theorem State.advance_clock  : (s.advance).clock = s.clock := by simp [State.advance]
@[simp] theorem State.advance_lastTeam  : (s.advance).lastTeam = s.lastTeam := by simp [State.advance]
@[simp] theorem State.advance_lastGrid  : (s.advance).lastGrid = s.lastGrid := by simp [State.advance]
@[simp] theorem State.advance_lastOp  : (s.advance).lastOp = s.lastOp := by simp [State.advance]
@[simp] theorem State.advance_lastTrap  : (s.advance).lastTrap = s.lastTrap := by simp [State.advance]
@[simp] theorem State.advance_mem  : (s.advance).mem = s.mem := by simp [State.advance]
@[simp] theorem State.advance_memTags  : (s.advance).memTags = s.memTags := by simp [State.advance]
@[simp] theorem State.advance_poison  : (s.advance).poison = s.poison := by simp [State.advance]
@[simp] theorem State.advance_quads  : (s.advance).quads = s.quads := by simp [State.advance]
@[simp] theorem State.advance_grids  : (s.advance).grids = s.grids := by simp [State.advance]
@[simp] theorem State.advance_l2  : (s.advance).l2 = s.l2 := by simp [State.advance]
@[simp] theorem State.advance_gatedWays  : (s.advance).gatedWays = s.gatedWays := by simp [State.advance]
@[simp] theorem State.advance_sliceClk  : (s.advance).sliceClk = s.sliceClk := by simp [State.advance]
@[simp] theorem State.advance_walks  : (s.advance).walks = s.walks := by simp [State.advance]
@[simp] theorem State.advance_walking  : (s.advance).walking = s.walking := by simp [State.advance]
@[simp] theorem State.advance_rings  : (s.advance).rings = s.rings := by simp [State.advance]
@[simp] theorem State.advance_heldTraps  : (s.advance).heldTraps = s.heldTraps := by simp [State.advance]
@[simp] theorem State.advance_links  : (s.advance).links = s.links := by simp [State.advance]
@[simp] theorem State.advance_fabLinks  : (s.advance).fabLinks = s.fabLinks := by simp [State.advance]
@[simp] theorem State.advance_removed  : (s.advance).removed = s.removed := by simp [State.advance]
@[simp] theorem State.advance_remotes  : (s.advance).remotes = s.remotes := by simp [State.advance]
@[simp] theorem State.advance_istore  : (s.advance).istore = s.istore := by simp [State.advance]
@[simp] theorem State.advance_touched  : (s.advance).touched = s.touched := by simp [State.advance]
@[simp] theorem State.advance_hub  : (s.advance).hub = s.hub := by simp [State.advance]

/-! goto -/

@[simp] theorem State.goto_agenda (a : W64) : (s.goto a).agenda = s.agenda := by simp [State.goto]
@[simp] theorem State.goto_cur (a : W64) : (s.goto a).cur = s.cur := by simp [State.goto]
@[simp] theorem State.goto_nonce (a : W64) : (s.goto a).nonce = s.nonce := by simp [State.goto]
@[simp] theorem State.goto_clock (a : W64) : (s.goto a).clock = s.clock := by simp [State.goto]
@[simp] theorem State.goto_lastTeam (a : W64) : (s.goto a).lastTeam = s.lastTeam := by simp [State.goto]
@[simp] theorem State.goto_lastGrid (a : W64) : (s.goto a).lastGrid = s.lastGrid := by simp [State.goto]
@[simp] theorem State.goto_lastOp (a : W64) : (s.goto a).lastOp = s.lastOp := by simp [State.goto]
@[simp] theorem State.goto_lastTrap (a : W64) : (s.goto a).lastTrap = s.lastTrap := by simp [State.goto]
@[simp] theorem State.goto_mem (a : W64) : (s.goto a).mem = s.mem := by simp [State.goto]
@[simp] theorem State.goto_memTags (a : W64) : (s.goto a).memTags = s.memTags := by simp [State.goto]
@[simp] theorem State.goto_poison (a : W64) : (s.goto a).poison = s.poison := by simp [State.goto]
@[simp] theorem State.goto_quads (a : W64) : (s.goto a).quads = s.quads := by simp [State.goto]
@[simp] theorem State.goto_grids (a : W64) : (s.goto a).grids = s.grids := by simp [State.goto]
@[simp] theorem State.goto_l2 (a : W64) : (s.goto a).l2 = s.l2 := by simp [State.goto]
@[simp] theorem State.goto_gatedWays (a : W64) : (s.goto a).gatedWays = s.gatedWays := by simp [State.goto]
@[simp] theorem State.goto_sliceClk (a : W64) : (s.goto a).sliceClk = s.sliceClk := by simp [State.goto]
@[simp] theorem State.goto_walks (a : W64) : (s.goto a).walks = s.walks := by simp [State.goto]
@[simp] theorem State.goto_walking (a : W64) : (s.goto a).walking = s.walking := by simp [State.goto]
@[simp] theorem State.goto_rings (a : W64) : (s.goto a).rings = s.rings := by simp [State.goto]
@[simp] theorem State.goto_heldTraps (a : W64) : (s.goto a).heldTraps = s.heldTraps := by simp [State.goto]
@[simp] theorem State.goto_links (a : W64) : (s.goto a).links = s.links := by simp [State.goto]
@[simp] theorem State.goto_fabLinks (a : W64) : (s.goto a).fabLinks = s.fabLinks := by simp [State.goto]
@[simp] theorem State.goto_removed (a : W64) : (s.goto a).removed = s.removed := by simp [State.goto]
@[simp] theorem State.goto_remotes (a : W64) : (s.goto a).remotes = s.remotes := by simp [State.goto]
@[simp] theorem State.goto_istore (a : W64) : (s.goto a).istore = s.istore := by simp [State.goto]
@[simp] theorem State.goto_touched (a : W64) : (s.goto a).touched = s.touched := by simp [State.goto]
@[simp] theorem State.goto_hub (a : W64) : (s.goto a).hub = s.hub := by simp [State.goto]

/-! waitIn -/

@[simp] theorem State.waitIn_agenda (v : Wait) : (s.waitIn v).agenda = s.agenda := by simp [State.waitIn]
@[simp] theorem State.waitIn_cur (v : Wait) : (s.waitIn v).cur = s.cur := by simp [State.waitIn]
@[simp] theorem State.waitIn_nonce (v : Wait) : (s.waitIn v).nonce = s.nonce := by simp [State.waitIn]
@[simp] theorem State.waitIn_clock (v : Wait) : (s.waitIn v).clock = s.clock := by simp [State.waitIn]
@[simp] theorem State.waitIn_lastTeam (v : Wait) : (s.waitIn v).lastTeam = s.lastTeam := by simp [State.waitIn]
@[simp] theorem State.waitIn_lastGrid (v : Wait) : (s.waitIn v).lastGrid = s.lastGrid := by simp [State.waitIn]
@[simp] theorem State.waitIn_lastOp (v : Wait) : (s.waitIn v).lastOp = s.lastOp := by simp [State.waitIn]
@[simp] theorem State.waitIn_lastTrap (v : Wait) : (s.waitIn v).lastTrap = s.lastTrap := by simp [State.waitIn]
@[simp] theorem State.waitIn_mem (v : Wait) : (s.waitIn v).mem = s.mem := by simp [State.waitIn]
@[simp] theorem State.waitIn_memTags (v : Wait) : (s.waitIn v).memTags = s.memTags := by simp [State.waitIn]
@[simp] theorem State.waitIn_poison (v : Wait) : (s.waitIn v).poison = s.poison := by simp [State.waitIn]
@[simp] theorem State.waitIn_quads (v : Wait) : (s.waitIn v).quads = s.quads := by simp [State.waitIn]
@[simp] theorem State.waitIn_grids (v : Wait) : (s.waitIn v).grids = s.grids := by simp [State.waitIn]
@[simp] theorem State.waitIn_l2 (v : Wait) : (s.waitIn v).l2 = s.l2 := by simp [State.waitIn]
@[simp] theorem State.waitIn_gatedWays (v : Wait) : (s.waitIn v).gatedWays = s.gatedWays := by simp [State.waitIn]
@[simp] theorem State.waitIn_sliceClk (v : Wait) : (s.waitIn v).sliceClk = s.sliceClk := by simp [State.waitIn]
@[simp] theorem State.waitIn_walks (v : Wait) : (s.waitIn v).walks = s.walks := by simp [State.waitIn]
@[simp] theorem State.waitIn_walking (v : Wait) : (s.waitIn v).walking = s.walking := by simp [State.waitIn]
@[simp] theorem State.waitIn_rings (v : Wait) : (s.waitIn v).rings = s.rings := by simp [State.waitIn]
@[simp] theorem State.waitIn_heldTraps (v : Wait) : (s.waitIn v).heldTraps = s.heldTraps := by simp [State.waitIn]
@[simp] theorem State.waitIn_links (v : Wait) : (s.waitIn v).links = s.links := by simp [State.waitIn]
@[simp] theorem State.waitIn_fabLinks (v : Wait) : (s.waitIn v).fabLinks = s.fabLinks := by simp [State.waitIn]
@[simp] theorem State.waitIn_removed (v : Wait) : (s.waitIn v).removed = s.removed := by simp [State.waitIn]
@[simp] theorem State.waitIn_remotes (v : Wait) : (s.waitIn v).remotes = s.remotes := by simp [State.waitIn]
@[simp] theorem State.waitIn_istore (v : Wait) : (s.waitIn v).istore = s.istore := by simp [State.waitIn]
@[simp] theorem State.waitIn_touched (v : Wait) : (s.waitIn v).touched = s.touched := by simp [State.waitIn]
@[simp] theorem State.waitIn_hub (v : Wait) : (s.waitIn v).hub = s.hub := by simp [State.waitIn]

/-! wake -/

@[simp] theorem State.wake_agenda (r : StrandRef) : (s.wake r).agenda = s.agenda := by simp [State.wake]
@[simp] theorem State.wake_cur (r : StrandRef) : (s.wake r).cur = s.cur := by simp [State.wake]
@[simp] theorem State.wake_nonce (r : StrandRef) : (s.wake r).nonce = s.nonce := by simp [State.wake]
@[simp] theorem State.wake_clock (r : StrandRef) : (s.wake r).clock = s.clock := by simp [State.wake]
@[simp] theorem State.wake_lastTeam (r : StrandRef) : (s.wake r).lastTeam = s.lastTeam := by simp [State.wake]
@[simp] theorem State.wake_lastGrid (r : StrandRef) : (s.wake r).lastGrid = s.lastGrid := by simp [State.wake]
@[simp] theorem State.wake_lastOp (r : StrandRef) : (s.wake r).lastOp = s.lastOp := by simp [State.wake]
@[simp] theorem State.wake_lastTrap (r : StrandRef) : (s.wake r).lastTrap = s.lastTrap := by simp [State.wake]
@[simp] theorem State.wake_mem (r : StrandRef) : (s.wake r).mem = s.mem := by simp [State.wake]
@[simp] theorem State.wake_memTags (r : StrandRef) : (s.wake r).memTags = s.memTags := by simp [State.wake]
@[simp] theorem State.wake_poison (r : StrandRef) : (s.wake r).poison = s.poison := by simp [State.wake]
@[simp] theorem State.wake_quads (r : StrandRef) : (s.wake r).quads = s.quads := by simp [State.wake]
@[simp] theorem State.wake_grids (r : StrandRef) : (s.wake r).grids = s.grids := by simp [State.wake]
@[simp] theorem State.wake_l2 (r : StrandRef) : (s.wake r).l2 = s.l2 := by simp [State.wake]
@[simp] theorem State.wake_gatedWays (r : StrandRef) : (s.wake r).gatedWays = s.gatedWays := by simp [State.wake]
@[simp] theorem State.wake_sliceClk (r : StrandRef) : (s.wake r).sliceClk = s.sliceClk := by simp [State.wake]
@[simp] theorem State.wake_walks (r : StrandRef) : (s.wake r).walks = s.walks := by simp [State.wake]
@[simp] theorem State.wake_walking (r : StrandRef) : (s.wake r).walking = s.walking := by simp [State.wake]
@[simp] theorem State.wake_rings (r : StrandRef) : (s.wake r).rings = s.rings := by simp [State.wake]
@[simp] theorem State.wake_heldTraps (r : StrandRef) : (s.wake r).heldTraps = s.heldTraps := by simp [State.wake]
@[simp] theorem State.wake_links (r : StrandRef) : (s.wake r).links = s.links := by simp [State.wake]
@[simp] theorem State.wake_fabLinks (r : StrandRef) : (s.wake r).fabLinks = s.fabLinks := by simp [State.wake]
@[simp] theorem State.wake_removed (r : StrandRef) : (s.wake r).removed = s.removed := by simp [State.wake]
@[simp] theorem State.wake_remotes (r : StrandRef) : (s.wake r).remotes = s.remotes := by simp [State.wake]
@[simp] theorem State.wake_istore (r : StrandRef) : (s.wake r).istore = s.istore := by simp [State.wake]
@[simp] theorem State.wake_touched (r : StrandRef) : (s.wake r).touched = s.touched := by simp [State.wake]
@[simp] theorem State.wake_hub (r : StrandRef) : (s.wake r).hub = s.hub := by simp [State.wake]


/-! What is read back. -/

theorem State.team_setTeam (t u : Nat) (T : Team) : (s.setTeam t T).team u = if u = t then T else s.team u := SMap.get_set _ _ _ _ _
theorem State.core_setCore (c k : Nat) (C : Core) : (s.setCore c C).core k = if k = c then C else s.core k := SMap.get_set _ _ _ _ _
theorem State.quad_setQuad (q k : Nat) (Q : Quad) : (s.setQuad q Q).quad k = if k = q then Q else s.quad k := SMap.get_set _ _ _ _ _
theorem State.ctx_setCtx (c k : Nat) (C : Context) : (s.setCtx c C).ctx k = if k = c then C else s.ctx k := SMap.get_set _ _ _ _ _
theorem State.grid_setGrid (g k : Nat) (G : Grid) : (s.setGrid g G).grid k = if k = g then G else s.grid k := SMap.get_set _ _ _ _ _
theorem State.team_onTeam (t u : Nat) (f : Team → Team) : (s.onTeam t f).team u = if u = t then f (s.team u) else s.team u := by
  rw [State.onTeam, State.team_setTeam]; split
  · rename_i h; rw [h]
  · rfl
theorem State.core_onCore (c k : Nat) (f : Core → Core) : (s.onCore c f).core k = if k = c then f (s.core k) else s.core k := by
  rw [State.onCore, State.core_setCore]; split
  · rename_i h; rw [h]
  · rfl
theorem State.quad_onQuad (q k : Nat) (f : Quad → Quad) : (s.onQuad q f).quad k = if k = q then f (s.quad k) else s.quad k := by
  rw [State.onQuad, State.quad_setQuad]; split
  · rename_i h; rw [h]
  · rfl
theorem State.ctx_onCtx (c k : Nat) (f : Context → Context) : (s.onCtx c f).ctx k = if k = c then f (s.ctx k) else s.ctx k := by
  rw [State.onCtx, State.ctx_setCtx]; split
  · rename_i h; rw [h]
  · rfl
theorem State.grid_onGrid (g k : Nat) (f : Grid → Grid) : (s.onGrid g f).grid k = if k = g then f (s.grid k) else s.grid k := by
  rw [State.onGrid, State.grid_setGrid]; split
  · rename_i h; rw [h]
  · rfl

/-! An update of one table leaves what is read from the others. -/

@[simp] theorem State.core_setTeam (t : Nat) (T : Team) (k : Nat) : (s.setTeam t T).core k = s.core k := rfl
@[simp] theorem State.quad_setTeam (t : Nat) (T : Team) (k : Nat) : (s.setTeam t T).quad k = s.quad k := rfl
@[simp] theorem State.ctx_setTeam (t : Nat) (T : Team) (k : Nat) : (s.setTeam t T).ctx k = s.ctx k := rfl
@[simp] theorem State.grid_setTeam (t : Nat) (T : Team) (k : Nat) : (s.setTeam t T).grid k = s.grid k := rfl
@[simp] theorem State.core_onTeam (t : Nat) (f : Team → Team) (k : Nat) : (s.onTeam t f).core k = s.core k := rfl
@[simp] theorem State.quad_onTeam (t : Nat) (f : Team → Team) (k : Nat) : (s.onTeam t f).quad k = s.quad k := rfl
@[simp] theorem State.ctx_onTeam (t : Nat) (f : Team → Team) (k : Nat) : (s.onTeam t f).ctx k = s.ctx k := rfl
@[simp] theorem State.grid_onTeam (t : Nat) (f : Team → Team) (k : Nat) : (s.onTeam t f).grid k = s.grid k := rfl
@[simp] theorem State.core_onMine (f : Team → Team) (k : Nat) : (s.onMine f).core k = s.core k := rfl
@[simp] theorem State.quad_onMine (f : Team → Team) (k : Nat) : (s.onMine f).quad k = s.quad k := rfl
@[simp] theorem State.ctx_onMine (f : Team → Team) (k : Nat) : (s.onMine f).ctx k = s.ctx k := rfl
@[simp] theorem State.grid_onMine (f : Team → Team) (k : Nat) : (s.onMine f).grid k = s.grid k := rfl
@[simp] theorem State.core_onMyStream (f : Stream → Stream) (k : Nat) : (s.onMyStream f).core k = s.core k := rfl
@[simp] theorem State.quad_onMyStream (f : Stream → Stream) (k : Nat) : (s.onMyStream f).quad k = s.quad k := rfl
@[simp] theorem State.ctx_onMyStream (f : Stream → Stream) (k : Nat) : (s.onMyStream f).ctx k = s.ctx k := rfl
@[simp] theorem State.grid_onMyStream (f : Stream → Stream) (k : Nat) : (s.onMyStream f).grid k = s.grid k := rfl
@[simp] theorem State.core_orFlags (f : Flags) (k : Nat) : (s.orFlags f).core k = s.core k := rfl
@[simp] theorem State.quad_orFlags (f : Flags) (k : Nat) : (s.orFlags f).quad k = s.quad k := rfl
@[simp] theorem State.ctx_orFlags (f : Flags) (k : Nat) : (s.orFlags f).ctx k = s.ctx k := rfl
@[simp] theorem State.grid_orFlags (f : Flags) (k : Nat) : (s.orFlags f).grid k = s.grid k := rfl
@[simp] theorem State.core_putSreg (i : BitVec 6) (v : W64) (k : Nat) : (s.putSreg i v).core k = s.core k := rfl
@[simp] theorem State.quad_putSreg (i : BitVec 6) (v : W64) (k : Nat) : (s.putSreg i v).quad k = s.quad k := rfl
@[simp] theorem State.ctx_putSreg (i : BitVec 6) (v : W64) (k : Nat) : (s.putSreg i v).ctx k = s.ctx k := rfl
@[simp] theorem State.grid_putSreg (i : BitVec 6) (v : W64) (k : Nat) : (s.putSreg i v).grid k = s.grid k := rfl
@[simp] theorem State.team_setCore (c : Nat) (C : Core) (k : Nat) : (s.setCore c C).team k = s.team k := rfl
@[simp] theorem State.quad_setCore (c : Nat) (C : Core) (k : Nat) : (s.setCore c C).quad k = s.quad k := rfl
@[simp] theorem State.ctx_setCore (c : Nat) (C : Core) (k : Nat) : (s.setCore c C).ctx k = s.ctx k := rfl
@[simp] theorem State.grid_setCore (c : Nat) (C : Core) (k : Nat) : (s.setCore c C).grid k = s.grid k := rfl
@[simp] theorem State.team_onCore (c : Nat) (f : Core → Core) (k : Nat) : (s.onCore c f).team k = s.team k := rfl
@[simp] theorem State.quad_onCore (c : Nat) (f : Core → Core) (k : Nat) : (s.onCore c f).quad k = s.quad k := rfl
@[simp] theorem State.ctx_onCore (c : Nat) (f : Core → Core) (k : Nat) : (s.onCore c f).ctx k = s.ctx k := rfl
@[simp] theorem State.grid_onCore (c : Nat) (f : Core → Core) (k : Nat) : (s.onCore c f).grid k = s.grid k := rfl
@[simp] theorem State.team_issuedAt (c : Nat) (x : StreamId) (k : Nat) : (s.issuedAt c x).team k = s.team k := rfl
@[simp] theorem State.quad_issuedAt (c : Nat) (x : StreamId) (k : Nat) : (s.issuedAt c x).quad k = s.quad k := rfl
@[simp] theorem State.ctx_issuedAt (c : Nat) (x : StreamId) (k : Nat) : (s.issuedAt c x).ctx k = s.ctx k := rfl
@[simp] theorem State.grid_issuedAt (c : Nat) (x : StreamId) (k : Nat) : (s.issuedAt c x).grid k = s.grid k := rfl
@[simp] theorem State.team_setQuad (q : Nat) (Q : Quad) (k : Nat) : (s.setQuad q Q).team k = s.team k := rfl
@[simp] theorem State.core_setQuad (q : Nat) (Q : Quad) (k : Nat) : (s.setQuad q Q).core k = s.core k := rfl
@[simp] theorem State.ctx_setQuad (q : Nat) (Q : Quad) (k : Nat) : (s.setQuad q Q).ctx k = s.ctx k := rfl
@[simp] theorem State.grid_setQuad (q : Nat) (Q : Quad) (k : Nat) : (s.setQuad q Q).grid k = s.grid k := rfl
@[simp] theorem State.team_onQuad (q : Nat) (f : Quad → Quad) (k : Nat) : (s.onQuad q f).team k = s.team k := rfl
@[simp] theorem State.core_onQuad (q : Nat) (f : Quad → Quad) (k : Nat) : (s.onQuad q f).core k = s.core k := rfl
@[simp] theorem State.ctx_onQuad (q : Nat) (f : Quad → Quad) (k : Nat) : (s.onQuad q f).ctx k = s.ctx k := rfl
@[simp] theorem State.grid_onQuad (q : Nat) (f : Quad → Quad) (k : Nat) : (s.onQuad q f).grid k = s.grid k := rfl
@[simp] theorem State.team_setCtx (c : Nat) (C : Context) (k : Nat) : (s.setCtx c C).team k = s.team k := rfl
@[simp] theorem State.core_setCtx (c : Nat) (C : Context) (k : Nat) : (s.setCtx c C).core k = s.core k := rfl
@[simp] theorem State.quad_setCtx (c : Nat) (C : Context) (k : Nat) : (s.setCtx c C).quad k = s.quad k := rfl
@[simp] theorem State.grid_setCtx (c : Nat) (C : Context) (k : Nat) : (s.setCtx c C).grid k = s.grid k := rfl
@[simp] theorem State.team_onCtx (c : Nat) (f : Context → Context) (k : Nat) : (s.onCtx c f).team k = s.team k := rfl
@[simp] theorem State.core_onCtx (c : Nat) (f : Context → Context) (k : Nat) : (s.onCtx c f).core k = s.core k := rfl
@[simp] theorem State.quad_onCtx (c : Nat) (f : Context → Context) (k : Nat) : (s.onCtx c f).quad k = s.quad k := rfl
@[simp] theorem State.grid_onCtx (c : Nat) (f : Context → Context) (k : Nat) : (s.onCtx c f).grid k = s.grid k := rfl
@[simp] theorem State.team_setGrid (g : Nat) (G : Grid) (k : Nat) : (s.setGrid g G).team k = s.team k := rfl
@[simp] theorem State.core_setGrid (g : Nat) (G : Grid) (k : Nat) : (s.setGrid g G).core k = s.core k := rfl
@[simp] theorem State.quad_setGrid (g : Nat) (G : Grid) (k : Nat) : (s.setGrid g G).quad k = s.quad k := rfl
@[simp] theorem State.ctx_setGrid (g : Nat) (G : Grid) (k : Nat) : (s.setGrid g G).ctx k = s.ctx k := rfl
@[simp] theorem State.team_onGrid (g : Nat) (f : Grid → Grid) (k : Nat) : (s.onGrid g f).team k = s.team k := rfl
@[simp] theorem State.core_onGrid (g : Nat) (f : Grid → Grid) (k : Nat) : (s.onGrid g f).core k = s.core k := rfl
@[simp] theorem State.quad_onGrid (g : Nat) (f : Grid → Grid) (k : Nat) : (s.onGrid g f).quad k = s.quad k := rfl
@[simp] theorem State.ctx_onGrid (g : Nat) (f : Grid → Grid) (k : Nat) : (s.onGrid g f).ctx k = s.ctx k := rfl
@[simp] theorem State.team_store (pa : Nat) (bs : List Byte) (k : Nat) : (s.store pa bs).team k = s.team k := rfl
@[simp] theorem State.core_store (pa : Nat) (bs : List Byte) (k : Nat) : (s.store pa bs).core k = s.core k := rfl
@[simp] theorem State.quad_store (pa : Nat) (bs : List Byte) (k : Nat) : (s.store pa bs).quad k = s.quad k := rfl
@[simp] theorem State.ctx_store (pa : Nat) (bs : List Byte) (k : Nat) : (s.store pa bs).ctx k = s.ctx k := rfl
@[simp] theorem State.grid_store (pa : Nat) (bs : List Byte) (k : Nat) : (s.store pa bs).grid k = s.grid k := rfl
@[simp] theorem State.team_storeNat (pa n v : Nat) (k : Nat) : (s.storeNat pa n v).team k = s.team k := rfl
@[simp] theorem State.core_storeNat (pa n v : Nat) (k : Nat) : (s.storeNat pa n v).core k = s.core k := rfl
@[simp] theorem State.quad_storeNat (pa n v : Nat) (k : Nat) : (s.storeNat pa n v).quad k = s.quad k := rfl
@[simp] theorem State.ctx_storeNat (pa n v : Nat) (k : Nat) : (s.storeNat pa n v).ctx k = s.ctx k := rfl
@[simp] theorem State.grid_storeNat (pa n v : Nat) (k : Nat) : (s.storeNat pa n v).grid k = s.grid k := rfl
@[simp] theorem State.team_drew (n : Nat) (k : Nat) : (s.drew n).team k = s.team k := rfl
@[simp] theorem State.core_drew (n : Nat) (k : Nat) : (s.drew n).core k = s.core k := rfl
@[simp] theorem State.quad_drew (n : Nat) (k : Nat) : (s.drew n).quad k = s.quad k := rfl
@[simp] theorem State.ctx_drew (n : Nat) (k : Nat) : (s.drew n).ctx k = s.ctx k := rfl
@[simp] theorem State.grid_drew (n : Nat) (k : Nat) : (s.drew n).grid k = s.grid k := rfl

end Sys2Proof.Machine
end

