-- ==== Sys2Proof/Laws/Words.lean ====
section
/-! SUPPORT. What a word's end does: a change of the issuing team, then of the issuing strand. -/

namespace Sys2Proof.Machine

open Claims

theorem Team.stream_setStream (T : Team) (x y : StreamId) (m : Stream) :
    (T.setStream x m).stream y = if y = x then m else T.stream y := by
  cases x <;> cases y <;> simp [Team.setStream, Team.stream]

/-- One state differs from another in the issuing team alone. -/
structure TeamOnly (s t : State) : Prop where
  rest : t = { s with teams := t.teams }
  teams : ∀ u, u ≠ s.cur.team → t.team u = s.team u

theorem TeamOnly.refl (s : State) : TeamOnly s s := ⟨rfl, fun _ _ => rfl⟩

theorem TeamOnly.cur {s t : State} (h : TeamOnly s t) : t.cur = s.cur := by rw [h.rest]

theorem TeamOnly.trans {s t u : State} (h : TeamOnly s t) (k : TeamOnly t u) : TeamOnly s u := by
  refine ⟨?_, fun v hv => ?_⟩
  · have a := k.rest
    rw [h.rest] at a
    exact a
  · rw [k.teams v (by rw [h.cur]; exact hv), h.teams v hv]

theorem teamOnly_onMine (s : State) (f : Team → Team) : TeamOnly s (s.onMine f) :=
  ⟨rfl, fun u hu => by rw [State.onMine, State.team_onTeam, if_neg hu]⟩

theorem teamOnly_onMyStream (s : State) (f : Stream → Stream) : TeamOnly s (s.onMyStream f) := teamOnly_onMine s _

@[simp] theorem State.mine_onMine (s : State) (f : Team → Team) : (s.onMine f).mine = f s.mine := by
  show (s.onTeam s.cur.team f).team s.cur.team = _
  rw [State.team_onTeam, if_pos rfl]; rfl

@[simp] theorem State.myStream_onMyStream (s : State) (f : Stream → Stream) : (s.onMyStream f).myStream = f s.myStream := by
  show ((s.onMyStream f).mine).stream s.cur.strm = _
  rw [State.onMyStream, State.mine_onMine, Team.stream_setStream, if_pos rfl]; rfl

theorem State.mine_onMyStream (s : State) (f : Stream → Stream) :
    (s.onMyStream f).mine = s.mine.setStream s.cur.strm (f s.myStream) := by
  rw [State.onMyStream, State.mine_onMine]; rfl

/-- What a change of the issuing team must keep for its strands to be where they were. -/
structure Keeps (T U : Team) : Prop where
  held : U.held = T.held
  core : U.core = T.core
  ctx : U.ctx = T.ctx
  croot : U.cs.root = T.cs.root
  aroot : U.as.root = T.as.root

theorem Keeps.refl (T : Team) : Keeps T T := ⟨rfl, rfl, rfl, rfl, rfl⟩

theorem Keeps.root {T U : Team} (h : Keeps T U) (x : StreamId) : (U.stream x).root = (T.stream x).root := by
  cases x
  · exact h.croot
  · exact h.aroot

theorem keeps_setStream (T : Team) (x : StreamId) (m : Stream) (h : m.root = (T.stream x).root) : Keeps T (T.setStream x m) := by
  cases x
  · exact ⟨rfl, rfl, rfl, h, rfl⟩
  · exact ⟨rfl, rfl, rfl, rfl, h⟩

theorem TeamOnly.rest2 {s t : State} (h : TeamOnly s t) : t = { s with teams := t.teams, cores := t.cores } := by
  have e : t.cores = s.cores := by rw [h.rest]
  rw [e]; exact h.rest

theorem TeamOnly.core {s t : State} (h : TeamOnly s t) (c : Nat) : t.core c = s.core c := by rw [h.rest]; rfl
theorem TeamOnly.ctx {s t : State} (h : TeamOnly s t) (c : Nat) : t.ctx c = s.ctx c := by rw [h.rest]; rfl

theorem TeamOnly.me {s t : State} (h : TeamOnly s t) (k : Keeps s.mine t.mine) : t.me = s.me := by
  have hm : t.team s.cur.team = t.mine := by rw [State.mine, h.cur]
  unfold State.me State.strand
  rw [h.cur]
  cases hs : s.cur.sid with
  | none =>
    show ((t.team s.cur.team).stream _).root = _
    rw [hm, k.root]; rfl
  | some i =>
    show SMap.get Strand.free (t.bank s.cur.team).split i = SMap.get Strand.free (s.bank s.cur.team).split i
    have e : t.bank s.cur.team = s.bank s.cur.team := by
      unfold State.bank
      rw [hm, k.held, k.core, k.ctx, h.core, h.ctx]; rfl
    rw [e]

/-- The issuing strand replaced in a state that differs from s in the issuing team alone. -/
theorem setMe_spec {s t : State} (h : TeamOnly s t) (k : Keeps s.mine t.mine) (ha : Issues s)
    (ho : t.mine.stream (otherStream s.cur.strm) = s.mine.stream (otherStream s.cur.strm)) (x : Strand) :
    (t.setStrand t.cur x).me = x ∧ OnlyMine s (t.setStrand t.cur x)
    ∧ (t.setStrand t.cur x).mine = (if s.cur.sid = none then t.mine.setStream s.cur.strm { t.myStream with root := x } else t.mine) := by
  have hc := h.cur
  have hh : (t.team s.cur.team).held = .active := by
    have := k.held; rw [ha] at this; rw [← this, State.mine, hc]
  cases hs : s.cur.sid with
  | none =>
    have e : t.setStrand t.cur x = t.onMyStream (fun m => { m with root := x }) := by
      unfold State.setStrand; rw [hc, hs]; simp only [State.onMyStream, State.onMine, hc]
    have hto := h.trans (teamOnly_onMyStream t (fun m => { m with root := x }))
    have hm : (t.setStrand t.cur x).mine = t.mine.setStream s.cur.strm { t.myStream with root := x } := by
      rw [e, State.mine_onMyStream, hc]
    refine ⟨?_, ⟨?_, ?_, ?_, ?_, ?_⟩, ?_⟩
    · have : (t.setStrand t.cur x).me = ((t.setStrand t.cur x).mine.stream s.cur.strm).root := by
        have hcur : (t.setStrand t.cur x).cur = s.cur := by rw [e]; exact hc
        unfold State.me State.strand State.mine; rw [hcur, hs]
      rw [this, hm, Team.stream_setStream, if_pos rfl]
    · rw [e]; exact hto.rest2
    · rw [e]; exact hto.teams
    · intro c; left; rw [e]; exact hto.core c
    · rw [hm, Team.stream_setStream, if_neg (by cases s.cur.strm <;> simp [otherStream]), ho]
    · intro hn; exact absurd hs hn
    · simp [hm]
  | some i =>
    have e : t.setStrand t.cur x = t.onCore (t.team s.cur.team).core (fun c =>
        { c with active := { t.bank s.cur.team with split := SMap.set Strand.free (t.bank s.cur.team).split i x } }) := by
      unfold State.setStrand; rw [hc, hs]; simp only [State.setBank, hh]
    have hb : t.bank s.cur.team = (t.core (t.team s.cur.team).core).active := by unfold State.bank; rw [hh]
    have hcore : (t.team s.cur.team).core = s.mine.core := by rw [← k.core, State.mine, hc]
    have hteams : (t.setStrand t.cur x).teams = t.teams := by rw [e]; rfl
    have hcur : (t.setStrand t.cur x).cur = s.cur := by rw [e]; exact hc
    have hteam (u : Nat) : (t.setStrand t.cur x).team u = t.team u := by unfold State.team; rw [hteams]
    have hmine : (t.setStrand t.cur x).mine = t.mine := by unfold State.mine; rw [hcur, hteam, hc]
    have hme : (t.setStrand t.cur x).me = x := by
      unfold State.me State.strand; rw [hcur, hs]
      have : (t.setStrand t.cur x).bank s.cur.team = { t.bank s.cur.team with split := SMap.set Strand.free (t.bank s.cur.team).split i x } := by
        have hb2 : (t.setStrand t.cur x).bank s.cur.team = ((t.setStrand t.cur x).core (t.team s.cur.team).core).active := by
          unfold State.bank; rw [hteam, hh]
        rw [hb2, e, State.core_onCore, if_pos rfl]
      simp only [this, SMap.get_set_same]
    refine ⟨hme, ⟨?_, ?_, ?_, ?_, ?_⟩, ?_⟩
    · rw [e]
      have := h.rest
      generalize t.bank s.cur.team = b
      rw [this]; rfl
    · intro u hu; rw [hteam]; exact h.teams u hu
    · intro c
      by_cases q : c = s.mine.core
      · right; refine ⟨q, i, SMap.set Strand.free (s.core c).active.split i x, hs, ?_, fun j hj => SMap.get_set_ne _ _ _ _ _ hj⟩
        have : (t.setStrand t.cur x).core c = (t.onCore (t.team s.cur.team).core (fun c =>
            { c with active := { t.bank s.cur.team with split := SMap.set Strand.free (t.bank s.cur.team).split i x } })).core c := by rw [e]
        rw [this, State.core_onCore, hcore, if_pos q, hb, hcore, ← q, h.core]
      · left; rw [e, State.core_onCore, hcore, if_neg q, h.core]
    · rw [hmine]; exact ho
    · intro _
      show ((t.setStrand t.cur x).mine.stream (t.setStrand t.cur x).cur.strm).root = _
      rw [hmine, hcur, k.root]; rfl
    · rw [hmine]; simp

/-! The words whose effect is on a scalar or on the strand alone. -/

theorem State.onMyStream_const (s : State) (f : Stream → Stream) : s.onMyStream f = s.onMyStream (fun _ => f s.myStream) := rfl

theorem setSreg_reads (m : Stream) (d e : BitVec 6) (v : W64) (ref : Bool) :
    (m.setSreg d v ref).sreg e = (if e = d then v else m.sreg e) ∧ (m.setSreg d v ref).sref e = (if e = d then ref else m.sref e) := by
  have h : (e.toNat = d.toNat) = (e = d) := by simp [BitVec.toNat_inj]
  simp [Stream.setSreg, Stream.sreg, Stream.sref, SMap.get_set, SMap.has_flag, h]

/-- A scalar written, then the issuing strand left as f makes it. -/
theorem scalarResult (s : State) (ha : Issues s) (d : BitVec 6) (v : W64) (ref : Bool) (f : Strand → Strand) :
    ScalarResult s ((s.onMyStream (fun m => m.setSreg d v ref)).onStrand s.cur f) d v ref (f s.me) := by
  have h := teamOnly_onMyStream s (fun m => m.setSreg d v ref)
  have hm : (s.onMyStream (fun m => m.setSreg d v ref)).mine = s.mine.setStream s.cur.strm (s.myStream.setSreg d v ref) :=
    State.mine_onMyStream s _
  have k : Keeps s.mine (s.onMyStream (fun m => m.setSreg d v ref)).mine := by
    rw [hm]; exact keeps_setStream _ _ _ rfl
  have hme := h.me k
  have hms : (s.onMyStream (fun m => m.setSreg d v ref)).myStream = s.myStream.setSreg d v ref := State.myStream_onMyStream s _
  have ho : (s.onMyStream (fun m => m.setSreg d v ref)).mine.stream (otherStream s.cur.strm) = s.mine.stream (otherStream s.cur.strm) := by
    rw [hm, Team.stream_setStream, if_neg (by cases s.cur.strm <;> simp [otherStream])]
  obtain ⟨h1, h2, h3⟩ := setMe_spec h k ha ho (f s.me)
  have e : (s.onMyStream (fun m => m.setSreg d v ref)).onStrand s.cur f
      = (s.onMyStream (fun m => m.setSreg d v ref)).setStrand (s.onMyStream (fun m => m.setSreg d v ref)).cur (f s.me) := by
    have : (s.onMyStream (fun m => m.setSreg d v ref)).strand s.cur = s.me := hme
    unfold State.onStrand; rw [this]; rfl
  rw [e]
  generalize ht : (s.onMyStream (fun m => m.setSreg d v ref)).setStrand (s.onMyStream (fun m => m.setSreg d v ref)).cur (f s.me) = t at h1 h2 h3
  have hcur : t.cur = s.cur := by rw [h2.rest]
  have hst : ∃ y, t.myStream = { s.myStream.setSreg d v ref with root := y } := by
    unfold State.myStream; rw [hcur, h3]
    split
    · refine ⟨f s.me, ?_⟩
      rw [Team.stream_setStream, if_pos rfl, hms]; rfl
    · refine ⟨(s.myStream.setSreg d v ref).root, ?_⟩
      rw [hm, Team.stream_setStream, if_pos rfl]; rfl
  obtain ⟨y, hy⟩ := hst
  have r (e : BitVec 6) : t.sreg e = (s.myStream.setSreg d v ref).sreg e ∧ t.myStream.sref e = (s.myStream.setSreg d v ref).sref e := by
    unfold State.sreg; rw [hy]; exact ⟨rfl, rfl⟩
  refine ⟨?_, ?_, ?_, ?_, h1, ?_, h2⟩
  · rw [(r d).1, (setSreg_reads _ d d v ref).1, if_pos rfl]
  · rw [(r d).2, (setSreg_reads _ d d v ref).2, if_pos rfl]
  · intro e he
    rw [(r e).1, (r e).2, (setSreg_reads _ d e v ref).1, (setSreg_reads _ d e v ref).2, if_neg he, if_neg he]
    exact ⟨rfl, rfl⟩
  · rw [hy]; rfl
  · unfold TeamKept
    rw [h3, hm]
    cases s.cur.strm <;> split <;> rfl

/-- The issuing strand left as f makes it, and nothing else. -/
theorem strandResult (s : State) (ha : Issues s) (f : Strand → Strand) : StrandResult s (s.onStrand s.cur f) (f s.me) := by
  obtain ⟨h1, h2, h3⟩ := setMe_spec (TeamOnly.refl s) (Keeps.refl _) ha rfl (f s.me)
  have e : s.onStrand s.cur f = s.setStrand s.cur (f s.me) := rfl
  rw [e]
  have hcur : (s.setStrand s.cur (f s.me)).cur = s.cur := by simp
  refine ⟨h1, ?_, ?_, h2⟩
  · unfold StreamKept
    have : (s.setStrand s.cur (f s.me)).myStream = (s.setStrand s.cur (f s.me)).mine.stream s.cur.strm := by
      unfold State.myStream; rw [hcur]
    rw [this, h3]
    split
    · rw [Team.stream_setStream, if_pos rfl]
    · rfl
  · unfold TeamKept
    rw [h3]
    cases s.cur.strm <;> split <;> rfl

/-- What a change of the issuing team keeps when it touches neither stream nor place. -/
structure Inner (T U : Team) : Prop where
  held : U.held = T.held
  core : U.core = T.core
  ctx : U.ctx = T.ctx
  cs : U.cs = T.cs
  as : U.as = T.as

theorem Inner.keeps {T U : Team} (h : Inner T U) : Keeps T U := ⟨h.held, h.core, h.ctx, by rw [h.cs], by rw [h.as]⟩

theorem Inner.stream {T U : Team} (h : Inner T U) (x : StreamId) : U.stream x = T.stream x := by
  cases x
  · exact h.cs
  · exact h.as

/-- A state that differs in the issuing team, then the issuing strand left as f makes it. -/
theorem ownState {s s1 : State} (h : TeamOnly s s1) (k : Keeps s.mine s1.mine) (ha : Issues s)
    (ho : s1.mine.stream (otherStream s.cur.strm) = s.mine.stream (otherStream s.cur.strm)) (f : Strand → Strand) :
    let t := s1.onStrand s.cur f
    t.me = f s.me ∧ OnlyMine s t ∧ t.mine = { s1.mine with cs := t.mine.cs, as := t.mine.as }
      ∧ t.myStream = { s1.myStream with root := t.myStream.root } := by
  intro t
  have hme := h.me k
  obtain ⟨h1, h2, h3⟩ := setMe_spec h k ha ho (f s.me)
  have e : t = s1.setStrand s1.cur (f s.me) := by
    have : s1.strand s.cur = s.me := by rw [← h.cur]; exact hme
    show s1.onStrand s.cur f = _
    unfold State.onStrand; rw [this, h.cur]
  rw [← e] at h1 h2 h3
  have hcur : t.cur = s.cur := by rw [h2.rest]
  refine ⟨h1, h2, ?_, ?_⟩
  · rw [h3]
    cases s.cur.strm <;> split <;> rfl
  · have a : t.myStream = t.mine.stream s.cur.strm := by unfold State.myStream; rw [hcur]
    have b : s1.myStream = s1.mine.stream s.cur.strm := by unfold State.myStream; rw [h.cur]
    rw [a, h3, b]
    split
    · rw [Team.stream_setStream, if_pos rfl, ← b]
    · rfl

/-- A change inside the issuing team, then the issuing strand left as f makes it. -/
theorem ownTeam (s : State) (ha : Issues s) (g : Team → Team) (hg : Inner s.mine (g s.mine)) (f : Strand → Strand) :
    let t := (s.onMine g).onStrand s.cur f
    t.me = f s.me ∧ OnlyMine s t ∧ t.mine = { g s.mine with cs := t.mine.cs, as := t.mine.as } ∧ StreamKept s t := by
  have hm := State.mine_onMine s g
  have hms : (s.onMine g).myStream = s.myStream := by
    show (s.onMine g).mine.stream s.cur.strm = _
    rw [hm, hg.stream]; rfl
  obtain ⟨h1, h2, h3, h4⟩ := ownState (teamOnly_onMine s g) (by rw [hm]; exact hg.keeps) ha (by rw [hm, hg.stream]) f
  rw [hm] at h3
  rw [hms] at h4
  exact ⟨h1, h2, h3, h4⟩

/-- A change inside the issuing team and of its stream, then the issuing strand left as f makes it. -/
theorem ownResult (s : State) (ha : Issues s) (g : Team → Team) (hg : Inner s.mine (g s.mine)) (k : Stream → Stream)
    (hk : (k s.myStream).root = s.myStream.root) (f : Strand → Strand) :
    let t := ((s.onMine g).onMyStream k).onStrand s.cur f
    t.me = f s.me ∧ OnlyMine s t ∧ t.mine = { g s.mine with cs := t.mine.cs, as := t.mine.as }
      ∧ t.myStream = { k s.myStream with root := t.myStream.root } := by
  have h := (teamOnly_onMine s g).trans (teamOnly_onMyStream (s.onMine g) k)
  have hms1 : (s.onMine g).myStream = s.myStream := by
    show (s.onMine g).mine.stream s.cur.strm = _
    rw [State.mine_onMine, hg.stream]; rfl
  have hm : ((s.onMine g).onMyStream k).mine = (g s.mine).setStream s.cur.strm (k s.myStream) := by
    rw [State.mine_onMyStream, State.mine_onMine, hms1]; rfl
  have kk : Keeps s.mine ((s.onMine g).onMyStream k).mine := by
    rw [hm]
    have a := keeps_setStream (g s.mine) s.cur.strm (k s.myStream) (by rw [hk, hg.stream]; rfl)
    have b := hg.keeps
    exact ⟨a.held.trans b.held, a.core.trans b.core, a.ctx.trans b.ctx, a.croot.trans b.croot, a.aroot.trans b.aroot⟩
  have hms : ((s.onMine g).onMyStream k).myStream = k s.myStream := by rw [State.myStream_onMyStream, hms1]
  have ho : ((s.onMine g).onMyStream k).mine.stream (otherStream s.cur.strm) = s.mine.stream (otherStream s.cur.strm) := by
    rw [hm, Team.stream_setStream, if_neg (by cases s.cur.strm <;> simp [otherStream]), hg.stream]
  obtain ⟨h1, h2, h3, h4⟩ := ownState h kk ha ho f
  refine ⟨h1, h2, ?_, ?_⟩
  · rw [h3, hm]
    cases s.cur.strm <;> rfl
  · rw [hms] at h4; exact h4

theorem needScalars_ok {s : State} {l : List (BitVec 6)} (h : ScalarsReady s l) : needScalars s l = .ok () := by
  unfold needScalars require
  rw [if_pos]
  simp only [List.all_eq_true, Bool.not_eq_true']
  exact h

theorem needPreds_ok {s : State} {l : List (BitVec 3)} (h : PredsReady s l) : needPreds s l = .ok () := by
  unfold needPreds require
  rw [if_pos]
  simp only [List.all_eq_true, Bool.not_eq_true']
  exact h

@[simp] theorem finish_ok (s t : State) : finish s (.ok t) = .next t := rfl
@[simp] theorem ok_bind {α β : Type} (a : α) (f : α → Except Stop β) : (Except.ok a >>= f) = f a := rfl

theorem salu_ok {s : State} {d a b : BitVec 6} (f : W64 → W64 → W64) (h : ScalarsReady s [d, a, b]) :
    salu s d a b f = .next ((s.putSreg d (f (s.sreg a) (s.sreg b))).advance) := by
  unfold salu; rw [needScalars_ok h]; rfl

/-! Words of several changes: each of the team, of the stream or of the strand. -/

theorem onlyMine_cur {s t : State} (h : OnlyMine s t) : t.cur = s.cur := by rw [h.rest]

theorem otherStream_ne (x : StreamId) : otherStream x ≠ x := by cases x <;> simp [otherStream]

theorem TeamOnly.onlyMine {s t : State} (h : TeamOnly s t)
    (ho : t.mine.stream (otherStream s.cur.strm) = s.mine.stream (otherStream s.cur.strm))
    (hr : s.cur.sid ≠ none → t.myStream.root = s.myStream.root) : OnlyMine s t :=
  ⟨h.rest2, h.teams, fun c => .inl (h.core c), ho, hr⟩

theorem onlyMine_trans {s t u : State} (h : OnlyMine s t) (k : OnlyMine t u) (hc : t.mine.core = s.mine.core) : OnlyMine s u := by
  have e := onlyMine_cur h
  refine ⟨?_, fun v hv => ?_, fun c => ?_, ?_, fun hn => ?_⟩
  · have a := k.rest
    rw [h.rest] at a
    exact a
  · rw [k.teams v (by rw [e]; exact hv), h.teams v hv]
  · rcases h.cores c with h1 | ⟨h1, i, z, h2, h3, h4⟩ <;> rcases k.cores c with k1 | ⟨k1, j, y, k2, k3, k4⟩
    · left; rw [k1, h1]
    · right
      refine ⟨by rw [k1, hc], j, y, by rw [← e]; exact k2, by rw [k3, h1], fun n hn => by rw [k4 n hn, h1]⟩
    · right; exact ⟨h1, i, z, h2, by rw [k1, h3], h4⟩
    · right
      have : j = i := by rw [e, h2] at k2; exact (Option.some.inj k2).symm
      subst this
      refine ⟨h1, j, y, h2, by rw [k3, h3], fun n hn => ?_⟩
      rw [k4 n hn, h3]
      exact h4 n hn
  · rw [← e, k.other, e, h.other]
  · rw [k.root (by rw [e]; exact hn), h.root hn]

/-- A change of a team that neither reads nor writes its streams, and keeps its place. -/
structure Local (g : Team → Team) : Prop where
  streams : ∀ U c a, g { U with cs := c, as := a } = { g U with cs := c, as := a }
  held : ∀ U, (g U).held = U.held
  core : ∀ U, (g U).core = U.core
  ctx : ∀ U, (g U).ctx = U.ctx

theorem Local.inner {g : Team → Team} (h : Local g) (U : Team) : Inner U (g U) := by
  have e : g U = { g U with cs := U.cs, as := U.as } := h.streams U U.cs U.as
  exact ⟨h.held U, h.core U, h.ctx U, by rw [e], by rw [e]⟩

theorem ownResult_start (s : State) : OwnResult s s s.mine s.myStream s.me :=
  ⟨rfl, rfl, rfl, (TeamOnly.refl s).onlyMine rfl (fun _ => rfl)⟩

theorem ownResult_issues {s t : State} {T : Team} {m : Stream} {x : Strand} (h : OwnResult s t T m x) (hT : T.held = .active) : Issues t := by
  unfold Issues; rw [h.team]; exact hT

theorem ownResult_onTeam {s t : State} {T : Team} {m : Stream} {x : Strand} (h : OwnResult s t T m x) (hc : T.core = s.mine.core)
    {g : Team → Team} (hg : Local g) : OwnResult s (t.onMine g) (g T) m x := by
  have hm := State.mine_onMine t g
  have hi := hg.inner t.mine
  have hcur : (t.onMine g).cur = t.cur := rfl
  have hms : (t.onMine g).myStream = t.myStream := by
    show (t.onMine g).mine.stream t.cur.strm = _
    rw [hm, hi.stream]; rfl
  refine ⟨?_, by rw [hms]; exact h.stream, ?_, ?_⟩
  · rw [hm]
    have e := hg.streams T t.mine.cs t.mine.as
    have e' : g t.mine = { g T with cs := t.mine.cs, as := t.mine.as } := by rw [← e, ← h.team]
    rw [e']
  · rw [(teamOnly_onMine t g).me (by rw [hm]; exact hi.keeps)]; exact h.strand
  · refine onlyMine_trans h.rest ((teamOnly_onMine t g).onlyMine (by rw [hm, hi.stream]) (fun _ => by rw [hms])) ?_
    rw [h.team]; exact hc

theorem ownResult_onStrand {s t : State} {T : Team} {m : Stream} {x : Strand} (h : OwnResult s t T m x) (hT : T.held = .active)
    (hc : T.core = s.mine.core) (f : Strand → Strand) : OwnResult s (t.onStrand s.cur f) T m (f x) := by
  have k := strandResult t (ownResult_issues h hT) f
  rw [onlyMine_cur h.rest] at k
  refine ⟨?_, ?_, ?_, onlyMine_trans h.rest k.rest (by rw [h.team]; exact hc)⟩
  · have a := k.team
    unfold TeamKept at a
    rw [a, h.team]
  · have a := k.stream
    unfold StreamKept at a
    rw [a, h.stream]
  · rw [k.strand, h.strand]

theorem ownResult_onStream {s t : State} {T : Team} {m : Stream} {x : Strand} (h : OwnResult s t T m x) (hc : T.core = s.mine.core)
    {f : Stream → Stream} (hf : ∀ m r, f { m with root := r } = { f m with root := r }) : OwnResult s (t.onMyStream f) T (f m) x := by
  have hm := State.mine_onMyStream t f
  have hms := State.myStream_onMyStream t f
  have hroot : (f t.myStream).root = t.myStream.root := by
    have := hf t.myStream t.myStream.root
    have e : f t.myStream = { f t.myStream with root := t.myStream.root } := this
    rw [e]
  have hk : Keeps t.mine (t.onMyStream f).mine := by rw [hm]; exact keeps_setStream _ _ _ hroot
  refine ⟨?_, ?_, ?_, ?_⟩
  · rw [hm]
    have a := h.team
    rw [a]
    cases t.cur.strm <;> rfl
  · rw [hms]
    have e' : f t.myStream = { f m with root := t.myStream.root } := by
      rw [← hf]
      have := h.stream
      rw [this]
    rw [e']
  · rw [(teamOnly_onMyStream t f).me hk]; exact h.strand
  · refine onlyMine_trans h.rest ((teamOnly_onMyStream t f).onlyMine ?_ (fun _ => by rw [hms, hroot])) (by rw [h.team]; exact hc)
    rw [hm, Team.stream_setStream, if_neg (otherStream_ne _)]

end Sys2Proof.Machine
end

