-- ==== Sys2Proof/Laws/Vector.lean ====
section
/-! SUPPORT. What the operations of a vector word do: lanes and groups, registers and their tags, queues, generators, flags. -/

namespace Sys2Proof.Machine

open Claims

/-! Lanes and groups. -/

theorem mem_indicesWhere (n : Nat) (p : Nat → Bool) (i : Nat) : i ∈ indicesWhere n p ↔ i < n ∧ p i = true := by
  simp [indicesWhere]

theorem Team.mem_lanesOf (T : Team) (m : Mask) (l : Nat) : l ∈ T.lanesOf m ↔ l < T.lanes ∧ m.getLsbD l = true := mem_indicesWhere _ _ _

theorem lane_lt {m : Mask} {l : Nat} (h : m.getLsbD l = true) : l < 1024 := by
  false_or_by_contra
  rw [BitVec.getLsbD_of_ge m l (by omega)] at h
  exact absurd h (by simp)

theorem mem_lanesOf_active (s : State) (l : Nat) : l ∈ s.mine.lanesOf s.me.mask ↔ Active s l := Team.mem_lanesOf _ _ _

theorem Team.gw_pos (T : Team) : 0 < T.gw ∧ 16 ≤ T.gw := by unfold Team.gw; split <;> omega

theorem Team.groupMask_bit (T : Team) (g i : Nat) : (T.groupMask g).getLsbD i = true ↔ i < 1024 ∧ i / T.gw = g := by
  obtain ⟨hp, _⟩ := T.gw_pos
  unfold Team.groupMask
  rw [BitVec.getLsbD_ofNat, ← Nat.shiftLeft_eq, Nat.testBit_shiftLeft, Nat.testBit_two_pow_sub_one]
  simp only [Bool.and_eq_true, decide_eq_true_eq, ge_iff_le]
  rw [Nat.div_eq_iff hp]
  have e : T.gw * g = g * T.gw := Nat.mul_comm _ _
  omega

theorem Team.mem_groupsOf (T : Team) (m : Mask) (g : Nat) :
    g ∈ T.groupsOf m ↔ g < T.ngroups ∧ ∃ l, m.getLsbD l = true ∧ l / T.gw = g := by
  unfold Team.groupsOf
  rw [mem_indicesWhere]
  simp only [decide_eq_true_eq]
  refine and_congr_right fun _ => ⟨fun h => ?_, ?_⟩
  · false_or_by_contra
    rename_i hn
    apply h
    apply BitVec.eq_of_getLsbD_eq
    intro i hi
    rw [BitVec.getLsbD_and]
    simp only [BitVec.ofNat_eq_ofNat, BitVec.getLsbD_zero, Bool.and_eq_false_iff]
    by_cases hm : m.getLsbD i = true
    · right
      rw [← Bool.not_eq_true, T.groupMask_bit]
      exact fun hh => hn ⟨i, hm, hh.2⟩
    · left; simpa using hm
  · rintro ⟨l, hl, hg⟩ h0
    have := congrArg (fun v => BitVec.getLsbD v l) h0
    simp only [BitVec.getLsbD_and, hl, BitVec.ofNat_eq_ofNat, BitVec.getLsbD_zero, Bool.true_and] at this
    rw [← Bool.not_eq_true, T.groupMask_bit] at this
    exact this ⟨lane_lt hl, hg⟩

theorem mem_groupsOf_active (s : State) (g : Nat) : g ∈ s.mine.groupsOf s.me.mask ↔ ActiveGroup s g := Team.mem_groupsOf _ _ _

theorem group_lt {T : Team} {m : Mask} {g : Nat} (h : g ∈ T.groupsOf m) : g < 64 := by
  obtain ⟨_, l, hl, rfl⟩ := (T.mem_groupsOf m g).mp h
  have := lane_lt hl
  have h16 := T.gw_pos.2
  calc l / T.gw ≤ l / 16 := Nat.div_le_div_left h16 (by omega)
    _ < 64 := by omega

/-! Registers. -/

theorem Team.vr_setVr (T : Team) (r q l k : Nat) (v : W32) (hl : l < 1024) (hk : k < 1024) :
    (T.setVr r l v).vr q k = if q = r ∧ k = l then v else T.vr q k := by
  unfold Team.vr Team.setVr
  rw [SMap.get_set]
  by_cases h : q = r ∧ k = l
  · rw [if_pos h, if_pos (by omega)]
  · rw [if_neg h, if_neg (by omega)]

theorem Team.vtag_setVtag (T : Team) (r q g h : Nat) (t : BitVec 4) (hg : g < 64) (hh : h < 64) :
    (T.setVtag r g t).vtag q h = if q = r ∧ h = g then t else T.vtag q h := by
  unfold Team.vtag Team.setVtag
  rw [SMap.get_set]
  by_cases c : q = r ∧ h = g
  · rw [if_pos c, if_pos (by omega)]
  · rw [if_neg c, if_neg (by omega)]

theorem Team.vr_putLanes (T : Team) (r : Nat) (ls : List Nat) (v : Nat → W32) (hls : ∀ l ∈ ls, l < 1024) (q k : Nat) (hk : k < 1024) :
    (T.putLanes r (ls.map (fun l => (l, v l)))).vr q k = if q = r ∧ k ∈ ls then v k else T.vr q k := by
  unfold Team.putLanes
  induction ls generalizing T with
  | nil => simp
  | cons l rest ih =>
    simp only [List.map_cons, List.foldl_cons]
    rw [ih _ (fun x hx => hls x (List.mem_cons_of_mem _ hx)), Team.vr_setVr _ _ _ _ _ _ (hls l (by simp)) hk]
    by_cases hm : q = r ∧ k ∈ rest
    · rw [if_pos hm, if_pos ⟨hm.1, List.mem_cons_of_mem _ hm.2⟩]
    · rw [if_neg hm]
      by_cases hkl : q = r ∧ k = l
      · rw [if_pos hkl, if_pos ⟨hkl.1, hkl.2 ▸ List.mem_cons_self⟩, hkl.2]
      · rw [if_neg hkl, if_neg]
        rintro ⟨h, h2⟩
        rcases List.mem_cons.mp h2 with h2 | h2
        · exact hkl ⟨h, h2⟩
        · exact hm ⟨h, h2⟩

/-- The parts of a team that writing values into lanes leaves alone. -/
theorem Team.putLanes_eq (T : Team) (r : Nat) (vals : List (Nat × W32)) : T.putLanes r vals = { T with vregs := (T.putLanes r vals).vregs } := by
  unfold Team.putLanes
  induction vals generalizing T with
  | nil => rfl
  | cons p rest ih => rw [List.foldl_cons, ih]; rfl

theorem partner_ne (r : Nat) : partner r ≠ r := by unfold partner; split <;> omega

theorem Team.tagPass_eq (T : Team) (r g : Nat) (t : BitVec 4) :
    T.tagPass r g t = { T with vtags := (T.tagPass r g t).vtags, accs := (T.tagPass r g t).accs } := by
  unfold Team.tagPass; dsimp only; split <;> rfl

theorem Team.tagPass_accs (T : Team) (r g : Nat) (t : BitVec 4) : (T.tagPass r g t).accs = T.accs.map (fun a => a.strike r g) := by
  unfold Team.tagPass; dsimp only; split <;> rfl

theorem AccessOp.strike_rest (a : AccessOp) (r g : Nat) : { a.strike r g with dest := Dest.nowhere } = { a with dest := Dest.nowhere } := by
  unfold AccessOp.strike
  split
  · split <;> rfl
  · rfl

theorem Team.vtag_tagPass (T : Team) (r g q h : Nat) (t : BitVec 4) (hg : g < 64) (hh : h < 64) :
    (T.tagPass r g t).vtag q h =
      if q = r ∧ h = g then t else if q = partner r ∧ h = g ∧ T.vtag q h = tRef then tRaw else T.vtag q h := by
  have hp := partner_ne r
  unfold Team.tagPass
  simp only
  rw [Team.vtag_setVtag _ _ _ _ _ _ hg hh]
  by_cases c : q = r ∧ h = g
  · rw [if_pos c, if_pos c]
  · rw [if_neg c, if_neg c]
    split
    · rename_i hr
      have hr : T.vtag (partner r) g = tRef := hr
      rw [Team.vtag_setVtag _ _ _ _ _ _ hg hh]
      by_cases d : q = partner r ∧ h = g
      · rw [if_pos d, if_pos ⟨d.1, d.2, by rw [d.1, d.2]; exact hr⟩]
      · rw [if_neg d, if_neg (fun x => d ⟨x.1, x.2.1⟩)]; rfl
    · rename_i hr
      have hr : ¬ T.vtag (partner r) g = tRef := hr
      rw [if_neg]
      · rfl
      · rintro ⟨rfl, rfl, x⟩
        exact hr x

/-- The tags after a pass in each of some groups. -/
theorem Team.vtag_passes (T : Team) (r : Nat) (gs : List Nat) (tag : Nat → BitVec 4) (hgs : ∀ g ∈ gs, g < 64) (q h : Nat) (hh : h < 64) :
    (gs.foldl (fun T g => T.tagPass r g (tag g)) T).vtag q h =
      if h ∈ gs then (if q = r then tag h else if q = partner r ∧ T.vtag q h = tRef then tRaw else T.vtag q h) else T.vtag q h := by
  induction gs generalizing T with
  | nil => simp
  | cons g rest ih =>
    rw [List.foldl_cons, ih _ (fun x hx => hgs x (List.mem_cons_of_mem _ hx)), Team.vtag_tagPass _ _ _ _ _ _ (hgs g (by simp)) hh]
    have hp := partner_ne r
    have hrw : ¬ (tRaw : BitVec 4) = tRef := by decide
    by_cases hq : q = r <;> by_cases hm : h ∈ rest <;> by_cases hg : h = g <;> by_cases hr : q = partner r <;> by_cases ht : T.vtag q h = tRef <;>
      simp_all

theorem Team.passes_eq (T : Team) (r : Nat) (gs : List Nat) (tag : Nat → BitVec 4) :
    let U := gs.foldl (fun T g => T.tagPass r g (tag g)) T
    U = { T with vtags := U.vtags, accs := U.accs }
      ∧ U.accs.map (fun a => { a with dest := Dest.nowhere }) = T.accs.map (fun a => { a with dest := Dest.nowhere }) := by
  induction gs generalizing T with
  | nil => exact ⟨rfl, rfl⟩
  | cons g rest ih =>
    simp only [List.foldl_cons]
    obtain ⟨h1, h2⟩ := ih (T.tagPass r g (tag g))
    refine ⟨?_, ?_⟩
    · rw [h1, T.tagPass_eq]
    · rw [h2, T.tagPass_accs, List.map_map]
      apply List.map_congr_left
      intro a _
      exact a.strike_rest r g

/-! Queues. -/

theorem Team.queue_setQueue (T : Team) (q p l k : Nat) (es : List QEntry) (hq : q < 8) (hp : p < 8) :
    (T.setQueue q l es).queue p k = if p = q ∧ k = l then es else T.queue p k := by
  unfold Team.queue Team.setQueue
  rw [SMap.get_set]
  by_cases c : p = q ∧ k = l
  · rw [if_pos c, if_pos (by omega)]
  · rw [if_neg c, if_neg (by omega)]

theorem Team.setQueue_eq (T : Team) (q l : Nat) (es : List QEntry) : T.setQueue q l es = { T with queues := (T.setQueue q l es).queues } := rfl

theorem nub_mem (l : List Nat) (x : Nat) : x ∈ nub l ↔ x ∈ l := by
  induction l with
  | nil => simp [nub]
  | cons y rest ih =>
    simp only [nub, List.mem_cons, List.mem_filter, ih, decide_eq_true_eq]
    by_cases h : x = y <;> simp [h]

theorem nub_nodup (l : List Nat) : (nub l).Nodup := by
  induction l with
  | nil => simp [nub]
  | cons y rest ih =>
    simp only [nub, List.nodup_cons, List.mem_filter, decide_eq_true_eq, ne_eq, not_true, and_false, not_false_iff, true_and]
    exact ih.filter _

theorem mem_portsOf (fs : List Nat) (q : Nat) : q ∈ portsOf fs ↔ 120 + q ∈ fs := by
  unfold portsOf
  rw [nub_mem]
  simp only [List.mem_map, List.mem_filter, isPort, decide_eq_true_eq]
  constructor
  · rintro ⟨f, ⟨h1, h2⟩, rfl⟩
    have : 120 + (f - 120) = f := by omega
    rw [this]; exact h1
  · intro h
    exact ⟨120 + q, ⟨h, by omega⟩, by omega⟩

theorem Team.lanesOf_nodup (T : Team) (m : Mask) : (T.lanesOf m).Nodup := by
  unfold Team.lanesOf indicesWhere
  exact List.nodup_range.filter _

theorem Team.queue_pop (T : Team) (q : Nat) (m : Mask) (hq : q < 8) (p k : Nat) (hp : p < 8) :
    (T.pop q m).queue p k = if p = q ∧ k ∈ T.lanesOf m then (T.queue p k).tail else T.queue p k := by
  unfold Team.pop
  have hn := T.lanesOf_nodup m
  revert hn
  generalize T.lanesOf m = ls
  intro hn
  induction ls generalizing T with
  | nil => simp
  | cons l rest ih =>
    obtain ⟨h1, h2⟩ := List.nodup_cons.mp hn
    rw [List.foldl_cons, ih _ h2, Team.queue_setQueue _ _ _ _ _ _ hq hp]
    by_cases hpq : p = q <;> by_cases hm : k ∈ rest <;> by_cases hkl : k = l <;> simp_all

theorem Team.pop_eq (T : Team) (q : Nat) (m : Mask) : T.pop q m = { T with queues := (T.pop q m).queues } := by
  unfold Team.pop
  generalize T.lanesOf m = ls
  induction ls generalizing T with
  | nil => rfl
  | cons l rest ih => rw [List.foldl_cons, ih]; rfl

theorem Team.queue_pops (T : Team) (qs : List Nat) (hqs : ∀ q ∈ qs, q < 8) (hn : qs.Nodup) (m : Mask) (p k : Nat) (hp : p < 8) :
    (qs.foldl (fun T q => T.pop q m) T).queue p k = if p ∈ qs ∧ k ∈ T.lanesOf m then (T.queue p k).tail else T.queue p k := by
  induction qs generalizing T with
  | nil => simp
  | cons q rest ih =>
    obtain ⟨h1, h2⟩ := List.nodup_cons.mp hn
    have hl : (T.pop q m).lanesOf m = T.lanesOf m := by rw [T.pop_eq]; rfl
    rw [List.foldl_cons, ih _ (fun x hx => hqs x (List.mem_cons_of_mem _ hx)) h2, hl, Team.queue_pop _ _ _ (hqs q (by simp)) _ _ hp]
    by_cases hpq : p = q <;> by_cases hm : p ∈ rest <;> by_cases hk : k ∈ T.lanesOf m <;> simp_all

theorem Team.pops_eq (T : Team) (qs : List Nat) (m : Mask) :
    qs.foldl (fun T q => T.pop q m) T = { T with queues := (qs.foldl (fun T q => T.pop q m) T).queues } := by
  induction qs generalizing T with
  | nil => rfl
  | cons q rest ih =>
    rw [List.foldl_cons, ih]
    have h := T.pop_eq q m
    generalize T.pop q m = U at h ⊢
    rw [h]

theorem Team.push_eq (T : Team) (q : Nat) (vals : List (Nat × W32)) : T.push q vals = { T with queues := (T.push q vals).queues } := by
  unfold Team.push
  induction vals generalizing T with
  | nil => rfl
  | cons p rest ih => rw [List.foldl_cons, ih]; rfl

theorem Team.queue_push (T : Team) (q : Nat) (ls : List Nat) (v : Nat → W32) (hn : ls.Nodup) (hq : q < 8) (p k : Nat) (hp : p < 8) :
    (T.push q (ls.map (fun l => (l, v l)))).queue p k =
      if p = q ∧ k ∈ ls then T.queue p k ++ [{ val := some (v k), tag := T.qtag q, op := 0, drop := false }] else T.queue p k := by
  unfold Team.push
  induction ls generalizing T with
  | nil => simp
  | cons l rest ih =>
    obtain ⟨h1, h2⟩ := List.nodup_cons.mp hn
    simp only [List.map_cons, List.foldl_cons]
    rw [ih _ h2, Team.queue_setQueue _ _ _ _ _ _ hq hp]
    have ht (es : List QEntry) : (T.setQueue q l es).qtag q = T.qtag q := rfl
    rw [ht]
    by_cases hpq : p = q <;> by_cases hm : k ∈ rest <;> by_cases hkl : k = l <;> simp_all

/-! Generators and flags. -/

theorem Team.putGens_eq (T : Team) (out : List (Nat × LaneRes)) : T.putGens out = { T with gens := (T.putGens out).gens } := by
  unfold Team.putGens
  induction out generalizing T with
  | nil => rfl
  | cons p rest ih =>
    rw [List.foldl_cons, ih]
    split <;> rfl

theorem Team.gen_putGens (T : Team) (ls : List Nat) (out : Nat → LaneRes) (k : Nat) :
    (T.putGens (ls.map (fun l => (l, out l)))).gen k = if k ∈ ls then ((out k).gen).getD (T.gen k) else T.gen k := by
  unfold Team.putGens
  induction ls generalizing T with
  | nil => simp
  | cons l rest ih =>
    simp only [List.map_cons, List.foldl_cons]
    rw [ih]
    cases hg : (out l).gen with
    | none =>
      by_cases hm : k ∈ rest <;> by_cases hkl : k = l <;> simp_all
    | some x =>
      have e (j : Nat) : Team.gen { T with gens := SMap.set 0 T.gens l x } j = if j = l then x else T.gen j := by
        unfold Team.gen; exact SMap.get_set _ _ _ _ _
      by_cases hm : k ∈ rest <;> by_cases hkl : k = l <;> simp_all

theorem allFlags_bit (ls : List Nat) (out : Nat → LaneRes) (i : Nat) :
    (allFlags (ls.map (fun l => (l, out l)))).getLsbD i = true ↔ ∃ l, l ∈ ls ∧ (out l).fl.getLsbD i = true := by
  have g : ∀ (a : Flags), ((ls.map (fun l => (l, out l))).foldl (fun a p => a ||| p.2.fl) a).getLsbD i = true ↔
      (a.getLsbD i = true ∨ ∃ l, l ∈ ls ∧ (out l).fl.getLsbD i = true) := by
    induction ls with
    | nil => simp
    | cons l rest ih =>
      intro a
      simp only [List.map_cons, List.foldl_cons, ih, BitVec.getLsbD_or, Bool.or_eq_true, List.mem_cons, or_assoc]
      constructor
      · rintro (h | h | ⟨k, h1, h2⟩)
        · exact .inl h
        · exact .inr ⟨l, .inl rfl, h⟩
        · exact .inr ⟨k, .inr h1, h2⟩
      · rintro (h | ⟨k, h1 | h1, h2⟩)
        · exact .inl h
        · subst h1; exact .inr (.inl h2)
        · exact .inr (.inr ⟨k, h1, h2⟩)
  have := g 0
  unfold allFlags
  rw [this]
  simp

/-! The checks pass. -/

theorem require_true (c : Bool) (e : Stop) (h : c = true) : require c e = .ok () := by unfold require; rw [if_pos h]

theorem forAll_ok (l : List Nat) (f : Nat → Except Stop Unit) (h : ∀ x ∈ l, f x = .ok ()) : forAll l f = .ok () := by
  induction l with
  | nil => rfl
  | cons x rest ih =>
    unfold forAll
    rw [h x (by simp), ok_bind, ih (fun y hy => h y (List.mem_cons_of_mem _ hy))]

theorem tagTrap_ok (T : Team) (m : Mask) (c : Nat) (gs : List Nat) (h : gs = []) : tagTrap T m c gs = .ok () := by
  subst h; rfl

theorem unmapped_of_mapped {s : State} {r : Nat} (h : Mapped s r) : unmapped s.me.cnt r = false := by
  unfold unmapped; unfold Mapped at h
  simp only [Bool.and_eq_false_iff, Bool.or_eq_false_iff, decide_eq_false_iff_not]
  omega

theorem beginVec_ok {s : State} {srcs dsts : List Nat} (h : VecReady s srcs dsts) : beginVec s srcs dsts = .ok () := by
  have hreg (r : Nat) (hr : r ∈ (srcs ++ dsts).filter (fun f => !isPort f)) : r ∈ srcs ++ dsts ∧ r < 120 := by
    rw [List.mem_filter] at hr
    exact ⟨hr.1, by simpa [isPort] using hr.2⟩
  have hpop (q : Nat) (hq : q ∈ portsOf srcs) : 120 + q ∈ srcs := (mem_portsOf _ _).mp hq
  have hpush (q : Nat) (hq : q ∈ portsOf dsts) : 120 + q ∈ dsts := (mem_portsOf _ _).mp hq
  have e (q : Nat) : 120 + q - 120 = q := by omega
  unfold beginVec
  simp only
  rw [require_true _ _ (by
    rw [List.all_eq_true]
    intro r hr
    have := h.written r (hreg r hr).1 (hreg r hr).2
    simp [this]), ok_bind]
  have hb : checkBound s ((srcs ++ dsts).filter (fun f => !isPort f)) = .ok () := by
    unfold checkBound
    simp only
    rw [if_pos]
    rw [List.isEmpty_iff, List.filter_eq_nil_iff]
    intro r hr
    rw [unmapped_of_mapped (h.mapped r (hreg r hr).1 (hreg r hr).2)]
    simp
  rw [hb, ok_bind]
  rw [forAll_ok _ _ (fun q hq => by
    unfold checkPop
    simp only
    rw [if_neg]
    simp only [Bool.and_eq_true, Bool.not_eq_true', not_and, Bool.not_eq_false, List.isEmpty_iff, List.filter_eq_nil_iff]
    intro _ l hl
    have := h.filled _ (hpop q hq) (by omega) l ((mem_lanesOf_active s l).mp hl)
    rw [e] at this
    unfold Team.headFilled at this
    cases hc : s.mine.queue q l with
    | nil => rw [hc] at this; simp at this
    | cons x xs => simp), ok_bind]
  rw [forAll_ok _ _ (fun q hq => by
    unfold checkPush
    rw [h.reader _ (hpush q hq) (by omega)]; rfl), ok_bind]
  rw [require_true _ _ (by
    simp only [List.all_eq_true]
    intro q hq l hl
    have := h.filled _ (hpop q hq) (by omega) l ((mem_lanesOf_active s l).mp hl)
    rwa [e] at this), ok_bind]
  rw [require_true _ _ (by
    simp only [List.all_eq_true, decide_eq_true_eq]
    intro q hq l hl
    have := h.room _ (hpush q hq) (by omega) l ((mem_lanesOf_active s l).mp hl)
    rw [e] at this
    have e2 : bit1 ((portsOf srcs).contains q) = if 120 + q ∈ srcs then 1 else 0 := by
      unfold bit1
      simp only [List.contains_iff_mem, mem_portsOf]
    rw [e2]
    exact this), ok_bind]
  apply forAll_ok
  intro q hq
  apply tagTrap_ok
  unfold mixedGroups
  rw [List.filter_eq_nil_iff]
  intro g hg
  simp only [Bool.not_eq_true', Bool.not_eq_false, List.all_eq_true, beq_iff_eq]
  have hin (l : Nat) (hl : l ∈ s.mine.lanesOf (s.me.mask &&& s.mine.groupMask g)) : Active s l ∧ l / s.mine.gw = g := by
    rw [Team.mem_lanesOf, BitVec.getLsbD_and, Bool.and_eq_true] at hl
    exact ⟨⟨hl.1, hl.2.1⟩, ((s.mine.groupMask_bit g l).mp hl.2.2).2⟩
  intro l hl
  have hne : s.mine.lanesOf (s.me.mask &&& s.mine.groupMask g) ≠ [] := List.ne_nil_of_mem hl
  have hk : (s.mine.lanesOf (s.me.mask &&& s.mine.groupMask g)).headD 0 ∈ s.mine.lanesOf (s.me.mask &&& s.mine.groupMask g) := by
    cases hc : s.mine.lanesOf (s.me.mask &&& s.mine.groupMask g) with
    | nil => exact absurd hc hne
    | cons x xs => simp
  have := h.oneTag _ (hpop q hq) (by omega) l _ (hin l hl).1 (hin _ hk).1 (by rw [(hin l hl).2, (hin _ hk).2])
  rwa [e] at this

theorem tagChecks_ok {s : State} {srcs : List Nat} {rule : List (BitVec 4) → Except Nat (BitVec 4)} {tag : Nat → BitVec 4}
    (h : TagsPass s srcs rule tag) : tagChecks s srcs rule = .ok () := by
  have z (c : Nat) (F : Nat → Bool) (hF : ∀ g, ActiveGroup s g → F g = false) :
      tagTrap s.mine s.me.mask c ((s.mine.groupsOf s.me.mask).filter F) = .ok () := by
    apply tagTrap_ok
    rw [List.filter_eq_nil_iff]
    intro g hg
    rw [hF g ((mem_groupsOf_active s g).mp hg)]
    simp
  unfold tagChecks
  simp only
  rw [z cRefTag _ (fun g hg => by rw [h g hg]), ok_bind]
  exact z cTag _ (fun g hg => by rw [h g hg])

theorem resTag_of {s : State} {srcs : List Nat} {rule : List (BitVec 4) → Except Nat (BitVec 4)} {tag : Nat → BitVec 4}
    (h : TagsPass s srcs rule tag) {g : Nat} (hg : ActiveGroup s g) : s.mine.resTag s.me.mask srcs rule g = tag g := by
  unfold Team.resTag; rw [h g hg]

theorem vecChecks_ok {s : State} {srcs : List Nat} {d : Nat} {rule : List (BitVec 4) → Except Nat (BitVec 4)} {tag : Nat → BitVec 4}
    (h : VecReady s srcs [d]) (ht : TagsPass s srcs rule tag) (hp : PushTag s d tag) : vecChecks s srcs d rule = .ok () := by
  unfold vecChecks
  rw [beginVec_ok h, ok_bind, tagChecks_ok ht, ok_bind]
  unfold checkResult
  split
  · rename_i hd
    have hd : 120 ≤ d := by simpa [isPort] using hd
    apply tagTrap_ok
    rw [List.filter_eq_nil_iff]
    intro g hg
    have hg := (mem_groupsOf_active s g).mp hg
    rw [resTag_of ht hg]
    have := hp hd g hg
    simp only [decide_eq_true_eq]
    rcases this with h | h
    · exact fun x => x.1 h
    · exact fun x => x.2 h
  · rfl

theorem vecWord_ok {s : State} {srcs : List Nat} {d : Nat} {rule : List (BitVec 4) → Except Nat (BitVec 4)} {tag : Nat → BitVec 4}
    (f : Nat → List (BitVec 4) → List W32 → LaneRes)
    (h : VecReady s srcs [d]) (ht : TagsPass s srcs rule tag) (hp : PushTag s d tag) :
    vecWord s srcs d rule f = .ok (s.vecEffect srcs d rule f) := by
  unfold vecWord; rw [vecChecks_ok h ht hp]; rfl

/-! The effect. -/

theorem Team.popAll_eq (T : Team) (srcs : List Nat) (m : Mask) : T.popAll srcs m = { T with queues := (T.popAll srcs m).queues } :=
  T.pops_eq _ _

theorem Team.putField_eq (T : Team) (d : Nat) (m : Mask) (tag : Nat → BitVec 4) (vals : List (Nat × W32)) :
    T.putField d m tag vals = { T with vregs := (T.putField d m tag vals).vregs, vtags := (T.putField d m tag vals).vtags,
                                       queues := (T.putField d m tag vals).queues, accs := (T.putField d m tag vals).accs } := by
  unfold Team.putField
  split
  · rw [T.push_eq]
  · unfold Team.putVec
    rw [Team.putLanes_eq, (Team.passes_eq T d (T.groupsOf m) tag).1]

theorem Team.vecTeam_eq (T : Team) (m : Mask) (srcs : List Nat) (d : Nat) (rule : List (BitVec 4) → Except Nat (BitVec 4))
    (out : List (Nat × LaneRes)) :
    T.vecTeam m srcs d rule out = { T with vregs := (T.vecTeam m srcs d rule out).vregs, vtags := (T.vecTeam m srcs d rule out).vtags,
                                           queues := (T.vecTeam m srcs d rule out).queues, gens := (T.vecTeam m srcs d rule out).gens,
                                           accs := (T.vecTeam m srcs d rule out).accs } := by
  unfold Team.vecTeam
  rw [Team.putGens_eq, Team.putField_eq, Team.popAll_eq]

/-- What every active lane of a vector word produces. -/
def Team.laneRes (T : Team) (m : Mask) (srcs : List Nat) (f : Nat → List (BitVec 4) → List W32 → LaneRes) (l : Nat) : LaneRes :=
  f l (srcs.map (fun x => T.fieldTag m x (l / T.gw))) (srcs.map (fun x => T.field x l))

theorem vecEffect_spec (s : State) (ha : Issues s) (srcs : List Nat) (d : Nat) (hs : ∀ f ∈ srcs, f < 128) (hd : d < 128)
    (rule : List (BitVec 4) → Except Nat (BitVec 4)) (tag : Nat → BitVec 4) (ht : TagsPass s srcs rule tag)
    (f : Nat → List (BitVec 4) → List W32 → LaneRes) :
    VecResult s (s.vecEffect srcs d rule f) srcs d tag (s.mine.laneRes s.me.mask srcs f) := by
  have hout : s.mine.laneOut s.me.mask srcs f = (s.mine.lanesOf s.me.mask).map (fun l => (l, s.mine.laneRes s.me.mask srcs f l)) := rfl
  have hnd := s.mine.lanesOf_nodup s.me.mask
  have hla (l : Nat) := mem_lanesOf_active s l
  have hga (g : Nat) := mem_groupsOf_active s g
  have hlt : ∀ l ∈ s.mine.lanesOf s.me.mask, l < 1024 := fun l hl => lane_lt ((hla l).mp hl).2
  have hq8 : ∀ q ∈ portsOf srcs, q < 8 := fun q hq => by have := hs _ ((mem_portsOf _ _).mp hq); omega
  generalize hO : s.mine.laneRes s.me.mask srcs f = out at hout
  have e : s.vecEffect srcs d rule f = ((s.onMine (fun T => T.vecTeam s.me.mask srcs d rule (s.mine.laneOut s.me.mask srcs f))).onMyStream
      (fun m => m.orFlags (allFlags (s.mine.laneOut s.me.mask srcs f)))).onStrand s.cur Strand.advance := rfl
  obtain ⟨h1, h2, h3, h4⟩ := ownResult s ha (fun T => T.vecTeam s.me.mask srcs d rule (s.mine.laneOut s.me.mask srcs f))
    (by rw [Team.vecTeam_eq]; exact ⟨rfl, rfl, rfl, rfl, rfl⟩)
    (fun m => m.orFlags (allFlags (s.mine.laneOut s.me.mask srcs f))) rfl Strand.advance
  rw [← e] at h1 h2 h3 h4
  generalize s.vecEffect srcs d rule f = t at h1 h2 h3 h4
  simp only [hout] at h3 h4
  have hmap : ((s.mine.lanesOf s.me.mask).map (fun l => (l, out l))).map (fun p => (p.1, p.2.v))
      = (s.mine.lanesOf s.me.mask).map (fun l => (l, (out l).v)) := by rw [List.map_map]; rfl
  -- the team after the write, before the generators
  generalize hV : s.mine.vecTeam s.me.mask srcs d rule ((s.mine.lanesOf s.me.mask).map (fun l => (l, out l))) = V at h3
  have hV' := hV
  unfold Team.vecTeam at hV'
  rw [hmap] at hV'
  generalize hP : s.mine.popAll srcs s.me.mask = P at hV'
  generalize hF : P.putField d s.me.mask (s.mine.resTag s.me.mask srcs rule) ((s.mine.lanesOf s.me.mask).map (fun l => (l, (out l).v))) = F at hV'
  have eP : P = { s.mine with queues := P.queues } := by rw [← hP]; exact Team.popAll_eq _ _ _
  have eV : V = { F with gens := V.gens } := by rw [← hV']; exact Team.putGens_eq _ _
  have eF : F = { P with vregs := F.vregs, vtags := F.vtags, queues := F.queues, accs := F.accs } := by rw [← hF]; exact Team.putField_eq _ _ _ _ _
  have vrs (r l : Nat) : t.mine.vr r l = F.vr r l := by
    have a : t.mine.vregs = F.vregs := by rw [h3, eV]
    unfold Team.vr; rw [a]
  have vtgs (r g : Nat) : t.mine.vtag r g = F.vtag r g := by
    have a : t.mine.vtags = F.vtags := by rw [h3, eV]
    unfold Team.vtag; rw [a]
  have qs (q l : Nat) : t.mine.queue q l = F.queue q l := by
    have a : t.mine.queues = F.queues := by rw [h3, eV]
    unfold Team.queue; rw [a]
  have Pvr (r l : Nat) : P.vr r l = s.mine.vr r l := by rw [eP]; rfl
  have Pvt (r g : Nat) : P.vtag r g = s.mine.vtag r g := by rw [eP]; rfl
  have Plan : P.lanesOf s.me.mask = s.mine.lanesOf s.me.mask := by rw [eP]; rfl
  have Pgrp : P.groupsOf s.me.mask = s.mine.groupsOf s.me.mask := by rw [eP]; rfl
  have Pqt (q : Nat) : P.qtag q = s.mine.qtag q := by rw [eP]; rfl
  have Pq (q l : Nat) (hq : q < 8) : P.queue q l = if 120 + q ∈ srcs ∧ Active s l then (s.mine.queue q l).tail else s.mine.queue q l := by
    rw [← hP]; unfold Team.popAll
    rw [Team.queue_pops _ _ hq8 (nub_nodup _) _ _ _ hq]
    simp only [mem_portsOf, hla]
  -- the registers and tags of F
  have Fvr (r l : Nat) (hl : l < 1024) : F.vr r l = if d < 120 ∧ r = d ∧ Active s l then (out l).v else s.mine.vr r l := by
    rw [← hF]; unfold Team.putField
    by_cases hd' : 120 ≤ d
    · rw [if_pos (by simpa [isPort] using hd'), Team.push_eq, if_neg (by omega)]; exact Pvr r l
    · rw [if_neg (by simpa [isPort] using hd')]
      unfold Team.putVec
      rw [Team.vr_putLanes _ _ _ _ hlt _ _ hl, (Team.passes_eq P d _ _).1]
      simp only [hla]
      by_cases c : r = d ∧ Active s l
      · rw [if_pos c, if_pos ⟨by omega, c⟩]
      · rw [if_neg c, if_neg (fun x => c x.2)]; exact Pvr r l
  have Fvt (r g : Nat) (hg : g < 64) : F.vtag r g =
      if d < 120 ∧ g ∈ s.mine.groupsOf s.me.mask then (if r = d then tag g else if r = partner d ∧ s.mine.vtag r g = tRef then tRaw else s.mine.vtag r g)
      else s.mine.vtag r g := by
    rw [← hF]; unfold Team.putField
    by_cases hd' : 120 ≤ d
    · rw [if_pos (by simpa [isPort] using hd'), Team.push_eq, if_neg (by omega)]; exact Pvt r g
    · rw [if_neg (by simpa [isPort] using hd')]
      unfold Team.putVec
      have a : ∀ (U : Team), (U.putLanes d ((s.mine.lanesOf s.me.mask).map (fun l => (l, (out l).v)))).vtag r g = U.vtag r g := by
        intro U; rw [Team.putLanes_eq]; rfl
      rw [a, Pgrp, Team.vtag_passes _ _ _ _ (fun g hg => group_lt hg) _ _ hg]
      simp only [Pvt]
      by_cases c : g ∈ s.mine.groupsOf s.me.mask
      · rw [if_pos c, if_pos (show d < 120 ∧ g ∈ s.mine.groupsOf s.me.mask from ⟨by omega, c⟩), resTag_of ht ((hga g).mp c)]
      · rw [if_neg c, if_neg (fun x => c x.2)]
  have Fq (q l : Nat) (hq : q < 8) : F.queue q l = if d = 120 + q ∧ Active s l then
      P.queue q l ++ [{ val := some (out l).v, tag := s.mine.qtag q, op := 0, drop := false }] else P.queue q l := by
    rw [← hF]; unfold Team.putField
    by_cases hd' : 120 ≤ d
    · rw [if_pos (by simpa [isPort] using hd'), Team.queue_push _ _ _ _ hnd (by omega) _ _ hq]
      simp only [hla]
      by_cases c : q = d - 120 ∧ Active s l
      · rw [if_pos c, if_pos (show d = 120 + q ∧ Active s l from ⟨by omega, c.2⟩), Pqt, c.1]
      · rw [if_neg c, if_neg (fun x => c ⟨by omega, x.2⟩)]
    · rw [if_neg (by simpa [isPort] using hd'), if_neg (by omega)]
      unfold Team.putVec
      rw [Team.putLanes_eq, (Team.passes_eq P d _ _).1]; rfl
  constructor
  · intro hd l hl
    rw [vrs, Fvr d l (lane_lt hl.2), if_pos ⟨hd, rfl, hl⟩]
  · intro l hl hn
    rw [vrs, Fvr d l hl, if_neg (fun x => hn x.2.2)]
  · intro r l hl hr
    rw [vrs, Fvr r l hl, if_neg (fun x => hr x.2.1)]
  · intro hd g hg
    rw [vtgs, Fvt d g (group_lt ((hga g).mpr hg)), if_pos ⟨hd, (hga g).mpr hg⟩, if_pos rfl]
  · intro hd g hg hr
    rw [vtgs, Fvt _ g (group_lt ((hga g).mpr hg)), if_pos ⟨hd, (hga g).mpr hg⟩, if_neg (partner_ne d), if_pos ⟨rfl, hr⟩]
  · intro r g hg hn
    rw [vtgs, Fvt r g hg]
    split
    · rename_i c
      rw [if_neg (fun x => hn ⟨c.1, (hga g).mp c.2, .inl x⟩), if_neg (fun x => hn ⟨c.1, (hga g).mp c.2, .inr x⟩)]
    · rfl
  · intro q l hq
    rw [qs, Fq q l hq, Pq q l hq]
    by_cases ha : Active s l
    · have ha := eq_true ha
      by_cases h1 : 120 + q ∈ srcs <;> by_cases h2 : d = 120 + q <;> simp only [ha, h1, h2, and_true, if_true, if_false, List.append_nil]
    · have ha := eq_false ha
      simp only [ha, and_false, if_false]
  · intro l hl
    have a : t.mine.gen l = V.gen l := by
      have : t.mine.gens = V.gens := by rw [h3]
      unfold Team.gen; rw [this]
    have b : F.gen l = s.mine.gen l := by rw [eF, eP]; rfl
    rw [a, ← hV', Team.gen_putGens, b]
    simp only [hla]
  · intro i
    have a : t.myStream.fpflags = s.myStream.fpflags ||| allFlags ((s.mine.lanesOf s.me.mask).map (fun l => (l, out l))) := by rw [h4]; rfl
    rw [a, BitVec.getLsbD_or, Bool.or_eq_true, allFlags_bit]
    simp only [hla]
  · exact h1
  · rw [h4]; rfl
  · have a : t.mine.accs = F.accs := by rw [h3, eV]
    rw [a, ← hF]; unfold Team.putField
    have b : P.accs = s.mine.accs := by rw [eP]
    split
    · rw [Team.push_eq, ← b]
    · unfold Team.putVec
      rw [Team.putLanes_eq]
      have c := (Team.passes_eq P d (P.groupsOf s.me.mask) (s.mine.resTag s.me.mask srcs rule)).2
      rw [← b]; exact c
  · rw [h3, eV, eF, eP]
  · exact h2

/-! Predicates. -/

theorem maskOf_bit (ls : List Nat) (i : Nat) : (maskOf ls).getLsbD i = true ↔ i < 1024 ∧ i ∈ ls := by
  have g : ∀ (m : Mask), (ls.foldl (fun m l => m ||| BitVec.ofNat 1024 (2 ^ l)) m).getLsbD i = true ↔
      (m.getLsbD i = true ∨ (i < 1024 ∧ i ∈ ls)) := by
    induction ls with
    | nil => simp
    | cons l rest ih =>
      intro m
      rw [List.foldl_cons, ih, BitVec.getLsbD_or, Bool.or_eq_true, BitVec.getLsbD_ofNat, Nat.testBit_two_pow]
      simp only [Bool.and_eq_true, decide_eq_true_eq, List.mem_cons]
      constructor
      · rintro ((h | ⟨h, rfl⟩) | ⟨h, k⟩)
        · exact .inl h
        · exact .inr ⟨h, .inl rfl⟩
        · exact .inr ⟨h, .inr k⟩
      · rintro (h | ⟨h, rfl | k⟩)
        · exact .inl (.inl h)
        · exact .inl (.inr ⟨h, rfl⟩)
        · exact .inr ⟨h, k⟩
  have := g 0
  unfold maskOf
  rw [this]
  simp

theorem Team.pred_setPred (T : Team) (p q : BitVec 3) (m v : Mask) :
    (T.setPred p m v).pred q = if q = p ∧ p ≠ 0 then (T.pred p &&& ~~~m) ||| (v &&& m) else T.pred q := by
  unfold Team.setPred
  by_cases h0 : p = 0
  · rw [if_pos h0, if_neg (fun x => x.2 h0)]
  · rw [if_neg h0]
    by_cases c : q = p
    · subst c
      rw [if_pos ⟨rfl, h0⟩]
      show (if q = 0 then _ else SMap.get 0 (SMap.set 0 T.preds q.toNat _) q.toNat) = _
      rw [if_neg h0, SMap.get_set_same]
    · rw [if_neg (fun x => c x.1)]
      have e : ¬ q.toNat = p.toNat := fun x => c (BitVec.eq_of_toNat_eq x)
      show (if q = 0 then firstLanes T.lanes else SMap.get 0 (SMap.set 0 T.preds p.toNat _) q.toNat) = T.pred q
      rw [SMap.get_set_ne _ _ _ _ _ e]
      rfl

theorem Team.setPred_eq (T : Team) (p : BitVec 3) (m v : Mask) : T.setPred p m v = { T with preds := (T.setPred p m v).preds } := by
  unfold Team.setPred; split <;> rfl

/-- A predicate word's effect: pops, the bits, flags, the advance. -/
theorem predEffect_spec (s : State) (srcs : List Nat) (hs : ∀ f ∈ srcs, f < 128) (pd : BitVec 3) (bits : Mask)
    (k : Stream → Stream) (fl : Nat → Flags)
    (hk : ∀ i, (k s.myStream).fpflags.getLsbD i = true ↔ (s.myStream.fpflags.getLsbD i = true ∨ ∃ l, Active s l ∧ (fl l).getLsbD i = true))
    (hk2 : k s.myStream = { s.myStream with fpflags := (k s.myStream).fpflags })
    (bit : Nat → Bool) (hb : ∀ l, Active s l → bits.getLsbD l = bit l) (t : State)
    (ht : t.me = s.me.advance ∧ OnlyMine s t
      ∧ t.mine = { (s.mine.popAll srcs s.me.mask).setPred pd s.me.mask bits with cs := t.mine.cs, as := t.mine.as }
      ∧ t.myStream = { k s.myStream with root := t.myStream.root }) : PredResult s t srcs pd bit fl := by
  obtain ⟨h1, h2, h3, h4⟩ := ht
  have hq8 : ∀ q ∈ portsOf srcs, q < 8 := fun q hq => by have := hs _ ((mem_portsOf _ _).mp hq); omega
  generalize hP : s.mine.popAll srcs s.me.mask = P at h3
  have eP : P = { s.mine with queues := P.queues } := by rw [← hP]; exact Team.popAll_eq _ _ _
  have Pp (p : BitVec 3) : P.pred p = s.mine.pred p := by rw [eP]; rfl
  have pr (p : BitVec 3) : t.mine.pred p = (P.setPred pd s.me.mask bits).pred p := by rw [h3]; rfl
  refine ⟨?_, ?_, ?_, ?_, ?_, h1, ?_, ?_, h2⟩
  · intro h0 l hl
    rw [pr, Team.pred_setPred, if_pos ⟨rfl, h0⟩, BitVec.getLsbD_or, BitVec.getLsbD_and, BitVec.getLsbD_and, BitVec.getLsbD_not]
    simp [hl.2, hb l hl]
  · intro l hn hl
    have hm : s.me.mask.getLsbD l = false := by
      rw [← Bool.not_eq_true]; exact fun h => hn ⟨hl, h⟩
    rw [pr, Team.pred_setPred]
    split
    · rw [BitVec.getLsbD_or, BitVec.getLsbD_and, BitVec.getLsbD_and, BitVec.getLsbD_not, Pp]
      rw [hm, Bool.not_false, Bool.and_true, Bool.and_false, Bool.or_false]
      by_cases hl2 : l < 1024
      · rw [decide_eq_true hl2, Bool.and_true]
      · rw [BitVec.getLsbD_of_ge _ l (by omega), Bool.false_and]
    · rw [Pp]
  · intro p hp
    rw [pr, Team.pred_setPred, if_neg, Pp]
    rintro ⟨rfl, h⟩
    rcases hp with x | x
    · exact x rfl
    · exact h x
  · intro q l hq
    have a : t.mine.queue q l = P.queue q l := by
      have : t.mine.queues = P.queues := by rw [h3, Team.setPred_eq]
      unfold Team.queue; rw [this]
    rw [a, ← hP]; unfold Team.popAll
    rw [Team.queue_pops _ _ hq8 (nub_nodup _) _ _ _ hq]
    simp only [mem_portsOf, mem_lanesOf_active]
    rw [if_neg (show ¬ 0 = 120 + q by omega)]
    by_cases ha : Active s l
    · have ha := eq_true ha
      by_cases h1 : 120 + q ∈ srcs <;> simp only [ha, h1, and_true, if_true, if_false, List.append_nil]
    · have ha := eq_false ha
      simp only [ha, and_false, if_false]
  · intro i
    have a : t.myStream.fpflags = (k s.myStream).fpflags := by rw [h4]
    rw [a, hk]
  · have a : t.myStream.fpflags = (k s.myStream).fpflags := by rw [h4]
    rw [a]
    conv => lhs; rw [h4, hk2]
  · rw [h3, Team.setPred_eq, eP]

theorem predWord_spec (s : State) (ha : Issues s) (srcs : List Nat) (hs : ∀ f ∈ srcs, f < 128) (pd : BitVec 3)
    (rule : List (BitVec 4) → Except Nat (BitVec 4)) (tag : Nat → BitVec 4) (h : VecReady s srcs []) (ht : TagsPass s srcs rule tag)
    (f : Nat → List (BitVec 4) → List W32 → Bool × Flags) :
    ∃ t, predWord s srcs pd rule f = .ok t ∧ PredResult s t srcs pd
      (fun l => (f l (srcs.map (fun x => s.mine.fieldTag s.me.mask x (l / s.mine.gw))) (srcs.map (fun x => s.mine.field x l))).1)
      (fun l => (f l (srcs.map (fun x => s.mine.fieldTag s.me.mask x (l / s.mine.gw))) (srcs.map (fun x => s.mine.field x l))).2) := by
  unfold predWord predChecks
  rw [beginVec_ok h, ok_bind, tagChecks_ok ht, ok_bind]
  refine ⟨_, rfl, ?_⟩
  let g (l : Nat) := f l (srcs.map (fun x => s.mine.fieldTag s.me.mask x (l / s.mine.gw))) (srcs.map (fun x => s.mine.field x l))
  let res (l : Nat) : LaneRes := { v := BitVec.ofNat 32 (bit1 (g l).1), fl := (g l).2, gen := none }
  have hout : s.mine.laneOut s.me.mask srcs (fun l ts vs => { v := BitVec.ofNat 32 (bit1 (f l ts vs).1), fl := (f l ts vs).2, gen := none })
      = (s.mine.lanesOf s.me.mask).map (fun l => (l, res l)) := rfl
  simp only [hout]
  refine predEffect_spec s srcs hs pd _ (fun m => m.orFlags (allFlags ((s.mine.lanesOf s.me.mask).map (fun l => (l, res l))))) _ ?_ rfl _ ?_ _
    (ownResult s ha (fun _ => (s.mine.popAll srcs s.me.mask).setPred pd s.me.mask _) ?_
      (fun m => m.orFlags (allFlags ((s.mine.lanesOf s.me.mask).map (fun l => (l, res l))))) rfl Strand.advance)
  · intro i
    show (s.myStream.fpflags ||| _).getLsbD i = true ↔ _
    rw [BitVec.getLsbD_or, Bool.or_eq_true, allFlags_bit]
    simp only [mem_lanesOf_active]
    rfl
  · intro l hl
    rw [Bool.eq_iff_iff, maskOf_bit]
    constructor
    · rintro ⟨_, hm⟩
      obtain ⟨p, hp, rfl⟩ := List.mem_map.mp hm
      rw [List.mem_filter] at hp
      obtain ⟨k, _, rfl⟩ := List.mem_map.mp hp.1
      have := hp.2
      show (g k).1 = true
      by_cases c : (g k).1 = true
      · exact c
      · simp [res, bit1, c] at this
    · intro hb
      refine ⟨lane_lt hl.2, List.mem_map.mpr ⟨(l, res l), ?_, rfl⟩⟩
      rw [List.mem_filter]
      refine ⟨List.mem_map.mpr ⟨l, (mem_lanesOf_active s l).mpr hl, rfl⟩, ?_⟩
      have hb : (g l).1 = true := hb
      simp [res, bit1, hb]
  · rw [Team.setPred_eq, Team.popAll_eq]; exact ⟨rfl, rfl, rfl, rfl, rfl⟩

end Sys2Proof.Machine
end

