-- ==== Sys2Proof/Laws/Elements.lean ====
section
/-! SUPPORT. The elements of a lane: packing, the element loop, the tag rules, and the lanes of an element word. -/

namespace Sys2Proof.Machine

open Claims

/-! Packing. -/

def packNat (w : Nat) (l : List Nat) : Nat := l.foldr (fun c acc => c % 2 ^ w + 2 ^ w * acc) 0

theorem packNat_lt (w : Nat) (l : List Nat) : packNat w l < 2 ^ (w * l.length) := by
  induction l with
  | nil => simp [packNat]
  | cons c rest ih =>
    have h1 : c % 2 ^ w < 2 ^ w := Nat.mod_lt _ (Nat.two_pow_pos w)
    have e : packNat w (c :: rest) = c % 2 ^ w + 2 ^ w * packNat w rest := rfl
    rw [e, List.length_cons, Nat.mul_add, Nat.mul_one, Nat.pow_add]
    have h2 : packNat w rest + 1 ≤ 2 ^ (w * rest.length) := ih
    have h3 := Nat.mul_le_mul_left (2 ^ w) h2
    rw [Nat.mul_add, Nat.mul_one] at h3
    rw [Nat.mul_comm (2 ^ (w * rest.length))]
    omega

theorem packNat_elem (w : Nat) (l : List Nat) (i : Nat) (h : i < l.length) : packNat w l / 2 ^ (w * i) % 2 ^ w = l[i] % 2 ^ w := by
  induction l generalizing i with
  | nil => simp at h
  | cons c rest ih =>
    have e : packNat w (c :: rest) = c % 2 ^ w + 2 ^ w * packNat w rest := rfl
    have hp := Nat.two_pow_pos w
    cases i with
    | zero => simp [e]
    | succ i =>
      have h' : i < rest.length := by simpa using h
      have hd : packNat w (c :: rest) / 2 ^ (w * (i + 1)) = packNat w rest / 2 ^ (w * i) := by
        rw [Nat.mul_add, Nat.mul_one, Nat.add_comm, Nat.pow_add, ← Nat.div_div_eq_div_mul, e, Nat.add_mul_div_left _ _ hp,
          Nat.div_eq_of_lt (Nat.mod_lt _ hp), Nat.zero_add]
      rw [hd, ih i h']
      rfl

theorem elem_packElems (w : Nat) (l : List Nat) (i : Nat) (h : i < l.length) (hw : w * l.length ≤ 32) : elem w (packElems w l) i = l[i] % 2 ^ w := by
  unfold elem packElems
  have hlt : packNat w l < 2 ^ 32 := Nat.lt_of_lt_of_le (packNat_lt w l) (Nat.pow_le_pow_right (by omega) hw)
  have : (BitVec.ofNat 32 (l.foldr (fun c acc => c % 2 ^ w + 2 ^ w * acc) 0)).toNat = packNat w l := by
    rw [BitVec.toNat_ofNat]; exact Nat.mod_eq_of_lt hlt
  rw [this, packNat_elem w l i h]

/-! The element loop. -/

/-- The generator as element k of a loop finds it, after its own step. -/
def genAt (sr : Bool) (k : Nat) (g : W64) : W64 := if sr then Nat.repeat genStep (k + 1) g else g

theorem repeat_succ' (n : Nat) (g : W64) : Nat.repeat genStep (n + 1) g = Nat.repeat genStep n (genStep g) := by
  induction n generalizing g with
  | zero => rfl
  | succ n ih => show genStep (Nat.repeat genStep (n + 1) g) = _; rw [ih]; rfl

theorem elemLoop_length (sr : Bool) (f : Nat → Nat → Nat × Flags) (is : List Nat) (g : W64) : (elemLoop sr f is g).1.length = is.length := by
  induction is generalizing g with
  | nil => rfl
  | cons i rest ih => simp [elemLoop, ih]

theorem elemLoop_get (sr : Bool) (f : Nat → Nat → Nat × Flags) (is : List Nat) (g : W64) (k : Nat) (h : k < is.length)
    (h' : k < (elemLoop sr f is g).1.length) :
    (elemLoop sr f is g).1[k] = (f is[k] ((genAt sr k g).toNat % 65536)).1 := by
  induction is generalizing g k with
  | nil => simp at h
  | cons i rest ih =>
    cases k with
    | zero => cases sr <;> rfl
    | succ k =>
      have hk : k < rest.length := by simpa using h
      have hk' : k < (elemLoop sr f rest (if sr then genStep g else g)).1.length := by rw [elemLoop_length]; exact hk
      have e : (elemLoop sr f (i :: rest) g).1[k + 1] = (elemLoop sr f rest (if sr then genStep g else g)).1[k] := rfl
      rw [e, ih _ k hk hk']
      cases sr
      · rfl
      · simp only [genAt, if_true, List.getElem_cons_succ]
        rw [repeat_succ' (k + 1) g]

theorem elemLoop_flags (sr : Bool) (f : Nat → Nat → Nat × Flags) (is : List Nat) (g : W64) (b : Nat) :
    (elemLoop sr f is g).2.1.getLsbD b = true ↔ ∃ k, ∃ h : k < is.length, (f is[k] ((genAt sr k g).toNat % 65536)).2.getLsbD b = true := by
  induction is generalizing g with
  | nil => simp [elemLoop]
  | cons i rest ih =>
    have e : (elemLoop sr f (i :: rest) g).2.1 = (f i ((if sr then genStep g else g).toNat % 65536)).2
        ||| (elemLoop sr f rest (if sr then genStep g else g)).2.1 := rfl
    rw [e, BitVec.getLsbD_or, Bool.or_eq_true, ih]
    constructor
    · rintro (h | ⟨k, hk, h⟩)
      · refine ⟨0, by simp, ?_⟩
        cases sr <;> exact h
      · refine ⟨k + 1, by simpa using hk, ?_⟩
        cases sr
        · exact h
        · simp only [genAt, if_true, List.getElem_cons_succ] at h ⊢
          rw [repeat_succ' (k + 1) g]; exact h
    · rintro ⟨k, hk, h⟩
      cases k with
      | zero => left; cases sr <;> exact h
      | succ k =>
        right
        refine ⟨k, by simpa using hk, ?_⟩
        cases sr
        · exact h
        · simp only [genAt, if_true, List.getElem_cons_succ] at h ⊢
          rw [repeat_succ' (k + 1) g] at h; exact h

theorem elemLoop_gen (f : Nat → Nat → Nat × Flags) (is : List Nat) (g : W64) : (elemLoop true f is g).2.2 = Nat.repeat genStep is.length g := by
  induction is generalizing g with
  | nil => rfl
  | cons i rest ih =>
    have e : (elemLoop true f (i :: rest) g).2.2 = (elemLoop true f rest (genStep g)).2.2 := rfl
    rw [e, ih, List.length_cons, repeat_succ']

theorem elemRes_elem (w n : Nat) (sr : Bool) (g : W64) (f : Nat → Nat → Nat × Flags) (hw : w * n ≤ 32) (i : Nat) (h : i < n) :
    elem w (elemRes w n sr g f).v i = (f i ((genAt sr i g).toNat % 65536)).1 % 2 ^ w := by
  have hl : (elemLoop sr f (List.range n) g).1.length = n := by rw [elemLoop_length, List.length_range]
  show elem w (packElems w (elemLoop sr f (List.range n) g).1) i = _
  rw [elem_packElems _ _ _ (by omega) (by rw [hl]; exact hw), elemLoop_get _ _ _ _ _ (by simpa using h)]
  simp

theorem elemRes_flags (w n : Nat) (sr : Bool) (g : W64) (f : Nat → Nat → Nat × Flags) (b : Nat) :
    (elemRes w n sr g f).fl.getLsbD b = true ↔ ∃ i, i < n ∧ (f i ((genAt sr i g).toNat % 65536)).2.getLsbD b = true := by
  show (elemLoop sr f (List.range n) g).2.1.getLsbD b = true ↔ _
  rw [elemLoop_flags]
  constructor
  · rintro ⟨k, hk, h⟩
    have hk' : k < n := by simpa using hk
    exact ⟨k, hk', by simpa using h⟩
  · rintro ⟨k, hk, h⟩
    exact ⟨k, by simpa using hk, by simpa using h⟩

theorem elemRes_gen (w n : Nat) (g : W64) (f : Nat → Nat → Nat × Flags) : (elemRes w n true g f).gen = some (Nat.repeat genStep n g) := by
  show some (elemLoop true f (List.range n) g).2.2 = _
  rw [elemLoop_gen, List.length_range]

/-! The loop of a conversion, which computes some elements and keeps the others. -/

/-- How many of the first k elements of a loop are computed. -/
def pickCount (pick : Nat → Option Nat) (es : List Nat) (k : Nat) : Nat := ((es.take k).filter (fun i => (pick i).isSome)).length

/-- The generator that a conversion's element finds after its own step. -/
def genPart (sr : Bool) (k : Nat) (g : W64) : W64 := if sr then Nat.repeat genStep k g else g

theorem partLoop_length (sr : Bool) (f : Nat → Nat → Nat × Flags) (pick : Nat → Option Nat) (keep : Nat → Nat) (es : List Nat) (g : W64) :
    (partLoop sr f pick keep es g).1.length = es.length := by
  induction es generalizing g with
  | nil => rfl
  | cons e rest ih => unfold partLoop; split <;> simp [ih]

theorem partLoop_get (sr : Bool) (f : Nat → Nat → Nat × Flags) (pick : Nat → Option Nat) (keep : Nat → Nat) (es : List Nat) (g : W64) (j : Nat)
    (h : j < es.length) (h' : j < (partLoop sr f pick keep es g).1.length) :
    (partLoop sr f pick keep es g).1[j] = match pick es[j] with
      | some k => (f k ((genPart sr (pickCount pick es (j + 1)) g).toNat % 65536)).1
      | none => keep es[j] := by
  induction es generalizing g j with
  | nil => simp at h
  | cons e rest ih =>
    cases hp : pick e with
    | none =>
      have e1 : partLoop sr f pick keep (e :: rest) g = (keep e :: (partLoop sr f pick keep rest g).1, (partLoop sr f pick keep rest g).2) := by
        conv => lhs; unfold partLoop
        rw [hp]
      have e2 (k : Nat) : pickCount pick (e :: rest) (k + 1) = pickCount pick rest k := by simp [pickCount, hp]
      cases j with
      | zero => simp [e1, hp]
      | succ j =>
        have hj : j < rest.length := by simpa using h
        have hj' : j < (partLoop sr f pick keep rest g).1.length := by rw [partLoop_length]; exact hj
        simp only [e1, List.getElem_cons_succ]
        rw [ih g j hj hj', e2]
    | some k0 =>
      have e1 : (partLoop sr f pick keep (e :: rest) g).1 = (f k0 ((if sr then genStep g else g).toNat % 65536)).1
          :: (partLoop sr f pick keep rest (if sr then genStep g else g)).1 := by
        conv => lhs; unfold partLoop
        rw [hp]
      have e2 (k : Nat) : pickCount pick (e :: rest) (k + 1) = pickCount pick rest k + 1 := by simp [pickCount, hp]
      cases j with
      | zero =>
        simp only [e1, List.getElem_cons_zero, hp]
        cases sr
        · rfl
        · simp only [genPart, if_true]
          have : pickCount pick (e :: rest) (0 + 1) = 1 := by rw [e2]; simp [pickCount]
          rw [this]; rfl
      | succ j =>
        have hj : j < rest.length := by simpa using h
        have hj' : j < (partLoop sr f pick keep rest (if sr then genStep g else g)).1.length := by rw [partLoop_length]; exact hj
        simp only [e1, List.getElem_cons_succ]
        rw [ih _ j hj hj', e2]
        cases sr
        · rfl
        · simp only [genPart, if_true]
          rw [repeat_succ' _ g]

theorem partLoop_flags (sr : Bool) (f : Nat → Nat → Nat × Flags) (pick : Nat → Option Nat) (keep : Nat → Nat) (es : List Nat) (g : W64) (b : Nat) :
    (partLoop sr f pick keep es g).2.1.getLsbD b = true ↔ ∃ j k, ∃ h : j < es.length, pick es[j] = some k
      ∧ (f k ((genPart sr (pickCount pick es (j + 1)) g).toNat % 65536)).2.getLsbD b = true := by
  induction es generalizing g with
  | nil => simp [partLoop]
  | cons e rest ih =>
    cases hp : pick e with
    | none =>
      have e1 : (partLoop sr f pick keep (e :: rest) g).2.1 = (partLoop sr f pick keep rest g).2.1 := by
        conv => lhs; unfold partLoop
        rw [hp]
      have e2 (k : Nat) : pickCount pick (e :: rest) (k + 1) = pickCount pick rest k := by simp [pickCount, hp]
      rw [e1, ih]
      constructor
      · rintro ⟨j, k, h, h1, h2⟩
        exact ⟨j + 1, k, by simpa using h, h1, by rw [e2]; exact h2⟩
      · rintro ⟨j, k, h, h1, h2⟩
        cases j with
        | zero => simp [hp] at h1
        | succ j => exact ⟨j, k, by simpa using h, h1, by rw [e2] at h2; exact h2⟩
    | some k0 =>
      have e1 : (partLoop sr f pick keep (e :: rest) g).2.1 = (f k0 ((if sr then genStep g else g).toNat % 65536)).2
          ||| (partLoop sr f pick keep rest (if sr then genStep g else g)).2.1 := by
        conv => lhs; unfold partLoop
        rw [hp]
      have e2 (k : Nat) : pickCount pick (e :: rest) (k + 1) = pickCount pick rest k + 1 := by simp [pickCount, hp]
      have e3 : genPart sr (pickCount pick (e :: rest) (0 + 1)) g = if sr then genStep g else g := by
        have : pickCount pick (e :: rest) (0 + 1) = 1 := by rw [e2]; simp [pickCount]
        rw [this]; cases sr <;> rfl
      have e4 (k : Nat) : genPart sr (pickCount pick (e :: rest) (k + 1)) g = genPart sr (pickCount pick rest k) (if sr then genStep g else g) := by
        rw [e2]; cases sr
        · rfl
        · simp only [genPart, if_true]; rw [repeat_succ' _ g]
      rw [e1, BitVec.getLsbD_or, Bool.or_eq_true, ih]
      constructor
      · rintro (h | ⟨j, k, h, h1, h2⟩)
        · exact ⟨0, k0, by simp, hp, by rw [e3]; exact h⟩
        · exact ⟨j + 1, k, by simpa using h, h1, by rw [e4]; exact h2⟩
      · rintro ⟨j, k, h, h1, h2⟩
        cases j with
        | zero =>
          left
          have hk : k = k0 := by simp [hp] at h1; exact h1.symm
          rw [e3, hk] at h2; exact h2
        | succ j =>
          right
          exact ⟨j, k, by simpa using h, h1, by rw [e4] at h2; exact h2⟩

theorem partLoop_gen (f : Nat → Nat → Nat × Flags) (pick : Nat → Option Nat) (keep : Nat → Nat) (es : List Nat) (g : W64) :
    (partLoop true f pick keep es g).2.2 = Nat.repeat genStep (pickCount pick es es.length) g := by
  induction es generalizing g with
  | nil => rfl
  | cons e rest ih =>
    cases hp : pick e with
    | none =>
      have e1 : (partLoop true f pick keep (e :: rest) g).2.2 = (partLoop true f pick keep rest g).2.2 := by
        conv => lhs; unfold partLoop
        rw [hp]
      have e2 : pickCount pick (e :: rest) (e :: rest).length = pickCount pick rest rest.length := by simp [pickCount, hp]
      rw [e1, ih, e2]
    | some k0 =>
      have e1 : (partLoop true f pick keep (e :: rest) g).2.2 = (partLoop true f pick keep rest (genStep g)).2.2 := by
        conv => lhs; unfold partLoop
        rw [hp]; rfl
      have e2 : pickCount pick (e :: rest) (e :: rest).length = pickCount pick rest rest.length + 1 := by simp [pickCount, hp]
      rw [e1, ih, e2, repeat_succ' _ g]

/-- The elements of a tag fill no more than its register (03 Table 3-5). -/
theorem kindOf_fits (t : BitVec 4) :
    (∀ n I, kindOf t = .int n I → I.w * n ≤ 32 ∧ 0 < I.w) ∧ (∀ n F, kindOf t = .flt n F → F.width * n ≤ 32) := by
  have h : ∀ t : BitVec 4, (match kindOf t with
      | .int n I => decide (I.w * n ≤ 32) && decide (0 < I.w) | .flt n F => decide (F.width * n ≤ 32) | _ => true) = true := by decide
  have ht := h t
  refine ⟨fun n I e => ?_, fun n F e => ?_⟩ <;> rw [e] at ht
  · simpa using ht
  · simpa using ht

theorem narrow_lt (I : IFmt) (sat : Bool) (x : Int) : (I.narrow sat x).1 < 2 ^ I.w := by
  have h (y : Int) : I.wrap y < 2 ^ I.w := by
    unfold IFmt.wrap
    have hp : (0 : Int) < ((2 ^ I.w : Nat) : Int) := by exact_mod_cast Nat.two_pow_pos I.w
    have h1 := Int.emod_nonneg y (Int.ne_of_gt hp)
    have h2 := Int.emod_lt_of_pos y hp
    omega
  unfold IFmt.narrow; split <;> exact h _

/-! Tag rules. -/

theorem tagsPass_of {s : State} {srcs : List Nat} {tag : Nat → BitVec 4} (h : Tagged s srcs tag)
    (rule : List (BitVec 4) → Except Nat (BitVec 4)) (out : Nat → BitVec 4)
    (hr : ∀ g, ActiveGroup s g → rule (srcs.map (fun _ => tag g)) = .ok (out g)) : TagsPass s srcs rule out := by
  intro g hg
  rw [← hr g hg]
  congr 1
  apply List.map_congr_left
  intro f hf
  exact h f hf g hg

theorem ruleTyped_ok (ok : BitVec 4 → Bool) (t : BitVec 4) (srcs : List Nat) (hne : srcs ≠ []) (h : ok t = true) :
    ruleTyped ok (srcs.map (fun _ => t)) = .ok t := by
  cases srcs with
  | nil => exact absurd rfl hne
  | cons x xs =>
    unfold ruleTyped
    simp [h]

/-- An active lane lies in an active group. -/
theorem active_group {s : State} {l : Nat} (h : Active s l) : ActiveGroup s (l / s.mine.gw) := by
  refine ⟨?_, l, h.2, rfl⟩
  have hp := s.mine.gw_pos.1
  have h1 := h.1
  unfold Team.ngroups ceilDiv
  have e : s.mine.lanes + s.mine.gw - 1 = s.mine.lanes - 1 + s.mine.gw := by omega
  rw [e, Nat.add_div_right _ hp]
  have := Nat.div_le_div_right (c := s.mine.gw) (show l ≤ s.mine.lanes - 1 by omega)
  omega

/-- The tags and values that an active lane's result is computed from. -/
theorem laneRes_eq {s : State} {srcs : List Nat} {tag : Nat → BitVec 4} (h : Tagged s srcs tag)
    (f : Nat → List (BitVec 4) → List W32 → LaneRes) {l : Nat} (hl : Active s l) :
    s.mine.laneRes s.me.mask srcs f l = f l (srcs.map (fun _ => tag (l / s.mine.gw))) (srcs.map (fun x => s.mine.field x l)) := by
  unfold Team.laneRes
  congr 1
  apply List.map_congr_left
  intro x hx
  exact h x hx _ (active_group hl)

/-- What a vector word's result says depends on its active lanes alone. -/
theorem vecResult_congr {s t : State} {srcs : List Nat} {d : Nat} {tag : Nat → BitVec 4} {out out' : Nat → LaneRes}
    (h : VecResult s t srcs d tag out) (e : ∀ l, Active s l → out l = out' l) : VecResult s t srcs d tag out' := by
  refine ⟨fun hd l hl => by rw [h.value hd l hl, e l hl], h.idle, h.regs, h.typed, h.mate, h.tags, ?_, ?_, ?_, h.strand, h.stream, h.accs, h.team, h.rest⟩
  · intro q l hq
    rw [h.queues q l hq]
    split
    · rename_i hl; dsimp only; rw [e l hl]
    · rfl
  · intro l hl
    rw [h.gens l hl]
    split
    · rename_i ha; rw [e l ha]
    · rfl
  · intro i
    rw [h.flags i]
    constructor
    · rintro (h | ⟨l, hl, h⟩)
      · exact .inl h
      · exact .inr ⟨l, hl, by dsimp only; rw [← e l hl]; exact h⟩
    · rintro (h | ⟨l, hl, h⟩)
      · exact .inl h
      · exact .inr ⟨l, hl, by dsimp only; rw [e l hl]; exact h⟩

/-- A vector word completes with its effect. -/
theorem vecWord_gives {i : Instr} {s : State} {srcs : List Nat} {d : Nat} {rule : List (BitVec 4) → Except Nat (BitVec 4)}
    {f : Nat → List (BitVec 4) → List W32 → LaneRes} (ha : Issues s) (hs : ∀ f ∈ srcs, f < 128) (hd : d < 128)
    (hi : exec i s = finish s (vecWord s srcs d rule f)) {tag : Nat → BitVec 4}
    (h : VecReady s srcs [d]) (ht : TagsPass s srcs rule tag) (hp : PushTag s d tag) :
    Gives i s (fun t => VecResult s t srcs d tag (s.mine.laneRes s.me.mask srcs f)) :=
  ⟨_, by rw [hi, vecWord_ok f h ht hp]; rfl, vecEffect_spec s ha srcs d hs hd rule tag ht f⟩

end Sys2Proof.Machine
end

