-- ==== Sys2Proof/Laws/MemoryForm.lean ====
section
/-! SUPPORT. Every operation of the machine over the state keeps the canonical form of memory: one lemma each, which later proofs cite instead
of unfolding the operation. -/

namespace Sys2Proof.Machine

set_option linter.unusedVariables false

/-- The memory of a state is in its canonical form. -/
@[irreducible] def MemOk (s : State) : Prop := Memory.wf s.mem = true

/-! The same of every answer that may hold a state. -/

def OutOk (o : Out) : Prop := ∀ t, o = .next t → MemOk t
def ExcOk (e : Except Stop State) : Prop := ∀ t, e = .ok t → MemOk t
def ExcPairOk {ε α : Type} (e : Except ε (α × State)) : Prop := ∀ p, e = .ok p → MemOk p.2
def ExcTripleOk {ε α β : Type} (e : Except ε (α × β × State)) : Prop := ∀ p, e = .ok p → MemOk p.2.2
def OptOk (o : Option State) : Prop := ∀ t, o = some t → MemOk t
def OptPairOk {α : Type} (o : Option (α × State)) : Prop := ∀ p, o = some p → MemOk p.2
def TransOk (o : Trans) : Prop := ∀ pa t, o = .ok pa t → MemOk t
def SpotOk (o : SpotRes) : Prop := ∀ p t, o = .ok p t → MemOk t
def FetchOk (o : Fetched) : Prop := (∀ ws t, o = .ok ws t → MemOk t) ∧ ∀ pa t, o = .poisoned pa t → MemOk t
/-- The front end’s answer: a finished turn, or a word in a state. -/
def FrontOk (o : Front) : Prop := (∀ r, o = .done r → OutOk r) ∧ ∀ i t, o = .word i t → MemOk t

variable {s t : State}

/-! Each answer built, and taken apart. -/

theorem MemOk_iff : MemOk s = (Memory.wf s.mem = true) := by unfold MemOk; rfl
theorem MemOk.wf (h : MemOk s) : Memory.wf s.mem = true := MemOk_iff.mp h
theorem MemOk.of_mem (hm : t.mem = s.mem) (h : MemOk s) : MemOk t :=
  MemOk_iff.mpr (hm.symm ▸ h.wf)
theorem MemOk.of_wf (h : Memory.wf s.mem = true) : MemOk s := MemOk_iff.mpr h
theorem OutOk.next (h : MemOk s) : OutOk (.next s) := by rintro _ ⟨⟩; exact h
theorem OutOk.elim {o : Out} (he : o = .next t) (h : OutOk o) : MemOk t := h t he
theorem OutOk.fault (f : Fault) : OutOk (.fault f) := by rintro _ ⟨⟩
theorem ExcOk.ok (h : MemOk s) : ExcOk (.ok s) := by rintro _ ⟨⟩; exact h
theorem ExcOk.error (x : Stop) : ExcOk (.error x) := by rintro _ ⟨⟩
theorem ExcOk.elim {e : Except Stop State} (he : e = .ok t) (h : ExcOk e) : MemOk t := h t he
theorem ExcOk.bind {α : Type} {e : Except Stop α} {f : α → Except Stop State} (h : ∀ a, e = .ok a → ExcOk (f a)) : ExcOk (e >>= f) :=
  e.rec (motive := fun x => (∀ a, x = .ok a → ExcOk (f a)) → ExcOk (x >>= f)) (fun _ _ => by rintro _ ⟨⟩) (fun a k => k a rfl) h
theorem ExcPairOk.ok {ε α : Type} {a : α} (h : MemOk s) : ExcPairOk (.ok (a, s) : Except ε (α × State)) :=
  by rintro _ ⟨⟩; exact h
theorem ExcPairOk.error {ε α : Type} (x : ε) : ExcPairOk (.error x : Except ε (α × State)) := by rintro _ ⟨⟩
theorem ExcPairOk.elim {ε α : Type} {a : α} {e : Except ε (α × State)} (he : e = .ok (a, t)) (h : ExcPairOk e) : MemOk t :=
  h _ he
theorem ExcPairOk.bind {ε α β : Type} {e : Except ε β} {f : β → Except ε (α × State)} (h : ∀ b, e = .ok b → ExcPairOk (f b)) :
    ExcPairOk (e >>= f) :=
  e.rec (motive := fun x => (∀ b, x = .ok b → ExcPairOk (f b)) → ExcPairOk (x >>= f)) (fun _ _ => by rintro _ ⟨⟩) (fun b k => k b rfl) h
theorem ExcTripleOk.ok {ε α β : Type} {a : α} {b : β} (h : MemOk s) : ExcTripleOk (.ok (a, b, s) : Except ε (α × β × State)) :=
  by rintro _ ⟨⟩; exact h
theorem ExcTripleOk.error {ε α β : Type} (x : ε) : ExcTripleOk (.error x : Except ε (α × β × State)) := by rintro _ ⟨⟩
theorem ExcTripleOk.elim {ε α β : Type} {a : α} {b : β} {e : Except ε (α × β × State)} (he : e = .ok (a, b, t)) (h : ExcTripleOk e) : MemOk t :=
  h _ he
theorem ExcTripleOk.bind {ε α β γ : Type} {e : Except ε γ} {f : γ → Except ε (α × β × State)} (h : ∀ b, e = .ok b → ExcTripleOk (f b)) :
    ExcTripleOk (e >>= f) :=
  e.rec (motive := fun x => (∀ b, x = .ok b → ExcTripleOk (f b)) → ExcTripleOk (x >>= f)) (fun _ _ => by rintro _ ⟨⟩) (fun c k => k c rfl) h
theorem OptOk.none : OptOk none := by rintro _ ⟨⟩
theorem OptOk.some (h : MemOk s) : OptOk (some s) := by rintro _ ⟨⟩; exact h
theorem OptOk.elim {o : Option State} (he : o = .some t) (h : OptOk o) : MemOk t := h t he
theorem OptOk.getD {o : Option State} (h : OptOk o) (hs : MemOk s) : MemOk (o.getD s) :=
  o.rec (motive := fun x => OptOk x → MemOk (x.getD s)) (fun _ => hs) (fun t k => k t rfl) h
theorem OptPairOk.none {α : Type} : OptPairOk (none : Option (α × State)) := by rintro _ ⟨⟩
theorem OptPairOk.some {α : Type} {a : α} (h : MemOk s) : OptPairOk (some (a, s)) := by rintro _ ⟨⟩; exact h
theorem OptPairOk.elim {α : Type} {a : α} {o : Option (α × State)} (he : o = .some (a, t)) (h : OptPairOk o) : MemOk t :=
  h _ he
theorem TransOk.fail (d : Nat) : TransOk (.fail d) := by rintro _ _ ⟨⟩
theorem TransOk.ok {pa : Nat} (h : MemOk s) : TransOk (.ok pa s) := by rintro _ _ ⟨⟩; exact h
theorem TransOk.elim {o : Trans} {pa : Nat} (he : o = .ok pa t) (h : TransOk o) : MemOk t := h pa t he
theorem SpotOk.fail (a : W64) (d : Nat) : SpotOk (.fail a d) := by rintro _ _ ⟨⟩
theorem SpotOk.ok {p : Spot} (h : MemOk s) : SpotOk (.ok p s) := by rintro _ _ ⟨⟩; exact h
theorem SpotOk.elim {o : SpotRes} {p : Spot} (he : o = .ok p t) (h : SpotOk o) : MemOk t := h p t he
theorem FetchOk.ok {ws : List W32} (h : MemOk s) : FetchOk (.ok ws s) := ⟨by rintro _ _ ⟨⟩; exact h, by rintro _ _ ⟨⟩⟩
theorem FetchOk.poisoned {pa : Nat} (h : MemOk s) : FetchOk (.poisoned pa s) := ⟨by rintro _ _ ⟨⟩, by rintro _ _ ⟨⟩; exact h⟩
theorem FetchOk.outside : FetchOk .outside := ⟨by rintro _ _ ⟨⟩, by rintro _ _ ⟨⟩⟩
theorem FetchOk.unmapped : FetchOk .unmapped := ⟨by rintro _ _ ⟨⟩, by rintro _ _ ⟨⟩⟩
theorem FetchOk.elim {o : Fetched} {ws : List W32} (he : o = .ok ws t) (h : FetchOk o) : MemOk t := h.1 ws t he
theorem FetchOk.elimBad {o : Fetched} {pa : Nat} (he : o = .poisoned pa t) (h : FetchOk o) : MemOk t := h.2 pa t he
theorem FrontOk.done {r : Out} (h : OutOk r) : FrontOk (.done r) := ⟨by rintro _ ⟨⟩; exact h, by rintro _ _ ⟨⟩⟩
theorem FrontOk.word {i : Instr} (h : MemOk s) : FrontOk (.word i s) := ⟨by rintro _ ⟨⟩, by rintro _ _ ⟨⟩; exact h⟩
theorem FrontOk.elimDone {o : Front} {r : Out} (he : o = .done r) (h : FrontOk o) : OutOk r := h.1 r he
theorem FrontOk.elim {o : Front} {i : Instr} (he : o = .word i t) (h : FrontOk o) : MemOk t := h.2 i t he
theorem fst_memOk {β : Type} {p : State × β} {b : β} (he : p = (t, b)) (h : MemOk p.1) : MemOk t := (congrArg (fun q => MemOk q.1) he).mp h
theorem snd_memOk {β : Type} {p : β × State} {b : β} (he : p = (b, t)) (h : MemOk p.2) : MemOk t := (congrArg (fun q => MemOk q.2) he).mp h
theorem ite_ok {c : Prop} [d : Decidable c] {α : Type} {P : α → Prop} {yes no : α} (hy : c → P yes) (hn : ¬c → P no) :
    P (if c then yes else no) :=
  d.rec (motive := fun d => P (@ite α c d yes no)) hn hy
theorem foldl_memOk {α : Type} {f : State → α → State} {l : List α} {s : State} (hf : ∀ s a, MemOk s → MemOk (f s a)) (h : MemOk s) :
    MemOk (l.foldl f s) :=
  List.foldlRecOn l f h fun s hs a _ => hf s a hs
theorem MemOk_mk {agenda : List Turn} {cur : StrandRef} {nonce clock lastTeam lastGrid lastOp lastTrap : Nat} {mem : List Host.Cell} {memTags
    poison : SMap Unit} {teams : SMap Team} {cores : SMap Core} {quads : SMap Quad} {ctxs : SMap Context} {grids : SMap Grid} {l2 : List
    L2Line} {gatedWays : SMap Nat} {sliceClk : SMap W64} {walks : List (Nat × Nat × Nat)} {walking : SMap WalkList} {rings : List RingWait}
    {heldTraps : List TrapRec} {links fabLinks : SMap Nat} {removed : SMap Unit} {remotes : List RemoteTask} {istore : SMap StoreLine}
    {touched : Nat} {hub : Hub} :
    MemOk { agenda := agenda, cur := cur, nonce := nonce, clock := clock, lastTeam := lastTeam, lastGrid := lastGrid, lastOp := lastOp,
            lastTrap := lastTrap, mem := mem, memTags := memTags, poison := poison, teams := teams, cores := cores, quads := quads, ctxs := ctxs,
            grids := grids, l2 := l2, gatedWays := gatedWays, sliceClk := sliceClk, walks := walks, walking := walking, rings := rings,
            heldTraps := heldTraps, links := links, fabLinks := fabLinks, removed := removed, remotes := remotes, istore := istore,
            touched := touched, hub := hub } =
      (Memory.wf mem = true) := MemOk_iff
theorem State.setTeam_memOk {s : State} (t : Nat) (T : Team) (h : MemOk s) : MemOk (s.setTeam t T) := MemOk.of_mem (State.setTeam_mem _ _ _) h
theorem State.onTeam_memOk {s : State} (t : Nat) (f : Team → Team) (h : MemOk s) : MemOk (s.onTeam t f) := MemOk.of_mem (State.onTeam_mem _ _ _) h
theorem State.onMine_memOk {s : State} (f : Team → Team) (h : MemOk s) : MemOk (s.onMine f) := MemOk.of_mem (State.onMine_mem _ _) h
theorem State.onMyStream_memOk {s : State} (f : Stream → Stream) (h : MemOk s) : MemOk (s.onMyStream f) := MemOk.of_mem (State.onMyStream_mem _ _) h
theorem State.putSreg_memOk {s : State} (i : BitVec 6) (v : W64) (h : MemOk s) : MemOk (s.putSreg i v) := MemOk.of_mem (State.putSreg_mem _ _ _) h
theorem State.orFlagsOf_memOk {s : State} (t : Nat) (x : StreamId) (f : Flags) (h : MemOk s) : MemOk (s.orFlagsOf t x f) := MemOk.of_mem (State.orFlagsOf_mem _ _ _ _) h
theorem State.orFlags_memOk {s : State} (f : Flags) (h : MemOk s) : MemOk (s.orFlags f) := MemOk.of_mem (State.orFlags_mem _ _) h
theorem State.setCore_memOk {s : State} (c : Nat) (C : Core) (h : MemOk s) : MemOk (s.setCore c C) := MemOk.of_mem (State.setCore_mem _ _ _) h
theorem State.onCore_memOk {s : State} (c : Nat) (f : Core → Core) (h : MemOk s) : MemOk (s.onCore c f) := MemOk.of_mem (State.onCore_mem _ _ _) h
theorem State.issuedAt_memOk {s : State} (c : Nat) (x : StreamId) (h : MemOk s) : MemOk (s.issuedAt c x) := MemOk.of_mem (State.issuedAt_mem _ _ _) h
theorem State.setQuad_memOk {s : State} (q : Nat) (Q : Quad) (h : MemOk s) : MemOk (s.setQuad q Q) := MemOk.of_mem (State.setQuad_mem _ _ _) h
theorem State.onQuad_memOk {s : State} (q : Nat) (f : Quad → Quad) (h : MemOk s) : MemOk (s.onQuad q f) := MemOk.of_mem (State.onQuad_mem _ _ _) h
theorem State.setCtx_memOk {s : State} (c : Nat) (C : Context) (h : MemOk s) : MemOk (s.setCtx c C) := MemOk.of_mem (State.setCtx_mem _ _ _) h
theorem State.onCtx_memOk {s : State} (c : Nat) (f : Context → Context) (h : MemOk s) : MemOk (s.onCtx c f) := MemOk.of_mem (State.onCtx_mem _ _ _) h
theorem State.setGrid_memOk {s : State} (g : Nat) (G : Grid) (h : MemOk s) : MemOk (s.setGrid g G) := MemOk.of_mem (State.setGrid_mem _ _ _) h
theorem State.onGrid_memOk {s : State} (g : Nat) (f : Grid → Grid) (h : MemOk s) : MemOk (s.onGrid g f) := MemOk.of_mem (State.onGrid_mem _ _ _) h
theorem State.drew_memOk {s : State} (n : Nat) (h : MemOk s) : MemOk (s.drew n) := MemOk.of_mem (State.drew_mem _ _) h
theorem State.setBank_memOk {s : State} (t : Nat) (b : Bank) (h : MemOk s) : MemOk (s.setBank t b) := MemOk.of_mem (State.setBank_mem _ _ _) h
theorem State.setStrand_memOk {s : State} (r : StrandRef) (x : Strand) (h : MemOk s) : MemOk (s.setStrand r x) := MemOk.of_mem (State.setStrand_mem _ _ _) h
theorem State.onStrand_memOk {s : State} (r : StrandRef) (f : Strand → Strand) (h : MemOk s) : MemOk (s.onStrand r f) := MemOk.of_mem (State.onStrand_mem _ _ _) h
theorem State.advance_memOk {s : State}  (h : MemOk s) : MemOk (s.advance) := MemOk.of_mem (State.advance_mem _) h
theorem State.goto_memOk {s : State} (a : W64) (h : MemOk s) : MemOk (s.goto a) := MemOk.of_mem (State.goto_mem _ _) h
theorem State.waitIn_memOk {s : State} (v : Wait) (h : MemOk s) : MemOk (s.waitIn v) := MemOk.of_mem (State.waitIn_mem _ _) h
theorem State.wake_memOk {s : State} (r : StrandRef) (h : MemOk s) : MemOk (s.wake r) := MemOk.of_mem (State.wake_mem _ _) h
theorem State.store_memOk {s : State} (pa : Nat) (bs : List Byte) (h : MemOk s) : MemOk (s.store pa bs) := .of_wf (Memory.wf_writeN _ _ _ h.wf)
theorem State.storeNat_memOk {s : State} (pa n v : Nat) (h : MemOk s) : MemOk (s.storeNat pa n v) := .of_wf (Memory.wf_writeN _ _ _ h.wf)
theorem State.walkFor_memOk {s : State} (core ctx va : Nat) (n : Need) (h : MemOk s) : TransOk (s.walkFor core ctx va n) := by
  unfold State.walkFor
  split
  · exact TransOk.fail _
  · dsimp only
    refine ite_ok (fun _ => TransOk.fail _) (fun _ => TransOk.ok (State.onCore_memOk _ _ (ite_ok (fun _ => h) (fun _ => ?_))))
    exact .of_wf (Memory.wf_writeN _ _ _ h.wf)
theorem State.translate_memOk {s : State} (core : Nat) (ctx : Nat) (e : W64) (n : Need) (hs : MemOk s) : TransOk (State.translate s core ctx e n) := by
  unfold State.translate
  (try dsimp only)
  with_reducible repeat' first
      | assumption | exact TransOk.fail _ | apply TransOk.ok | apply State.walkFor_memOk | refine TransOk.elim (by assumption) ?_
      | (simp only [MemOk_mk]; apply MemOk.wf) | split | intro _ _ | dsimp only
theorem State.resolve_memOk {s : State} (t : Nat) (e : W64) (n : Need) (hs : MemOk s) : TransOk (State.resolve s t e n) := by
  unfold State.resolve
  (try dsimp only)
  with_reducible repeat' first
      | assumption | exact TransOk.fail _ | apply TransOk.ok | apply State.translate_memOk
      | refine TransOk.elim (by assumption) ?_ | (simp only [MemOk_mk]; apply MemOk.wf) | split | dsimp only
theorem State.elapse_memOk {s : State} (n : Nat) (hs : MemOk s) : MemOk (State.elapse s n) := by
  unfold State.elapse
  (try dsimp only)
  with_reducible repeat' first
      | assumption | refine ite_ok (fun _ => ?_) (fun _ => ?_) | (simp only [MemOk_mk]; apply MemOk.wf) | intro _ _ | dsimp only
theorem State.shutter_memOk {s : State} (src : Nat) (hs : MemOk s) : MemOk (State.shutter s src) := by
  unfold State.shutter
  (try dsimp only)
  with_reducible repeat' first
      | assumption | refine ite_ok (fun _ => ?_) (fun _ => ?_) | (simp only [MemOk_mk]; apply MemOk.wf) | split | dsimp only
theorem State.storeQueue_memOk {s : State} (c : Context) (off : Nat) (l : List (List Byte)) (h : MemOk s) : MemOk (s.storeQueue c off l) :=
  l.rec (motive := fun l => ∀ (s : State) off, MemOk s → MemOk (s.storeQueue c off l)) (fun _ _ h => h)
    (fun _ _ ih _ _ h => ih _ _ (State.store_memOk _ _ h)) s off h
theorem State.noticed_memOk {s : State} (r : TrapRec) (hs : MemOk s) : MemOk (State.noticed s r) := by
  unfold State.noticed
  (try dsimp only)
  with_reducible repeat' first
      | assumption | refine ite_ok (fun _ => ?_) (fun _ => ?_) | apply State.onCtx_memOk | apply State.shutter_memOk
      | (simp only [MemOk_mk]; apply MemOk.wf) | intro _ _ | dsimp only
theorem State.writeRec_memOk {s : State} (r : TrapRec) (hs : MemOk s) : MemOk (State.writeRec s r) := by
  unfold State.writeRec
  (try dsimp only)
  with_reducible repeat' first
      | assumption | refine ite_ok (fun _ => ?_) (fun _ => ?_) | apply State.noticed_memOk | apply State.storeNat_memOk
      | apply State.store_memOk | apply State.storeQueue_memOk | dsimp only
theorem State.postAt_memOk {s : State} (r : TrapRec) (before : Nat) (hs : MemOk s) : MemOk (State.postAt s r before) := by
  unfold State.postAt
  (try dsimp only)
  with_reducible repeat' first
      | assumption | refine ite_ok (fun _ => ?_) (fun _ => ?_) | apply State.writeRec_memOk
      | (simp only [MemOk_mk]; apply MemOk.wf) | intro _ _ | dsimp only
theorem State.postRec_memOk {s : State} (r : TrapRec) (hs : MemOk s) : MemOk (State.postRec s r) := by
  unfold State.postRec
  (try dsimp only)
  with_reducible repeat' first | assumption | apply State.postAt_memOk | dsimp only
theorem State.takeTrap_memOk {s : State} (r : StrandRef) (t : TrapInfo) (pc : W64) (spc : W64) (hs : MemOk s) : MemOk (State.takeTrap s r t pc spc) := by
  unfold State.takeTrap
  (try dsimp only)
  with_reducible repeat' first
      | assumption | apply State.onStrand_memOk | apply State.postRec_memOk | (simp only [MemOk_mk]; apply MemOk.wf) | intro _ _
      | dsimp only
theorem State.trapHere_memOk {s : State} (t : TrapInfo) (hs : MemOk s) : MemOk (State.trapHere s t) := by
  unfold State.trapHere
  (try dsimp only)
  with_reducible repeat' first
      | assumption | apply State.onStrand_memOk | apply State.postRec_memOk | (simp only [MemOk_mk]; apply MemOk.wf) | intro _ _
      | dsimp only
theorem OutOk.finish {s : State} {e : Except Stop State} (h : MemOk s) (he : ExcOk e) : OutOk (Sys2Proof.Machine.finish s e) := by
  unfold Sys2Proof.Machine.finish
  split
  · exact OutOk.next (he _ rfl)
  · exact OutOk.next h
  · exact OutOk.next (State.onStrand_memOk _ _ h)
  · exact ite_ok (fun _ => OutOk.next h) (fun _ => OutOk.next (State.trapHere_memOk _ h))
  · refine ite_ok (fun _ => OutOk.next h) (fun _ => OutOk.next (State.trapHere_memOk _ ?_))
    exact ite_ok (fun _ => State.shutter_memOk _ (State.drew_memOk _ h)) (fun _ => State.drew_memOk _ h)
theorem State.vecEffect_memOk {s : State} (srcs : List Nat) (d : Nat) (rule : List (BitVec 4) → Except Nat (BitVec 4)) (f : Nat → List (BitVec 4) → List W32 → LaneRes) (hs : MemOk s) : MemOk (State.vecEffect s srcs d rule f) := by
  unfold State.vecEffect
  (try dsimp only)
  with_reducible repeat' first
      | assumption | apply State.onMine_memOk | apply State.orFlags_memOk | apply State.advance_memOk | intro _ _ | dsimp only
theorem vecWord_memOk {s : State} (srcs : List Nat) (d : Nat) (rule : List (BitVec 4) → Except Nat (BitVec 4)) (f : Nat → List (BitVec 4) → List W32 → LaneRes) (hs : MemOk s) : ExcOk (vecWord s srcs d rule f) := by
  unfold vecWord
  (try dsimp only)
  with_reducible repeat' first
      | assumption | exact ExcOk.error _ | apply ExcOk.ok | refine ExcOk.bind fun _ _ => ?_ | apply State.vecEffect_memOk
      | dsimp only
theorem predWord_memOk {s : State} (srcs : List Nat) (pd : BitVec 3) (rule : List (BitVec 4) → Except Nat (BitVec 4)) (f : Nat → List (BitVec 4) → List W32 → Bool × Flags) (hs : MemOk s) : ExcOk (predWord s srcs pd rule f) := by
  unfold predWord
  (try dsimp only)
  with_reducible repeat' first
      | assumption | exact ExcOk.error _ | apply ExcOk.ok | refine ExcOk.bind fun _ _ => ?_ | apply State.onMine_memOk
      | apply State.orFlags_memOk | apply State.advance_memOk | intro _ _ | dsimp only
theorem State.fillLinear_memOk {s : State} (pa : Nat) (cls : Nat) (hs : MemOk s) : MemOk (State.fillLinear s pa cls) := by
  unfold State.fillLinear
  (try dsimp only)
  with_reducible repeat' first
      | assumption | refine ite_ok (fun _ => ?_) (fun _ => ?_) | (simp only [MemOk_mk]; apply MemOk.wf) | intro _ _ | dsimp only
theorem State.fillTile_memOk {s : State} (ctx : Nat) (num : Nat) (row : Nat) (col : Nat) (cls : Nat) (runs : List (Nat × Nat)) (hs : MemOk s) : MemOk (State.fillTile s ctx num row col cls runs) := by
  unfold State.fillTile
  (try dsimp only)
  with_reducible repeat' first
      | assumption | refine ite_ok (fun _ => ?_) (fun _ => ?_) | (simp only [MemOk_mk]; apply MemOk.wf) | intro _ _ | dsimp only
theorem State.dropLines_memOk {s : State} (runs : List (Nat × Nat)) (hs : MemOk s) : MemOk (State.dropLines s runs) := by
  unfold State.dropLines
  (try dsimp only)
  with_reducible repeat' first | assumption | (simp only [MemOk_mk]; apply MemOk.wf) | intro _ _ | dsimp only
theorem State.dropL1_memOk {s : State} (core : Nat) (hs : MemOk s) : MemOk (State.dropL1 s core) := by
  unfold State.dropL1
  (try dsimp only)
  with_reducible repeat' first
      | assumption | refine ite_ok (fun _ => ?_) (fun _ => ?_) | apply State.onCore_memOk | (simp only [MemOk_mk]; apply MemOk.wf)
      | intro _ _ | dsimp only
theorem State.refreshL1_memOk {s : State} (core : Nat) (pa : Nat) (n : Nat) (hs : MemOk s) : MemOk (State.refreshL1 s core pa n) := by
  unfold State.refreshL1
  (try dsimp only)
  with_reducible repeat' first
      | assumption | apply State.onCore_memOk | (simp only [MemOk_mk]; apply MemOk.wf) | split | intro _ _ | dsimp only
theorem State.hitL1_memOk {s : State} (core : Nat) (pa : Nat) (cls : Nat) (hs : MemOk s) : MemOk (State.hitL1 s core pa cls) := by
  unfold State.hitL1
  (try dsimp only)
  with_reducible repeat' first
      | assumption | apply State.onCore_memOk | (simp only [MemOk_mk]; apply MemOk.wf) | split | intro _ _ | dsimp only
theorem State.readHome_memOk {s : State} (pa : Nat) (n : Nat) (cls : Nat) (hs : MemOk s) : MemOk (State.readHome s pa n cls).st := by
  unfold State.readHome
  (try dsimp only)
  with_reducible repeat' first | assumption | apply State.fillLinear_memOk | dsimp only
theorem State.readL1_memOk {s : State} (core : Nat) (pa : Nat) (n : Nat) (cls : Nat) (hs : MemOk s) : MemOk (State.readL1 s core pa n cls).st := by
  unfold State.readL1
  (try dsimp only)
  with_reducible repeat' first
      | assumption | apply State.hitL1_memOk | apply State.fillLinear_memOk | apply State.onCore_memOk
      | (simp only [MemOk_mk]; apply MemOk.wf) | split | intro _ _ | dsimp only
theorem State.writeHome_memOk {s : State} (core : Nat) (pa : Nat) (bs : List Byte) (cls : Nat) (hs : MemOk s) : MemOk (State.writeHome s core pa bs cls) := by
  unfold State.writeHome
  (try dsimp only)
  with_reducible repeat' first
      | assumption | apply State.store_memOk | apply State.fillLinear_memOk | apply State.refreshL1_memOk
      | apply State.hitL1_memOk | dsimp only
theorem State.readFor_memOk {s : State} (core : Nat) (pa : Nat) (n : Nat) (cls : Nat) (hs : MemOk s) : MemOk (State.readFor s core pa n cls).st := by
  unfold State.readFor
  (try dsimp only)
  with_reducible repeat' first
      | assumption | apply State.readHome_memOk | apply State.refreshL1_memOk | (simp only [MemOk_mk]; apply MemOk.wf)
      | dsimp only
theorem State.clearPoison_memOk {s : State} (pa : Nat) (hs : MemOk s) : MemOk (State.clearPoison s pa) := by
  unfold State.clearPoison
  (try dsimp only)
  with_reducible repeat' first | assumption | (simp only [MemOk_mk]; apply MemOk.wf) | dsimp only
theorem State.takeFrame_memOk {s : State} (ctx : Nat) (size : Nat) (hs : MemOk s) : OptPairOk (State.takeFrame s ctx size) := by
  unfold State.takeFrame
  (try dsimp only)
  with_reducible repeat' first
      | assumption | exact OptPairOk.none | apply OptPairOk.some | apply State.setCtx_memOk | apply State.drew_memOk
      | (simp only [MemOk_mk]; apply MemOk.wf) | split | dsimp only
theorem State.takeSpans_memOk {s : State} (ctx : Nat) (n : Nat) (hs : MemOk s) : OptPairOk (State.takeSpans s ctx n) := by
  unfold State.takeSpans
  (try dsimp only)
  with_reducible repeat' first
      | assumption | exact OptPairOk.none | apply OptPairOk.some | refine ite_ok (fun _ => ?_) (fun _ => ?_)
      | apply State.setCtx_memOk | apply State.drew_memOk | (simp only [MemOk_mk]; apply MemOk.wf) | split | dsimp only
theorem State.setFrameWord_memOk {s : State} (ctx : Nat) (f : W64) (i : Nat) (v : W64) (hs : MemOk s) : MemOk (State.setFrameWord s ctx f i v) := by
  unfold State.setFrameWord
  (try dsimp only)
  with_reducible repeat' first | assumption | apply State.storeNat_memOk | dsimp only
theorem State.setRefs_memOk {s : State} (ctx : Nat) (f : W64) (n : Nat) (hs : MemOk s) : MemOk (State.setRefs s ctx f n) := by
  unfold State.setRefs
  (try dsimp only)
  with_reducible repeat' first | assumption | apply State.setFrameWord_memOk | dsimp only
theorem State.makeFrame_memOk {s : State} (ctx : Nat) (level : Nat) (size : Nat) (spans : Nat) (parent : W64) (gridid : W64) (hs : MemOk s) : OptPairOk (State.makeFrame s ctx level size spans parent gridid) := by
  unfold State.makeFrame
  (try dsimp only)
  with_reducible repeat' first
      | assumption | exact OptPairOk.none | apply OptPairOk.some | refine ite_ok (fun _ => ?_) (fun _ => ?_)
      | apply State.takeFrame_memOk | apply State.takeSpans_memOk | apply State.store_memOk
      | refine OptPairOk.elim (by assumption) ?_ | (simp only [MemOk_mk]; apply MemOk.wf) | split | dsimp only
theorem State.freeFrame_memOk {s : State} (ctx : Nat) (off : Nat) (hs : MemOk s) : MemOk (State.freeFrame s ctx off) := by
  unfold State.freeFrame
  (try dsimp only)
  with_reducible repeat' first | assumption | apply State.onCtx_memOk | (simp only [MemOk_mk]; apply MemOk.wf) | intro _ _ | dsimp only
theorem State.tryFree_memOk (n : Nat) {s : State} (ctx : Nat) (f : W64) (h : MemOk s) : MemOk (State.tryFree n s ctx f) := by
  induction n generalizing s f with
  | zero => exact h
  | succ n ih =>
    unfold State.tryFree
    exact ite_ok (fun _ => h) (fun _ => ite_ok (fun _ => State.onCtx_memOk _ _ h)
      (fun _ => ih _ (State.setRefs_memOk _ _ _ (State.onCtx_memOk _ _ h))))
theorem State.frameDies_memOk {s : State} (ctx : Nat) (f : W64) (hs : MemOk s) : MemOk (State.frameDies s ctx f) := by
  unfold State.frameDies
  (try dsimp only)
  with_reducible repeat' first | assumption | apply State.setFrameWord_memOk | apply State.tryFree_memOk | dsimp only
theorem State.dropRecord_memOk {s : State} (ctx : Nat) (pa : Nat) (hs : MemOk s) : MemOk (State.dropRecord s ctx pa) := by
  unfold State.dropRecord
  (try dsimp only)
  with_reducible repeat' first | assumption | refine ite_ok (fun _ => ?_) (fun _ => ?_) | apply State.freeFrame_memOk | dsimp only
theorem State.dropTeam_memOk {s : State} (t : Nat) (hs : MemOk s) : MemOk (State.dropTeam s t) := by
  unfold State.dropTeam
  (try dsimp only)
  with_reducible repeat' first | assumption | apply State.dropRecord_memOk | apply State.setTeam_memOk | dsimp only
theorem State.onOwning_memOk {s : State} (r : StrandRef) (f : OvfEntry → OvfEntry) (hs : MemOk s) : MemOk (State.onOwning s r f) := by
  unfold State.onOwning
  (try dsimp only)
  with_reducible repeat' first | assumption | apply State.onTeam_memOk | (simp only [MemOk_mk]; apply MemOk.wf) | intro _ _ | dsimp only
theorem State.release_memOk {s : State} (t : Nat) (x : StreamId) (n : Nat) (hs : MemOk s) : MemOk (State.release s t x n) := by
  unfold State.release
  (try dsimp only)
  with_reducible repeat' first
      | assumption | refine ite_ok (fun _ => ?_) (fun _ => ?_) | apply State.wake_memOk | apply State.onTeam_memOk
      | refine foldl_memOk (fun _ _ _ => ?_) ?_ | (simp only [MemOk_mk]; apply MemOk.wf) | intro _ _ | dsimp only
theorem State.tryTbar_memOk {s : State} (t : Nat) (n : Nat) (hs : MemOk s) : MemOk (State.tryTbar s t n) := by
  unfold State.tryTbar
  (try dsimp only)
  with_reducible repeat' first | assumption | refine ite_ok (fun _ => ?_) (fun _ => ?_) | apply State.release_memOk | intro _ _ | dsimp only
theorem State.tryCbar_memOk {s : State} (t : Nat) (hs : MemOk s) : MemOk (State.tryCbar s t) := by
  unfold State.tryCbar
  (try dsimp only)
  with_reducible repeat' first
      | assumption | refine ite_ok (fun _ => ?_) (fun _ => ?_) | apply State.release_memOk | apply State.dropL1_memOk
      | refine foldl_memOk (fun _ _ _ => ?_) ?_ | intro _ _ | dsimp only
theorem State.reeval_memOk {s : State} (t : Nat) (hs : MemOk s) : MemOk (State.reeval s t) := by
  unfold State.reeval
  (try dsimp only)
  with_reducible repeat' first
      | assumption | apply State.tryTbar_memOk | apply State.tryCbar_memOk | refine foldl_memOk (fun _ _ _ => ?_) ?_ | intro _ _
      | dsimp only
theorem State.giveAbove_memOk {s : State} (r : StrandRef) (w : Nat) (hs : MemOk s) : MemOk (State.giveAbove s r w) := by
  unfold State.giveAbove
  (try dsimp only)
  with_reducible repeat' first
      | assumption | apply State.onTeam_memOk | apply State.onStrand_memOk | (simp only [MemOk_mk]; apply MemOk.wf) | intro _ _
      | dsimp only
theorem State.removeEntry_memOk {s : State} (r : StrandRef) (e : OvfEntry) (hs : MemOk s) : MemOk (State.removeEntry s r e) := by
  unfold State.removeEntry
  (try dsimp only)
  with_reducible repeat' first
      | assumption | refine ite_ok (fun _ => ?_) (fun _ => ?_) | apply State.giveAbove_memOk | apply State.onTeam_memOk
      | apply State.onStrand_memOk | (simp only [MemOk_mk]; apply MemOk.wf) | intro _ _ | dsimp only
theorem State.switchTo_memOk {s : State} (r : StrandRef) (e : OvfEntry) (hs : MemOk s) : MemOk (State.switchTo s r e) := by
  unfold State.switchTo
  (try dsimp only)
  with_reducible repeat' first
      | assumption | apply State.giveAbove_memOk | apply State.onOwning_memOk | apply State.onStrand_memOk
      | apply State.goto_memOk | (simp only [MemOk_mk]; apply MemOk.wf) | split | intro _ _ | dsimp only
theorem State.wakeStripes_memOk {s : State} (core : Nat) (base : Nat) (w : Nat) (hs : MemOk s) : MemOk (State.wakeStripes s core base w) := by
  unfold State.wakeStripes
  (try dsimp only)
  with_reducible repeat' first
      | assumption | refine ite_ok (fun _ => ?_) (fun _ => ?_) | apply State.onCore_memOk
      | refine foldl_memOk (fun _ _ _ => ?_) ?_ | (simp only [MemOk_mk]; apply MemOk.wf) | intro _ _ | dsimp only
theorem State.gateStripes_memOk {s : State} (core : Nat) (hs : MemOk s) : MemOk (State.gateStripes s core) := by
  unfold State.gateStripes
  (try dsimp only)
  with_reducible repeat' first
      | assumption | refine ite_ok (fun _ => ?_) (fun _ => ?_) | apply State.onCore_memOk | (simp only [MemOk_mk]; apply MemOk.wf)
      | intro _ _ | dsimp only
theorem State.dropPrivate_memOk {s : State} (t : Nat) (hs : MemOk s) : MemOk (State.dropPrivate s t) := by
  unfold State.dropPrivate
  (try dsimp only)
  with_reducible repeat' first
      | assumption | refine ite_ok (fun _ => ?_) (fun _ => ?_) | apply State.onCore_memOk | (simp only [MemOk_mk]; apply MemOk.wf)
      | intro _ _ | dsimp only
theorem State.freeEngines_memOk {s : State} (t : Nat) (hs : MemOk s) : MemOk (State.freeEngines s t) := by
  unfold State.freeEngines
  (try dsimp only)
  with_reducible repeat' first
      | assumption | refine ite_ok (fun _ => ?_) (fun _ => ?_) | apply State.onQuad_memOk | apply State.onTeam_memOk
      | (simp only [MemOk_mk]; apply MemOk.wf) | split | intro _ _ | dsimp only
theorem State.freeReleased_memOk {s : State} (t : Nat) (hs : MemOk s) : MemOk (State.freeReleased s t) := by
  unfold State.freeReleased
  (try dsimp only)
  with_reducible repeat' first
      | assumption | refine ite_ok (fun _ => ?_) (fun _ => ?_) | apply State.onQuad_memOk | apply State.onTeam_memOk
      | (simp only [MemOk_mk]; apply MemOk.wf) | intro _ _ | dsimp only
theorem State.leave_memOk {s : State} (t : Nat) (hs : MemOk s) : MemOk (State.leave s t) := by
  unfold State.leave
  (try dsimp only)
  with_reducible repeat' first
      | assumption | apply State.onCore_memOk | apply State.gateStripes_memOk | (simp only [MemOk_mk]; apply MemOk.wf) | intro _ _
      | dsimp only
theorem State.finishTeam_memOk {s : State} (t : Nat) (hs : MemOk s) : MemOk (State.finishTeam s t) := by
  unfold State.finishTeam
  (try dsimp only)
  with_reducible repeat' first
      | assumption | refine ite_ok (fun _ => ?_) (fun _ => ?_) | apply State.freeEngines_memOk | apply State.leave_memOk
      | apply State.onGrid_memOk | apply State.dropTeam_memOk | (simp only [MemOk_mk]; apply MemOk.wf) | intro _ _ | dsimp only
theorem State.retireTeam_memOk {s : State} (t : Nat) (hs : MemOk s) : MemOk (State.retireTeam s t) := by
  unfold State.retireTeam
  (try dsimp only)
  with_reducible repeat' first
      | assumption | refine ite_ok (fun _ => ?_) (fun _ => ?_) | apply State.dropPrivate_memOk | apply State.setBank_memOk
      | apply State.onTeam_memOk | apply State.onCore_memOk | apply State.onQuad_memOk | apply State.tryCbar_memOk
      | apply State.freeReleased_memOk | apply State.gateStripes_memOk | apply State.finishTeam_memOk
      | refine foldl_memOk (fun _ _ _ => ?_) ?_ | (simp only [MemOk_mk]; apply MemOk.wf) | intro _ _ | dsimp only
theorem State.freeRecord_memOk {s : State} (r : StrandRef) (hs : MemOk s) : MemOk (State.freeRecord s r) := by
  unfold State.freeRecord
  (try dsimp only)
  with_reducible repeat' first | assumption | apply State.setStrand_memOk | dsimp only
theorem State.streamEnds_memOk {s : State} (r : StrandRef) (hs : MemOk s) : MemOk (State.streamEnds s r) := by
  unfold State.streamEnds
  (try dsimp only)
  with_reducible repeat' first
      | assumption | refine ite_ok (fun _ => ?_) (fun _ => ?_) | apply State.retireTeam_memOk | apply State.onTeam_memOk
      | apply State.onStrand_memOk | apply State.reeval_memOk | (simp only [MemOk_mk]; apply MemOk.wf) | split | intro _ _
      | dsimp only
theorem State.adoptRecs_memOk {s : State} (kids : List StrandRef) (p : StrandRef) (hs : MemOk s) : MemOk (State.adoptRecs s kids p) := by
  unfold State.adoptRecs
  (try dsimp only)
  with_reducible repeat' first
      | assumption | refine ite_ok (fun _ => ?_) (fun _ => ?_) | apply State.onCtx_memOk | apply State.onStrand_memOk
      | (simp only [MemOk_mk]; apply MemOk.wf) | intro _ _ | dsimp only
theorem State.fuse_memOk {s : State} (kids : List StrandRef) (p : StrandRef) (j : W64) (hs : MemOk s) : MemOk (State.fuse s kids p j).1 := by
  unfold State.fuse
  (try dsimp only)
  with_reducible repeat' first
      | assumption | refine ite_ok (fun _ => ?_) (fun _ => ?_) | apply State.freeRecord_memOk | apply State.onStrand_memOk
      | apply State.onTeam_memOk | apply State.adoptRecs_memOk | refine foldl_memOk (fun _ _ _ => ?_) ?_
      | (simp only [MemOk_mk]; apply MemOk.wf) | split | intro _ _ | dsimp only
theorem State.markKilled_memOk {s : State} (t : Nat) (m : Bool) (hs : MemOk s) : MemOk (State.markKilled s t m) := by
  unfold State.markKilled
  (try dsimp only)
  with_reducible repeat' first
      | assumption | refine ite_ok (fun _ => ?_) (fun _ => ?_) | apply State.onTeam_memOk | (simp only [MemOk_mk]; apply MemOk.wf)
      | intro _ _ | dsimp only
theorem State.unmarkKilled_memOk {s : State} (t : Nat) (was : Bool) (hs : MemOk s) : MemOk (State.unmarkKilled s t was) := by
  unfold State.unmarkKilled
  (try dsimp only)
  with_reducible repeat' first
      | assumption | refine ite_ok (fun _ => ?_) (fun _ => ?_) | apply State.onTeam_memOk | (simp only [MemOk_mk]; apply MemOk.wf)
      | intro _ _ | dsimp only
theorem State.endOf_memOk (n : Nat) {s : State} (r : StrandRef) (h : MemOk s) : MemOk (State.endOf n s r) := by
  induction n generalizing s r with
  | zero => exact h
  | succ n ih =>
    unfold State.endOf
    dsimp only
    repeat' (first | with_reducible assumption | with_reducible refine ite_ok (fun _ => ?_) (fun _ => ?_) | with_reducible apply ih | with_reducible apply State.onStrand_memOk | with_reducible apply State.removeEntry_memOk | with_reducible apply State.switchTo_memOk | with_reducible apply State.onOwning_memOk | with_reducible apply State.streamEnds_memOk | with_reducible apply State.fuse_memOk | with_reducible apply State.unmarkKilled_memOk | with_reducible apply State.markKilled_memOk | with_reducible apply State.freeRecord_memOk | with_reducible apply State.giveAbove_memOk | split)
theorem State.endStrandOf_memOk {s : State} (r : StrandRef) (hs : MemOk s) : MemOk (State.endStrandOf s r) := by
  unfold State.endStrandOf
  (try dsimp only)
  with_reducible repeat' first | assumption | apply State.endOf_memOk | apply State.reeval_memOk | dsimp only
theorem State.joinHere_memOk {s : State} (h : MemOk s) : ExcOk s.joinHere := by
  unfold State.joinHere
  dsimp only
  repeat' (first | with_reducible assumption | with_reducible exact ExcOk.error _ | with_reducible refine ExcOk.ok ?_ | with_reducible refine ite_ok (fun _ => ?_) (fun _ => ?_) | with_reducible apply State.onStrand_memOk | with_reducible apply State.removeEntry_memOk | with_reducible apply State.switchTo_memOk | with_reducible apply State.onOwning_memOk | with_reducible apply State.advance_memOk | with_reducible apply State.fuse_memOk | with_reducible apply State.unmarkKilled_memOk | with_reducible apply State.markKilled_memOk | with_reducible apply State.giveAbove_memOk | with_reducible apply State.endOf_memOk | with_reducible apply State.endStrandOf_memOk | split)
theorem State.divideHere_memOk {s : State} (t : Mask) (f : Mask) (target : W64) (next : W64) (hs : MemOk s) : ExcOk (State.divideHere s t f target next) := by
  unfold State.divideHere
  (try dsimp only)
  with_reducible repeat' first
      | assumption | exact ExcOk.error _ | apply ExcOk.ok | refine ExcOk.bind fun _ _ => ?_
      | refine ite_ok (fun _ => ?_) (fun _ => ?_) | apply State.goto_memOk | apply State.setStrand_memOk | apply State.drew_memOk
      | apply State.onMine_memOk | apply State.onStrand_memOk | (simp only [MemOk_mk]; apply MemOk.wf) | intro _ _ | dsimp only
theorem State.arriveHere_memOk {s : State} (n : Nat) (hs : MemOk s) : ExcOk (State.arriveHere s n) := by
  unfold State.arriveHere
  (try dsimp only)
  with_reducible repeat' first
      | assumption | exact ExcOk.error _ | apply ExcOk.ok | refine ExcOk.bind fun _ _ => ?_
      | refine ite_ok (fun _ => ?_) (fun _ => ?_) | apply State.onStrand_memOk | apply State.advance_memOk
      | apply State.onOwning_memOk | apply State.goto_memOk | apply State.reeval_memOk | (simp only [MemOk_mk]; apply MemOk.wf)
      | split | intro _ _ | dsimp only
theorem State.drewCmp_memOk {s : State} (core : Nat) (hs : MemOk s) : MemOk (State.drewCmp s core) := by
  unfold State.drewCmp
  (try dsimp only)
  with_reducible repeat' first | assumption | refine ite_ok (fun _ => ?_) (fun _ => ?_) | apply State.drew_memOk | intro _ _ | dsimp only
theorem State.dropStore_memOk {s : State} (die : Nat) (line : Nat) (hs : MemOk s) : MemOk (State.dropStore s die line) := by
  unfold State.dropStore
  (try dsimp only)
  with_reducible repeat' first
      | assumption | refine ite_ok (fun _ => ?_) (fun _ => ?_) | (simp only [MemOk_mk]; apply MemOk.wf) | split | intro _ _
      | dsimp only
theorem State.storeRoom_memOk {s : State} (die : Nat) (keep : List Nat) (hs : MemOk s) : MemOk (State.storeRoom s die keep) := by
  unfold State.storeRoom
  (try dsimp only)
  with_reducible repeat' first
      | assumption | refine ite_ok (fun _ => ?_) (fun _ => ?_) | apply State.dropStore_memOk
      | (simp only [MemOk_mk]; apply MemOk.wf) | split | intro _ _ | dsimp only
theorem State.fillStore_memOk {s : State} (core : Nat) (keep : List Nat) (pa : Nat) (hs : MemOk s) : MemOk (State.fillStore s core keep pa) := by
  unfold State.fillStore
  (try dsimp only)
  with_reducible repeat' first
      | assumption | refine ite_ok (fun _ => ?_) (fun _ => ?_) | apply State.storeRoom_memOk | apply State.fillLinear_memOk
      | (simp only [MemOk_mk]; apply MemOk.wf) | split | dsimp only
theorem State.fillPacket_memOk {s : State} (core : Nat) (key : Nat) (p : PacketLine) (hs : MemOk s) : MemOk (State.fillPacket s core key p) := by
  unfold State.fillPacket
  (try dsimp only)
  with_reducible repeat' first
      | assumption | refine ite_ok (fun _ => ?_) (fun _ => ?_) | apply State.onCore_memOk | (simp only [MemOk_mk]; apply MemOk.wf)
      | intro _ _ | dsimp only
theorem State.wordPlaces_memOk (core ctx : Nat) (es : List W64) {s : State} (h : MemOk s) : OptPairOk (s.wordPlaces core ctx es) := by
  induction es generalizing s with
  | nil => exact OptPairOk.some h
  | cons e rest ih =>
    unfold State.wordPlaces
    rcases h1 : s.translate core ctx e { r := false, w := false } with ⟨pa, s1⟩ | d
    · have h2 := ih (TransOk.elim h1 (State.translate_memOk _ _ _ _ h))
      dsimp only
      rcases h3 : s1.wordPlaces core ctx rest with _ | ⟨l, s2⟩
      · exact OptPairOk.none
      · exact OptPairOk.some (OptPairOk.elim h3 h2)
    · exact OptPairOk.none
theorem State.fetch_memOk {s : State} (t : Nat) (pc : W64) (hs : MemOk s) : FetchOk (State.fetch s t pc) := by
  unfold State.fetch
  (try dsimp only)
  with_reducible repeat' first
      | assumption | exact FetchOk.outside | exact FetchOk.unmapped | apply FetchOk.ok | apply FetchOk.poisoned
      | exact OptPairOk.none | apply OptPairOk.some | refine ite_ok (fun _ => ?_) (fun _ => ?_) | apply State.wordPlaces_memOk
      | apply State.fillStore_memOk | apply State.fillPacket_memOk | refine foldl_memOk (fun _ _ _ => ?_) ?_
      | refine OptPairOk.elim (by assumption) ?_ | (simp only [MemOk_mk]; apply MemOk.wf) | split | intro _ _ | dsimp only
theorem State.dropCode_memOk {s : State} (ctx : Nat) (lo : Nat) (n : Nat) (hs : MemOk s) : MemOk (State.dropCode s ctx lo n) := by
  unfold State.dropCode
  (try dsimp only)
  with_reducible repeat' first
      | assumption | apply State.dropStore_memOk | refine foldl_memOk (fun _ _ _ => ?_) ?_
      | (simp only [MemOk_mk]; apply MemOk.wf) | intro _ _ | dsimp only
theorem State.stepStop_memOk {s : State} (r : StrandRef) (hs : MemOk s) : MemOk (State.stepStop s r) := by
  unfold State.stepStop
  (try dsimp only)
  with_reducible repeat' first | assumption | apply State.takeTrap_memOk | dsimp only
theorem State.settle_memOk {s : State} (r : StrandRef) (hs : MemOk s) : MemOk (State.settle s r) := by
  unfold State.settle
  (try dsimp only)
  with_reducible repeat' first
      | assumption | refine ite_ok (fun _ => ?_) (fun _ => ?_) | apply State.onStrand_memOk | apply State.setBank_memOk
      | apply State.stepStop_memOk | (simp only [MemOk_mk]; apply MemOk.wf) | split | intro _ _ | dsimp only
theorem State.passWord_memOk {s : State} (r : StrandRef) (w : W32) (hs : MemOk s) : MemOk (State.passWord s r w) := by
  unfold State.passWord
  (try dsimp only)
  with_reducible repeat' first
      | assumption | refine ite_ok (fun _ => ?_) (fun _ => ?_) | apply State.onStrand_memOk | apply State.goto_memOk
      | apply State.advance_memOk | (simp only [MemOk_mk]; apply MemOk.wf) | split | intro _ _ | dsimp only
theorem State.front_memOk {s : State} (r : StrandRef) (hs : MemOk s) : FrontOk (State.front s r) := by
  unfold State.front
  (try dsimp only)
  with_reducible repeat' first
      | assumption | apply FrontOk.done | apply FrontOk.word | apply OutOk.next | exact OutOk.fault _
      | refine ite_ok (fun _ => ?_) (fun _ => ?_) | apply State.stepStop_memOk | apply State.onStrand_memOk
      | apply State.fetch_memOk | apply State.takeTrap_memOk | apply State.drewCmp_memOk | apply State.shutter_memOk
      | apply State.passWord_memOk | apply State.settle_memOk | refine FetchOk.elim (by assumption) ?_
      | refine FetchOk.elimBad (by assumption) ?_ | (simp only [MemOk_mk]; apply MemOk.wf) | split | intro _ _ | dsimp only
theorem settled_memOk (r : StrandRef) {o : Out} (h : OutOk o) : OutOk (settled r o) := by
  unfold settled
  split
  · exact OutOk.next (State.settle_memOk _ (h _ rfl))
  · exact OutOk.fault _
  · rintro _ ⟨⟩
theorem State.issueAgain_memOk {s : State} (fires : Bool) (a : AccessOp) (hs : MemOk s) : MemOk (State.issueAgain s fires a) := by
  unfold State.issueAgain
  (try dsimp only)
  with_reducible repeat' first
      | assumption | refine ite_ok (fun _ => ?_) (fun _ => ?_) | apply State.shutter_memOk | apply State.onMine_memOk
      | apply State.advance_memOk | apply State.onStrand_memOk | refine foldl_memOk (fun _ _ _ => ?_) ?_
      | (simp only [MemOk_mk]; apply MemOk.wf) | intro _ _ | dsimp only
theorem access_memOk {s : State} {f : State → Except Stop State} (hf : ∀ t, MemOk t → ExcOk (f t)) (h : MemOk s) : OutOk (access s f) := by
  unfold access
  dsimp only
  split
  · exact OutOk.finish h (hf _ h)
  · split
    · exact OutOk.finish h (hf _ (State.onStrand_memOk _ _ h))
    · exact OutOk.finish h (ExcOk.bind fun _ _ => ExcOk.ok (State.issueAgain_memOk _ _ h))
theorem State.issue_memOk {s : State} (la : BitVec 4) (srcs : List Nat) (fires : Bool) (a : AccessOp) (hs : MemOk s) : MemOk (State.issue s la srcs fires a) := by
  unfold State.issue
  (try dsimp only)
  with_reducible repeat' first
      | assumption | refine ite_ok (fun _ => ?_) (fun _ => ?_) | apply State.shutter_memOk | apply State.onMine_memOk
      | apply State.advance_memOk | apply State.onStrand_memOk | (simp only [MemOk_mk]; apply MemOk.wf) | split | intro _ _
      | dsimp only
theorem State.readLane_memOk {s : State} (core : Nat) (a : AccessOp) (l : LaneAcc) (viaL1 : Bool) (hs : MemOk s) : MemOk (State.readLane s core a l viaL1).st := by
  unfold State.readLane
  (try dsimp only)
  with_reducible repeat' first
      | assumption | refine ite_ok (fun _ => ?_) (fun _ => ?_) | apply State.readL1_memOk | apply State.readFor_memOk
      | (simp only [MemOk_mk]; apply MemOk.wf) | split | dsimp only
theorem State.writeLane_memOk {s : State} (core : Nat) (a : AccessOp) (l : LaneAcc) (v : Nat) (ref : Bool) (hs : MemOk s) : MemOk (State.writeLane s core a l v ref) := by
  unfold State.writeLane
  (try dsimp only)
  with_reducible repeat' first
      | assumption | refine ite_ok (fun _ => ?_) (fun _ => ?_) | apply State.onTeam_memOk | apply State.store_memOk
      | apply State.fillLinear_memOk | apply State.refreshL1_memOk | apply State.hitL1_memOk
      | (simp only [MemOk_mk]; apply MemOk.wf) | split | intro _ _ | dsimp only
theorem State.perform1_memOk {s : State} (t : Nat) (a : AccessOp) (l : LaneAcc) (first : Option (Nat × Bool)) (viaL1 : Bool) (hs : MemOk s) : MemOk (State.perform1 s t a l first viaL1).2 := by
  unfold State.perform1
  (try dsimp only)
  with_reducible repeat' first
      | assumption | refine ite_ok (fun _ => ?_) (fun _ => ?_) | apply State.readLane_memOk | apply State.store_memOk
      | apply State.writeLane_memOk | apply State.orFlagsOf_memOk | (simp only [MemOk_mk]; apply MemOk.wf) | split | dsimp only
theorem State.performAll_memOk {s : State} (t : Nat) (a : AccessOp) (viaL1 : Bool) (prev : Option LaneAcc) (ls : List LaneAcc) (h : MemOk s) :
    MemOk (s.performAll t a viaL1 prev ls).2 := by
  induction ls generalizing s prev with
  | nil => exact h
  | cons l rest ih => exact ih _ (State.perform1_memOk _ _ _ _ _ h)
theorem State.accMoved_memOk {s : State} (t : Nat) (hs : MemOk s) : MemOk (State.accMoved s t) := by
  unfold State.accMoved
  (try dsimp only)
  with_reducible repeat' first | assumption | apply State.reeval_memOk | apply State.finishTeam_memOk | dsimp only
theorem State.stampSc_memOk {s : State} (t : Nat) (a : AccessOp) (pa : Nat) (c : W64) (hs : MemOk s) : MemOk (State.stampSc s t a pa c) := by
  unfold State.stampSc
  (try dsimp only)
  with_reducible repeat' first
      | assumption | apply State.onCore_memOk | apply State.onTeam_memOk | (simp only [MemOk_mk]; apply MemOk.wf) | intro _ _
      | dsimp only
theorem State.spotParts_memOk {s : State} (t : Nat) (need : Need) (acc : List (Nat × Nat)) (ps : List (W64 × Nat)) (h : MemOk s) :
    SpotOk (s.spotParts t need acc ps) := by
  induction ps generalizing s acc with
  | nil => exact SpotOk.ok h
  | cons p rest ih =>
    unfold State.spotParts
    split
    · exact SpotOk.fail _ _
    · exact ih _ (TransOk.elim (by assumption) (State.resolve_memOk _ _ _ h))
theorem State.spot_memOk {s : State} (t : Nat) (e : W64) (n : Nat) (need : Need) (hs : MemOk s) : SpotOk (State.spot s t e n need) := by
  unfold State.spot
  (try dsimp only)
  with_reducible repeat' first
      | assumption | exact SpotOk.fail _ _ | apply SpotOk.ok | apply State.spotParts_memOk | refine SpotOk.elim (by assumption) ?_
      | (simp only [MemOk_mk]; apply MemOk.wf) | split | dsimp only
theorem State.putParts_memOk {s : State} (ps : List (Nat × Nat)) (bs : List Byte) (h : MemOk s) : MemOk (s.putParts ps bs) := by
  induction ps generalizing s bs with
  | nil => exact h
  | cons p rest ih => exact ih _ (State.store_memOk _ _ h)
theorem State.putSpot_memOk {s : State} (p : Spot) (bs : List Byte) (hs : MemOk s) : MemOk (State.putSpot s p bs) := by
  unfold State.putSpot
  (try dsimp only)
  with_reducible repeat' first
      | assumption | refine ite_ok (fun _ => ?_) (fun _ => ?_) | apply State.onTeam_memOk | apply State.putParts_memOk
      | (simp only [MemOk_mk]; apply MemOk.wf) | split | intro _ _ | dsimp only
theorem spotHere_memOk {s : State} (e : W64) (n : Nat) (need : Need) (hs : MemOk s) : ExcPairOk (spotHere s e n need) := by
  unfold spotHere
  (try dsimp only)
  with_reducible repeat' first
      | assumption | exact ExcPairOk.error _ | apply ExcPairOk.ok | refine ExcPairOk.bind fun _ _ => ?_
      | refine ite_ok (fun _ => ?_) (fun _ => ?_) | apply State.spot_memOk | refine SpotOk.elim (by assumption) ?_
      | (simp only [MemOk_mk]; apply MemOk.wf) | split | dsimp only
theorem afterRelease_memOk {s : State} {f : State → Except Stop State} (hf : ExcOk (f s)) (h : MemOk s) : ExcOk (afterRelease s f) := by
  unfold afterRelease
  exact ite_ok (fun _ => hf) (fun _ => ExcOk.ok (State.waitIn_memOk _ h))
theorem State.post_memOk {s : State} (la : BitVec 4) (cls : Nat) (k : EngKind) (hs : MemOk s) : MemOk (State.post s la cls k) := by
  unfold State.post
  (try dsimp only)
  with_reducible repeat' first
      | assumption | apply State.onMine_memOk | apply State.advance_memOk | apply State.onStrand_memOk
      | (simp only [MemOk_mk]; apply MemOk.wf) | intro _ _ | dsimp only
theorem State.engDone_memOk {s : State} (t : Nat) (e : EngOp) (fl : Flags) (hs : MemOk s) : MemOk (State.engDone s t e fl) := by
  unfold State.engDone
  (try dsimp only)
  with_reducible repeat' first
      | assumption | apply State.onTeam_memOk | apply State.orFlagsOf_memOk | (simp only [MemOk_mk]; apply MemOk.wf) | intro _ _
      | dsimp only
theorem State.engFault_memOk {s : State} (t : Nat) (e : EngOp) (f : UnitFault) (hs : MemOk s) : MemOk (State.engFault s t e f) := by
  unfold State.engFault
  (try dsimp only)
  with_reducible repeat' first | assumption | apply State.onTeam_memOk | (simp only [MemOk_mk]; apply MemOk.wf) | intro _ _ | dsimp only
theorem execWaitc_memOk (k : BitVec 3) (n : BitVec 6) {s : State} (hs : MemOk s) : OutOk (execWaitc k n s) := by
  unfold execWaitc
  (try dsimp only)
  with_reducible repeat' first
      | assumption | apply OutOk.next | exact OutOk.fault _ | refine ite_ok (fun _ => ?_) (fun _ => ?_) | apply State.dropL1_memOk
      | apply State.advance_memOk | apply State.onStrand_memOk | (simp only [MemOk_mk]; apply MemOk.wf) | intro _ _ | dsimp only
theorem execEngineOperationRetire_memOk (team : Nat) (strm : StreamId) (cls : Nat) {s : State} (hs : MemOk s) : OutOk (execEngineOperationRetire team strm cls s) := by
  unfold execEngineOperationRetire
  (try dsimp only)
  with_reducible repeat' first
      | assumption | apply OutOk.next | exact OutOk.fault _ | refine ite_ok (fun _ => ?_) (fun _ => ?_) | apply State.onTeam_memOk
      | apply State.freeReleased_memOk | apply State.finishTeam_memOk | (simp only [MemOk_mk]; apply MemOk.wf) | split | intro _ _
      | dsimp only
theorem State.refuseEng_memOk {s : State} (t : Nat) (e : EngOp) (f : UnitFault) (hs : MemOk s) : MemOk (State.refuseEng s t e f) := by
  unfold State.refuseEng
  (try dsimp only)
  with_reducible repeat' first
      | assumption | refine ite_ok (fun _ => ?_) (fun _ => ?_) | apply State.onTeam_memOk | apply State.onStrand_memOk
      | apply State.postRec_memOk | (simp only [MemOk_mk]; apply MemOk.wf) | intro _ _ | dsimp only
theorem execEpctxAcq_memOk (x1 : BitVec 4) (d : BitVec 6) (a : BitVec 6) {s0 : State} (hs : MemOk s0) : OutOk (execEpctxAcq x1 d a s0) := by
  unfold execEpctxAcq
  (try dsimp only)
  with_reducible repeat' first
      | assumption | exact ExcOk.error _ | apply ExcOk.ok | refine ExcOk.bind fun _ _ => ?_ | apply OutOk.next
      | exact OutOk.fault _ | apply OutOk.finish | refine ite_ok (fun _ => ?_) (fun _ => ?_) | apply finish_memOk
      | apply State.onQuad_memOk | apply State.putSreg_memOk | apply State.advance_memOk | apply State.onMine_memOk
      | refine foldl_memOk (fun _ _ _ => ?_) ?_ | refine OutOk.elim (by assumption) ?_ | (simp only [MemOk_mk]; apply MemOk.wf)
      | intro _ _ | dsimp only
theorem execEpctxRel_memOk (x1 : BitVec 4) {s : State} (hs : MemOk s) : OutOk (execEpctxRel x1 s) := by
  unfold execEpctxRel
  (try dsimp only)
  with_reducible repeat' first
      | assumption | apply OutOk.next | exact OutOk.fault _ | refine ite_ok (fun _ => ?_) (fun _ => ?_) | apply State.onMine_memOk
      | apply State.freeReleased_memOk | apply State.advance_memOk | (simp only [MemOk_mk]; apply MemOk.wf) | split | intro _ _
      | dsimp only
theorem readPattern_memOk (hd e : W64) (n : Nat) (ws : List W32) {s : State} (h : MemOk s) : ExcPairOk (readPattern hd e n ws s) := by
  induction n generalizing s ws with
  | zero => exact ExcPairOk.ok h
  | succ n ih =>
    unfold readPattern
    split
    · refine ExcPairOk.bind (fun _ _ => ExcPairOk.bind (fun q hq => ?_))
      obtain ⟨p, s1⟩ := q
      exact ih _ (ExcPairOk.elim hq (spotHere_memOk _ _ _ h))
    · exact ExcPairOk.ok h
theorem execEpld_memOk (la : BitVec 4) (a : BitVec 6) (c : BitVec 2) {s : State} (hs : MemOk s) : OutOk (execEpld la a c s) := by
  unfold execEpld
  (try dsimp only)
  with_reducible repeat' first
      | assumption | exact ExcOk.error _ | apply ExcOk.ok | refine ExcOk.bind fun _ _ => ?_ | apply OutOk.next
      | exact OutOk.fault _ | apply OutOk.finish | apply finish_memOk | apply spotHere_memOk | apply readPattern_memOk
      | apply State.post_memOk | refine ExcPairOk.elim (by assumption) ?_ | refine OutOk.elim (by assumption) ?_ | split
      | dsimp only
theorem listWord_memOk (inverse : Bool) (la : BitVec 4) (d : BitVec 6) (a : BitVec 6) (c : BitVec 2) {s : State} (hs : MemOk s) : OutOk (listWord inverse la d a c s) := by
  unfold listWord
  (try dsimp only)
  with_reducible repeat' first
      | assumption | exact ExcOk.error _ | apply ExcOk.ok | refine ExcOk.bind fun _ _ => ?_ | apply OutOk.next
      | exact OutOk.fault _ | apply OutOk.finish | apply finish_memOk | apply State.post_memOk
      | refine OutOk.elim (by assumption) ?_ | (simp only [MemOk_mk]; apply MemOk.wf) | split | dsimp only
theorem execEpgen_memOk (la : BitVec 4) (d : BitVec 6) (a : BitVec 6) (c : BitVec 2) {s : State} (hs : MemOk s) : OutOk (execEpgen la d a c s) := by
  unfold execEpgen
  (try dsimp only)
  with_reducible repeat' first
      | assumption | apply OutOk.next | exact OutOk.fault _ | apply listWord_memOk | refine OutOk.elim (by assumption) ?_
      | dsimp only
theorem execEpinv_memOk (la : BitVec 4) (d : BitVec 6) (a : BitVec 6) (c : BitVec 2) {s : State} (hs : MemOk s) : OutOk (execEpinv la d a c s) := by
  unfold execEpinv
  (try dsimp only)
  with_reducible repeat' first
      | assumption | apply OutOk.next | exact OutOk.fault _ | apply listWord_memOk | refine OutOk.elim (by assumption) ?_
      | dsimp only
theorem execEpstat_memOk (la : BitVec 4) (d : BitVec 6) (v : BitVec 1) (c : BitVec 2) {s : State} (hs : MemOk s) : OutOk (execEpstat la d v c s) := by
  unfold execEpstat
  (try dsimp only)
  with_reducible repeat' first
      | assumption | exact ExcOk.error _ | apply ExcOk.ok | refine ExcOk.bind fun _ _ => ?_ | apply OutOk.next
      | exact OutOk.fault _ | apply OutOk.finish | apply finish_memOk | apply State.post_memOk
      | refine OutOk.elim (by assumption) ?_ | intro _ _ | dsimp only
theorem State.runList_memOk {s : State} (t : Nat) (e : EngOp) (inverse : Bool) (uid : Nat) (dst : Nat) (spec : W64) (hs : MemOk s) : MemOk (State.runList s t e inverse uid dst spec) := by
  unfold State.runList
  (try dsimp only)
  with_reducible repeat' first
      | assumption | apply State.engDone_memOk | apply State.onTeam_memOk | apply State.engFault_memOk
      | refine foldl_memOk (fun _ _ _ => ?_) ?_ | (simp only [MemOk_mk]; apply MemOk.wf) | split | intro _ _ | dsimp only
theorem State.listPart_memOk {s : State} (t : Nat) (e : EngOp) (inverse : Bool) (uid : Nat) (dst : Nat) (spec : W64) (part : Nat) (hs : MemOk s) : MemOk (State.listPart s t e inverse uid dst spec part) := by
  unfold State.listPart
  (try dsimp only)
  with_reducible repeat' first
      | assumption | refine ite_ok (fun _ => ?_) (fun _ => ?_) | apply State.onTeam_memOk | (simp only [MemOk_mk]; apply MemOk.wf)
      | split | intro _ _ | dsimp only
theorem execEphemerisOperationComplete_memOk (team : Nat) (op : Nat) {s : State} (hs : MemOk s) : OutOk (execEphemerisOperationComplete team op s) := by
  unfold execEphemerisOperationComplete
  (try dsimp only)
  with_reducible repeat' first
      | assumption | apply OutOk.next | exact OutOk.fault _ | refine ite_ok (fun _ => ?_) (fun _ => ?_) | apply State.onTeam_memOk
      | apply State.engDone_memOk | apply State.runList_memOk | (simp only [MemOk_mk]; apply MemOk.wf) | split | intro _ _
      | dsimp only
theorem State.wreckPage_memOk {s : State} (n : Nat) (p : MappedPage) (hs : MemOk s) : MemOk (State.wreckPage s n p) := by
  unfold State.wreckPage
  (try dsimp only)
  with_reducible repeat' first
      | assumption | apply State.store_memOk | refine foldl_memOk (fun _ _ _ => ?_) ?_ | (simp only [MemOk_mk]; apply MemOk.wf)
      | intro _ _ | dsimp only
theorem State.wreckStrand_memOk {s : State} (w : Nat → W64) (r : StrandRef) (hs : MemOk s) : MemOk (State.wreckStrand s w r) := by
  unfold State.wreckStrand
  (try dsimp only)
  with_reducible repeat' first
      | assumption | refine ite_ok (fun _ => ?_) (fun _ => ?_) | apply State.onStrand_memOk | apply State.takeTrap_memOk
      | (simp only [MemOk_mk]; apply MemOk.wf) | intro _ _ | dsimp only
theorem State.wreckTeam_memOk {s : State} (n : Nat) (t : Nat) (hs : MemOk s) : MemOk (State.wreckTeam s n t) := by
  unfold State.wreckTeam
  (try dsimp only)
  with_reducible repeat' first
      | assumption | apply State.onTeam_memOk | apply State.wreckStrand_memOk | refine foldl_memOk (fun _ _ _ => ?_) ?_
      | intro _ _ | dsimp only
theorem State.wreck_memOk {s : State} (ctx : Nat) (hs : MemOk s) : MemOk (State.wreck s ctx) := by
  unfold State.wreck
  (try dsimp only)
  with_reducible repeat' first
      | assumption | apply State.wreckPage_memOk | apply State.drew_memOk | apply State.wreckTeam_memOk
      | refine foldl_memOk (fun _ _ _ => ?_) ?_ | intro _ _ | dsimp only
theorem State.uncache_memOk {s : State} (ctx : Nat) (num : Nat) (hs : MemOk s) : MemOk (State.uncache s ctx num) := by
  unfold State.uncache
  (try dsimp only)
  with_reducible repeat' first | assumption | (simp only [MemOk_mk]; apply MemOk.wf) | intro _ _ | dsimp only
theorem State.setEntry_memOk {s : State} (ctx : Nat) (num : Nat) (e : Entry) (hs : MemOk s) : MemOk (State.setEntry s ctx num e) := by
  unfold State.setEntry
  (try dsimp only)
  with_reducible repeat' first
      | assumption | apply State.onCtx_memOk | apply State.uncache_memOk | (simp only [MemOk_mk]; apply MemOk.wf) | intro _ _
      | dsimp only
theorem execCatset_memOk (x1 : BitVec 4) (d : BitVec 6) (a : BitVec 6) {s : State} (hs : MemOk s) : OutOk (execCatset x1 d a s) := by
  unfold execCatset
  (try dsimp only)
  with_reducible repeat' first
      | assumption | exact ExcOk.error _ | apply ExcOk.ok | refine ExcOk.bind fun _ _ => ?_ | apply OutOk.next
      | exact OutOk.fault _ | apply OutOk.finish | apply finish_memOk | apply spotHere_memOk | apply State.setEntry_memOk
      | apply State.advance_memOk | refine ExcPairOk.elim (by assumption) ?_ | refine OutOk.elim (by assumption) ?_ | split
      | dsimp only
theorem execCatget_memOk (x1 : BitVec 4) (d : BitVec 6) (a : BitVec 6) (w : BitVec 3) {s : State} (hs : MemOk s) : OutOk (execCatget x1 d a w s) := by
  unfold execCatget
  (try dsimp only)
  with_reducible repeat' first
      | assumption | exact ExcOk.error _ | apply ExcOk.ok | refine ExcOk.bind fun _ _ => ?_ | apply OutOk.next
      | exact OutOk.fault _ | apply OutOk.finish | apply finish_memOk | apply State.putSreg_memOk | apply State.advance_memOk
      | refine OutOk.elim (by assumption) ?_ | split | dsimp only
theorem execCatld_memOk (x1 : BitVec 4) (a : BitVec 6) (n : BitVec 8) {s : State} (hs : MemOk s) : OutOk (execCatld x1 a n s) := by
  unfold execCatld
  (try dsimp only)
  with_reducible repeat' first
      | assumption | exact ExcOk.error _ | apply ExcOk.ok | refine ExcOk.bind fun _ _ => ?_ | apply OutOk.next
      | exact OutOk.fault _ | apply OutOk.finish | apply finish_memOk | apply State.onCore_memOk | apply State.advance_memOk
      | refine foldl_memOk (fun _ _ _ => ?_) ?_ | refine OutOk.elim (by assumption) ?_ | (simp only [MemOk_mk]; apply MemOk.wf)
      | split | intro _ _ | dsimp only
theorem execCatfree_memOk (x1 : BitVec 4) (a : BitVec 6) {s : State} (hs : MemOk s) : OutOk (execCatfree x1 a s) := by
  unfold execCatfree
  (try dsimp only)
  with_reducible repeat' first
      | assumption | exact ExcOk.error _ | apply ExcOk.ok | refine ExcOk.bind fun _ _ => ?_ | apply OutOk.next
      | exact OutOk.fault _ | apply OutOk.finish | apply finish_memOk | apply State.setEntry_memOk | apply State.advance_memOk
      | refine OutOk.elim (by assumption) ?_ | split | dsimp only
theorem execXprb_memOk (x1 : BitVec 4) (d : BitVec 6) (a : BitVec 6) (f : BitVec 8) {s : State} (hs : MemOk s) : OutOk (execXprb x1 d a f s) := by
  unfold execXprb
  (try dsimp only)
  with_reducible repeat' first
      | assumption | exact ExcOk.error _ | apply ExcOk.ok | refine ExcOk.bind fun _ _ => ?_ | apply OutOk.next
      | exact OutOk.fault _ | apply OutOk.finish | apply finish_memOk | apply State.putSreg_memOk | apply State.advance_memOk
      | refine OutOk.elim (by assumption) ?_ | dsimp only
theorem execCpy_memOk (la : BitVec 4) (d : BitVec 6) (a : BitVec 6) {s : State} (hs : MemOk s) : OutOk (execCpy la d a s) := by
  unfold execCpy
  (try dsimp only)
  with_reducible repeat' first
      | assumption | exact ExcOk.error _ | apply ExcOk.ok | refine ExcOk.bind fun _ _ => ?_ | apply OutOk.next
      | exact OutOk.fault _ | apply OutOk.finish | apply finish_memOk | apply State.post_memOk
      | refine OutOk.elim (by assumption) ?_ | dsimp only
theorem execCpyt_memOk (la : BitVec 4) (d : BitVec 6) (a : BitVec 6) {s : State} (hs : MemOk s) : OutOk (execCpyt la d a s) := by
  unfold execCpyt
  (try dsimp only)
  with_reducible repeat' first
      | assumption | exact ExcOk.error _ | apply ExcOk.ok | refine ExcOk.bind fun _ _ => ?_ | apply OutOk.next
      | exact OutOk.fault _ | apply OutOk.finish | apply finish_memOk | apply State.post_memOk
      | refine OutOk.elim (by assumption) ?_ | dsimp only
theorem execTpref_memOk (la : BitVec 4) (d : BitVec 6) (a : BitVec 6) {s : State} (hs : MemOk s) : OutOk (execTpref la d a s) := by
  unfold execTpref
  (try dsimp only)
  with_reducible repeat' first
      | assumption | exact ExcOk.error _ | apply ExcOk.ok | refine ExcOk.bind fun _ _ => ?_ | apply OutOk.next
      | exact OutOk.fault _ | apply OutOk.finish | apply finish_memOk | apply State.post_memOk
      | refine OutOk.elim (by assumption) ?_ | dsimp only
theorem execTflush_memOk (la : BitVec 4) (a : BitVec 6) {s : State} (hs : MemOk s) : OutOk (execTflush la a s) := by
  unfold execTflush
  (try dsimp only)
  with_reducible repeat' first
      | assumption | exact ExcOk.error _ | apply ExcOk.ok | refine ExcOk.bind fun _ _ => ?_ | apply OutOk.next
      | exact OutOk.fault _ | apply OutOk.finish | apply finish_memOk | apply State.post_memOk
      | refine OutOk.elim (by assumption) ?_ | dsimp only
theorem State.locate_memOk {s : State} (t : Nat) (need : Need) (ps : List (W64 × Nat)) (h : MemOk s) : MemOk (s.locate t need ps).st := by
  induction ps generalizing s with
  | nil => exact h
  | cons p rest ih =>
    unfold State.locate
    refine ih ?_
    split
    · exact h
    · split
      · exact TransOk.elim (by assumption) (State.resolve_memOk _ _ _ h)
      · exact h
theorem State.mapRuns_memOk {s : State} (t k : Nat) (rs : List CopyRun) (h : MemOk s) : MemOk (s.mapRuns t k rs).st :=
  rs.rec (motive := fun l => ∀ (s : State) k, MemOk s → MemOk (s.mapRuns t k l).st) (fun _ _ h => h)
    (fun _ _ ih _ _ h => ih _ _ (State.locate_memOk _ _ _ (State.locate_memOk _ _ _ h))) s k h
theorem State.putByte_memOk {s : State} (l : Loc) (b : Byte) (hs : MemOk s) : MemOk (State.putByte s l b) := by
  unfold State.putByte
  (try dsimp only)
  with_reducible repeat' first
      | assumption | refine ite_ok (fun _ => ?_) (fun _ => ?_) | apply State.onTeam_memOk | apply State.store_memOk
      | (simp only [MemOk_mk]; apply MemOk.wf) | split | intro _ _ | dsimp only
theorem State.fillLocs_memOk {s : State} (ls : List (Option Loc)) (cls : Nat) (hs : MemOk s) : MemOk (State.fillLocs s ls cls) := by
  unfold State.fillLocs
  (try dsimp only)
  with_reducible repeat' first
      | assumption | apply State.fillLinear_memOk | refine foldl_memOk (fun _ _ _ => ?_) ?_
      | (simp only [MemOk_mk]; apply MemOk.wf) | split | intro _ _ | dsimp only
theorem State.moveBytes_memOk {s : State} (s0 : State) (bs : List CopyByte) (goes : Nat → Bool) (hs : MemOk s) : MemOk (State.moveBytes s s0 bs goes) := by
  unfold State.moveBytes
  (try dsimp only)
  with_reducible repeat' first
      | assumption | refine ite_ok (fun _ => ?_) (fun _ => ?_) | apply State.putByte_memOk
      | refine foldl_memOk (fun _ _ _ => ?_) ?_ | (simp only [MemOk_mk]; apply MemOk.wf) | split | intro _ _ | dsimp only
theorem State.runCopy_memOk {s : State} (t : Nat) (e : EngOp) (runs : List CopyRun) (hs : MemOk s) : MemOk (State.runCopy s t e runs) := by
  unfold State.runCopy
  (try dsimp only)
  with_reducible repeat' first
      | assumption | apply State.mapRuns_memOk | apply State.engFault_memOk | apply State.moveBytes_memOk | apply State.drew_memOk
      | apply State.engDone_memOk | (simp only [MemOk_mk]; apply MemOk.wf) | split | dsimp only
theorem State.copyPart_memOk {s : State} (t : Nat) (e : EngOp) (part : Nat) (hs : MemOk s) : MemOk (State.copyPart s t e part) := by
  unfold State.copyPart
  (try dsimp only)
  with_reducible repeat' first
      | assumption | refine ite_ok (fun _ => ?_) (fun _ => ?_) | apply State.mapRuns_memOk | apply State.moveBytes_memOk
      | apply State.onTeam_memOk | (simp only [MemOk_mk]; apply MemOk.wf) | intro _ _ | dsimp only
theorem State.reach_memOk {s : State} (t : Nat) (ps : List (W64 × Nat)) (h : MemOk s) : MemOk (s.reach t ps).2 := by
  induction ps generalizing s with
  | nil => exact h
  | cons p rest ih =>
    unfold State.reach
    refine ih ?_
    split
    · exact h
    · split
      · exact TransOk.elim (by assumption) (State.resolve_memOk _ _ _ h)
      · exact h
theorem State.fillRuns_memOk {s : State} (parts : List (W64 × Nat × Nat)) (policy : W32) (hs : MemOk s) : MemOk (State.fillRuns s parts policy) := by
  unfold State.fillRuns
  (try dsimp only)
  with_reducible repeat' first
      | assumption | apply State.fillLinear_memOk | refine foldl_memOk (fun _ _ _ => ?_) ?_ | intro _ _ | dsimp only
theorem State.flushRuns_memOk {s : State} (runs : List (Nat × Nat)) (hs : MemOk s) : MemOk (State.flushRuns s runs) := by
  unfold State.flushRuns
  (try dsimp only)
  with_reducible repeat' first | assumption | apply State.dropLines_memOk | (simp only [MemOk_mk]; apply MemOk.wf) | intro _ _ | dsimp only
theorem State.touchTile_memOk {s : State} (t : Nat) (num : Nat) (e : Entry) (flush : Bool) (policy : W32) (row : Nat) (col : Nat) (hs : MemOk s) : MemOk (State.touchTile s t num e flush policy row col) := by
  unfold State.touchTile
  (try dsimp only)
  with_reducible repeat' first
      | assumption | refine ite_ok (fun _ => ?_) (fun _ => ?_) | apply State.reach_memOk | apply State.flushRuns_memOk
      | apply State.fillTile_memOk | refine foldl_memOk (fun _ _ _ => ?_) ?_ | refine snd_memOk (by assumption) ?_
      | (simp only [MemOk_mk]; apply MemOk.wf) | split | intro _ _ | dsimp only
theorem State.runTouch_memOk {s : State} (t : Nat) (e : EngOp) (flush : Bool) (num : W64) (tile : W64) (size : W64) (policy : W32) (hs : MemOk s) : MemOk (State.runTouch s t e flush num tile size policy) := by
  unfold State.runTouch
  (try dsimp only)
  with_reducible repeat' first
      | assumption | refine ite_ok (fun _ => ?_) (fun _ => ?_) | apply State.reach_memOk | apply State.flushRuns_memOk
      | apply State.fillRuns_memOk | apply State.engDone_memOk | apply State.touchTile_memOk
      | refine foldl_memOk (fun _ _ _ => ?_) ?_ | refine snd_memOk (by assumption) ?_ | intro _ _ | dsimp only
theorem execCopyOperationComplete_memOk (team : Nat) (op : Nat) {s : State} (hs : MemOk s) : OutOk (execCopyOperationComplete team op s) := by
  unfold execCopyOperationComplete
  (try dsimp only)
  with_reducible repeat' first
      | assumption | apply OutOk.next | exact OutOk.fault _ | refine ite_ok (fun _ => ?_) (fun _ => ?_)
      | apply State.runCopy_memOk | apply State.reach_memOk | apply State.fillRuns_memOk | apply State.mapRuns_memOk
      | apply State.wreck_memOk | apply State.touchTile_memOk | apply State.runTouch_memOk
      | refine foldl_memOk (fun _ _ _ => ?_) ?_ | refine snd_memOk (by assumption) ?_ | (simp only [MemOk_mk]; apply MemOk.wf)
      | split | intro _ _ | dsimp only
theorem State.setRingWord_memOk {s : State} (core : Nat) (at_ : Space) (pa : Nat) (i : Nat) (v : Nat) (hs : MemOk s) : MemOk (State.setRingWord s core at_ pa i v) := by
  unfold State.setRingWord
  (try dsimp only)
  with_reducible repeat' first
      | assumption | apply State.onTeam_memOk | apply State.storeNat_memOk | apply State.refreshL1_memOk
      | (simp only [MemOk_mk]; apply MemOk.wf) | split | intro _ _ | dsimp only
theorem State.endRing_memOk {s : State} (r : StrandRef) (acq : Bool) (sd : Nat) (v : W64) (hs : MemOk s) : MemOk (State.endRing s r acq sd v) := by
  unfold State.endRing
  (try dsimp only)
  with_reducible repeat' first
      | assumption | refine ite_ok (fun _ => ?_) (fun _ => ?_) | apply State.onTeam_memOk | apply State.dropL1_memOk
      | apply State.onStrand_memOk | apply State.advance_memOk | apply State.wake_memOk | intro _ _ | dsimp only
theorem ringWord_memOk (fn : Nat) (d : BitVec 6) (a : BitVec 6) (three : Bool) {s : State} (hs : MemOk s) : OutOk (ringWord fn d a three s) := by
  unfold ringWord
  (try dsimp only)
  with_reducible repeat' first
      | assumption | exact ExcOk.error _ | apply ExcOk.ok | refine ExcOk.bind fun _ _ => ?_ | apply OutOk.next
      | exact OutOk.fault _ | apply OutOk.finish | refine ite_ok (fun _ => ?_) (fun _ => ?_) | apply finish_memOk
      | apply spotHere_memOk | apply State.onStrand_memOk | apply State.endRing_memOk | apply State.setRingWord_memOk
      | refine ExcPairOk.elim (by assumption) ?_ | refine OutOk.elim (by assumption) ?_ | (simp only [MemOk_mk]; apply MemOk.wf)
      | split | intro _ _ | dsimp only
theorem execRclaim_memOk (x1 : BitVec 4) (d : BitVec 6) (a : BitVec 6) {s : State} (hs : MemOk s) : OutOk (execRclaim x1 d a s) := by
  unfold execRclaim
  (try dsimp only)
  with_reducible repeat' first
      | assumption | apply OutOk.next | exact OutOk.fault _ | apply ringWord_memOk | refine OutOk.elim (by assumption) ?_
      | dsimp only
theorem execRcommit_memOk (x1 : BitVec 4) (d : BitVec 6) (a : BitVec 6) {s : State} (hs : MemOk s) : OutOk (execRcommit x1 d a s) := by
  unfold execRcommit
  (try dsimp only)
  with_reducible repeat' first
      | assumption | apply OutOk.next | exact OutOk.fault _ | apply ringWord_memOk | refine OutOk.elim (by assumption) ?_
      | dsimp only
theorem execRawait_memOk (x1 : BitVec 4) (d : BitVec 6) (a : BitVec 6) {s : State} (hs : MemOk s) : OutOk (execRawait x1 d a s) := by
  unfold execRawait
  (try dsimp only)
  with_reducible repeat' first
      | assumption | apply OutOk.next | exact OutOk.fault _ | apply ringWord_memOk | refine OutOk.elim (by assumption) ?_
      | dsimp only
theorem execRretire_memOk (x1 : BitVec 4) (d : BitVec 6) (a : BitVec 6) {s : State} (hs : MemOk s) : OutOk (execRretire x1 d a s) := by
  unfold execRretire
  (try dsimp only)
  with_reducible repeat' first
      | assumption | apply OutOk.next | exact OutOk.fault _ | apply ringWord_memOk | refine OutOk.elim (by assumption) ?_
      | dsimp only
theorem execRingWaitGrant_memOk (r : StrandRef) {s : State} (hs : MemOk s) : OutOk (execRingWaitGrant r s) := by
  unfold execRingWaitGrant
  (try dsimp only)
  with_reducible repeat' first
      | assumption | apply OutOk.next | exact OutOk.fault _ | refine ite_ok (fun _ => ?_) (fun _ => ?_)
      | apply State.takeTrap_memOk | apply State.setRingWord_memOk | apply State.endRing_memOk
      | (simp only [MemOk_mk]; apply MemOk.wf) | split | intro _ _ | dsimp only
theorem execIcinv_memOk (x1 : BitVec 4) (a : BitVec 6) {s : State} (hs : MemOk s) : OutOk (execIcinv x1 a s) := by
  unfold execIcinv
  (try dsimp only)
  with_reducible repeat' first
      | assumption | exact ExcOk.error _ | apply ExcOk.ok | refine ExcOk.bind fun _ _ => ?_ | apply OutOk.next
      | exact OutOk.fault _ | apply OutOk.finish | apply finish_memOk | apply afterRelease_memOk | apply State.dropCode_memOk
      | apply State.advance_memOk | refine ExcOk.elim (by assumption) ?_ | refine OutOk.elim (by assumption) ?_ | intro _ _
      | dsimp only
theorem readRun_memOk {s : State} (e : W64) (n : Nat) (align : Nat) (hs : MemOk s) : ExcPairOk (readRun s e n align) := by
  unfold readRun
  (try dsimp only)
  with_reducible repeat' first
      | assumption | exact ExcPairOk.error _ | apply ExcPairOk.ok | refine ExcPairOk.bind fun _ _ => ?_ | apply spotHere_memOk
      | refine ExcPairOk.elim (by assumption) ?_ | split | dsimp only
theorem readRanges_memOk {s : State} (e : W64) (n : Nat) (h : MemOk s) : ExcPairOk (readRanges s e n) := by
  induction n with
  | zero => exact ExcPairOk.ok h
  | succ n ih =>
    unfold readRanges
    refine ExcPairOk.bind (fun q hq => ?_)
    obtain ⟨l, s1⟩ := q
    refine ExcPairOk.bind (fun q' hq' => ?_)
    obtain ⟨b, s2⟩ := q'
    exact ExcPairOk.ok (ExcPairOk.elim hq' (readRun_memOk _ _ _ (ExcPairOk.elim hq ih)))
theorem readLaunch_memOk {s : State} (e : W64) (spawn : Bool) (hs : MemOk s) : ExcTripleOk (readLaunch s e spawn) := by
  unfold readLaunch
  (try dsimp only)
  with_reducible repeat' first
      | assumption | exact ExcPairOk.error _ | apply ExcPairOk.ok | refine ExcPairOk.bind fun _ _ => ?_
      | exact ExcTripleOk.error _ | apply ExcTripleOk.ok | refine ExcTripleOk.bind fun _ _ => ?_
      | refine ite_ok (fun _ => ?_) (fun _ => ?_) | apply readRun_memOk | apply readRanges_memOk
      | refine ExcPairOk.elim (by assumption) ?_ | (simp only [MemOk_mk]; apply MemOk.wf) | split | dsimp only
theorem State.newGrid_memOk {s : State} (G : Grid) (parent : W64) (ds : SMap W64) (sizes : SMap Nat) (hs : MemOk s) : OptPairOk (State.newGrid s G parent ds sizes) := by
  unfold State.newGrid
  (try dsimp only)
  with_reducible repeat' first
      | assumption | exact OptPairOk.none | apply OptPairOk.some | refine ite_ok (fun _ => ?_) (fun _ => ?_)
      | apply State.makeFrame_memOk | apply State.setRefs_memOk | apply State.setGrid_memOk
      | refine OptPairOk.elim (by assumption) ?_ | (simp only [MemOk_mk]; apply MemOk.wf) | split | dsimp only
theorem State.launchFrom_memOk {s : State} (L : Launch) (K : Kernel) (task : Bool) (job : Option (Space × Nat)) (hs : MemOk s) : OptPairOk (State.launchFrom s L K task job) := by
  unfold State.launchFrom
  (try dsimp only)
  with_reducible repeat' first
      | assumption | exact OptPairOk.none | apply OptPairOk.some | refine ite_ok (fun _ => ?_) (fun _ => ?_)
      | apply State.newGrid_memOk | refine OptPairOk.elim (by assumption) ?_ | (simp only [MemOk_mk]; apply MemOk.wf) | dsimp only
theorem State.handGrid_memOk {s : State} (g : Nat) (hs : MemOk s) : MemOk (State.handGrid s g) := by
  unfold State.handGrid
  (try dsimp only)
  with_reducible repeat' first
      | assumption | apply State.onGrid_memOk | refine foldl_memOk (fun _ _ _ => ?_) ?_ | (simp only [MemOk_mk]; apply MemOk.wf)
      | intro _ _ | dsimp only
theorem State.handOver_memOk {s : State} (t : Nat) (g : Nat) (hs : MemOk s) : MemOk (State.handOver s t g) := by
  unfold State.handOver
  (try dsimp only)
  with_reducible repeat' first
      | assumption | refine ite_ok (fun _ => ?_) (fun _ => ?_) | apply State.onTeam_memOk | apply State.onGrid_memOk
      | apply State.handGrid_memOk | (simp only [MemOk_mk]; apply MemOk.wf) | split | intro _ _ | dsimp only
theorem State.addChild_memOk {s : State} (pa : Nat) (n : Nat) (hs : MemOk s) : MemOk (State.addChild s pa n) := by
  unfold State.addChild
  (try dsimp only)
  with_reducible repeat' first | assumption | apply State.storeNat_memOk | dsimp only
theorem execLaunch_memOk (x1 : BitVec 4) (d : BitVec 6) (a : BitVec 6) {s : State} (hs : MemOk s) : OutOk (execLaunch x1 d a s) := by
  unfold execLaunch
  (try dsimp only)
  with_reducible repeat' first
      | assumption | exact ExcOk.error _ | apply ExcOk.ok | refine ExcOk.bind fun _ _ => ?_ | exact OptPairOk.none
      | apply OptPairOk.some | apply OutOk.next | exact OutOk.fault _ | apply OutOk.finish | apply finish_memOk
      | apply afterRelease_memOk | apply readLaunch_memOk | apply State.launchFrom_memOk | apply State.addChild_memOk
      | apply State.handOver_memOk | apply State.putSreg_memOk | apply State.advance_memOk | refine ExcOk.elim (by assumption) ?_
      | refine ExcTripleOk.elim (by assumption) ?_ | refine OptPairOk.elim (by assumption) ?_
      | refine OutOk.elim (by assumption) ?_ | (simp only [MemOk_mk]; apply MemOk.wf) | split | intro _ _ | dsimp only
theorem execWaitch_memOk (x : BitVec 4) (d : BitVec 6) {s : State} (hs : MemOk s) : OutOk (execWaitch x d s) := by
  have h1 := State.storeNat_memOk (s.mine.record + 8) 8 0 hs
  have h2 := State.advance_memOk (State.putSreg_memOk d (s.mem64 (s.mine.record + 8)) (State.dropL1_memOk s.mine.core h1))
  have h3 := State.waitIn_memOk .again hs
  unfold execWaitch
  refine OutOk.finish hs (ExcOk.bind fun _ _ => ?_)
  dsimp only
  refine ExcOk.bind fun _ _ => ?_
  split
  · exact ExcOk.ok h2
  · exact ExcOk.ok h3
theorem execRootLaunch_memOk (ctx : Nat) (desc : W64) {s : State} (hs : MemOk s) : OutOk (execRootLaunch ctx desc s) := by
  unfold execRootLaunch
  (try dsimp only)
  with_reducible repeat' first
      | assumption | exact OptPairOk.none | apply OptPairOk.some | apply OutOk.next | exact OutOk.fault _
      | refine ite_ok (fun _ => ?_) (fun _ => ?_) | apply State.newGrid_memOk | apply State.handGrid_memOk
      | refine OptPairOk.elim (by assumption) ?_ | (simp only [MemOk_mk]; apply MemOk.wf) | split | dsimp only
theorem State.succeed_memOk {s : State} (g : Nat) (hs : MemOk s) : MemOk (State.succeed s g) := by
  unfold State.succeed
  (try dsimp only)
  with_reducible repeat' first | assumption | apply State.handGrid_memOk | refine foldl_memOk (fun _ _ _ => ?_) ?_ | intro _ _ | dsimp only
theorem State.childEnds_memOk {s : State} (G : Grid) (hs : MemOk s) : MemOk (State.childEnds s G) := by
  unfold State.childEnds
  (try dsimp only)
  with_reducible repeat' first
      | assumption | refine ite_ok (fun _ => ?_) (fun _ => ?_) | apply State.addChild_memOk | apply State.storeNat_memOk
      | apply State.dropRecord_memOk | (simp only [MemOk_mk]; apply MemOk.wf) | split | dsimp only
theorem State.dropGrid_memOk {s : State} (g : Nat) (hs : MemOk s) : MemOk (State.dropGrid s g) := by
  unfold State.dropGrid
  (try dsimp only)
  with_reducible repeat' first
      | assumption | refine ite_ok (fun _ => ?_) (fun _ => ?_) | apply State.frameDies_memOk | apply State.setGrid_memOk
      | apply State.onCtx_memOk | (simp only [MemOk_mk]; apply MemOk.wf) | intro _ _ | dsimp only
theorem execGridEnd_memOk (grid : Nat) {s : State} (hs : MemOk s) : OutOk (execGridEnd grid s) := by
  unfold execGridEnd
  (try dsimp only)
  with_reducible repeat' first
      | assumption | apply OutOk.next | exact OutOk.fault _ | refine ite_ok (fun _ => ?_) (fun _ => ?_)
      | apply State.childEnds_memOk | apply State.dropGrid_memOk | apply State.succeed_memOk | dsimp only
theorem State.startTeam_memOk {s : State} (g : Nat) (lin : Nat) (rank : Nat) (cluster : List Nat) (p : Place) (hs : MemOk s) : OptOk (State.startTeam s g lin rank cluster p) := by
  unfold State.startTeam
  (try dsimp only)
  with_reducible repeat' first
      | assumption | exact OptOk.none | apply OptOk.some | exact OptPairOk.none | apply OptPairOk.some
      | apply State.takeFrame_memOk | apply State.store_memOk | apply State.setTeam_memOk | apply State.dropL1_memOk
      | apply State.wakeStripes_memOk | apply State.onCore_memOk | refine OptPairOk.elim (by assumption) ?_
      | (simp only [MemOk_mk]; apply MemOk.wf) | split | intro _ _ | dsimp only
theorem State.startUnit_memOk {s : State} (g first : Nat) (cluster : List Nat) (rank : Nat) (ps : List Place) (h : MemOk s) :
    OptOk (s.startUnit g first cluster rank ps) := by
  induction ps generalizing s rank with
  | nil => exact OptOk.some h
  | cons p rest ih =>
    unfold State.startUnit
    split
    · exact ih _ (OptOk.elim (by assumption) (State.startTeam_memOk _ _ _ _ _ h))
    · exact OptOk.none
theorem execUnitPlacement_memOk (grid : Nat) (places : List Place) {s : State} (hs : MemOk s) : OutOk (execUnitPlacement grid places s) := by
  unfold execUnitPlacement
  (try dsimp only)
  with_reducible repeat' first
      | assumption | apply OutOk.next | exact OutOk.fault _ | refine ite_ok (fun _ => ?_) (fun _ => ?_)
      | apply State.startUnit_memOk | apply State.onGrid_memOk | refine OptOk.elim (by assumption) ?_
      | (simp only [MemOk_mk]; apply MemOk.wf) | split | intro _ _ | dsimp only
theorem execGridUrgent_memOk (grid : Nat) {s : State} (hs : MemOk s) : OutOk (execGridUrgent grid s) := by
  unfold execGridUrgent
  (try dsimp only)
  with_reducible repeat' first
      | assumption | apply OutOk.next | exact OutOk.fault _ | refine ite_ok (fun _ => ?_) (fun _ => ?_) | apply State.onGrid_memOk
      | (simp only [MemOk_mk]; apply MemOk.wf) | intro _ _ | dsimp only
theorem State.putCtx_memOk {s : State} (ctx : Nat) (e : W64) (bs : List Byte) (h : MemOk s) : MemOk (s.putCtx ctx e bs) :=
  List.foldlRecOn (motive := fun acc : State × List Byte => MemOk acc.1) _ _ h fun acc hs p _ => by
    rcases s.walk ctx (va48 p.1) with _ | l
    · exact hs
    · exact State.store_memOk _ _ hs
theorem State.putRuns_memOk {s : State} (ctx : Nat) (base : W64) (runs : List (Nat × List Byte)) (hs : MemOk s) : MemOk (State.putRuns s ctx base runs) := by
  unfold State.putRuns
  (try dsimp only)
  with_reducible repeat' first | assumption | apply State.putCtx_memOk | refine foldl_memOk (fun _ _ _ => ?_) ?_ | intro _ _ | dsimp only
theorem State.spill_memOk {s : State} (ctx : Nat) (image : Nat) (b : Bank) (hs : MemOk s) : MemOk (State.spill s ctx image b) := by
  unfold State.spill
  (try dsimp only)
  with_reducible repeat' first
      | assumption | refine ite_ok (fun _ => ?_) (fun _ => ?_) | apply State.putRuns_memOk | apply State.drew_memOk | dsimp only
theorem execJobnew_memOk (x1 : BitVec 4) (d : BitVec 6) (a : BitVec 6) {s : State} (hs : MemOk s) : OutOk (execJobnew x1 d a s) := by
  unfold execJobnew
  (try dsimp only)
  with_reducible repeat' first
      | assumption | exact ExcOk.error _ | apply ExcOk.ok | refine ExcOk.bind fun _ _ => ?_ | apply OutOk.next
      | exact OutOk.fault _ | apply OutOk.finish | apply finish_memOk | apply spotHere_memOk | apply State.putSpot_memOk
      | apply State.refreshL1_memOk | apply State.putSreg_memOk | apply State.advance_memOk
      | refine ExcPairOk.elim (by assumption) ?_ | refine OutOk.elim (by assumption) ?_ | (simp only [MemOk_mk]; apply MemOk.wf)
      | split | dsimp only
theorem State.jobWord_memOk {s : State} (core : Nat) (at_ : Space) (pa : Nat) (i : Nat) (f : Nat → Nat) (hs : MemOk s) : MemOk (State.jobWord s core at_ pa i f) := by
  unfold State.jobWord
  (try dsimp only)
  with_reducible repeat' first
      | assumption | refine ite_ok (fun _ => ?_) (fun _ => ?_) | apply State.setRingWord_memOk | apply ringWord_memOk
      | refine OutOk.elim (by assumption) ?_ | dsimp only
theorem jobPoll_memOk {s : State} (at_ : Space) (pa : Nat) (d : BitVec 6) (hs : MemOk s) : ExcOk (jobPoll s at_ pa d) := by
  unfold jobPoll
  (try dsimp only)
  with_reducible repeat' first
      | assumption | exact ExcOk.error _ | apply ExcOk.ok | refine ExcOk.bind fun _ _ => ?_
      | refine ite_ok (fun _ => ?_) (fun _ => ?_) | apply ringWord_memOk | apply State.dropL1_memOk | apply State.putSreg_memOk
      | apply State.advance_memOk | apply State.waitIn_memOk | refine OutOk.elim (by assumption) ?_ | dsimp only
theorem execJobwait_memOk (x1 : BitVec 4) (d : BitVec 6) (a : BitVec 6) {s : State} (hs : MemOk s) : OutOk (execJobwait x1 d a s) := by
  unfold execJobwait
  (try dsimp only)
  with_reducible repeat' first
      | assumption | exact ExcOk.error _ | apply ExcOk.ok | refine ExcOk.bind fun _ _ => ?_ | apply OutOk.next
      | exact OutOk.fault _ | apply OutOk.finish | apply finish_memOk | apply jobPoll_memOk | apply spotHere_memOk
      | refine ExcOk.elim (by assumption) ?_ | refine ExcPairOk.elim (by assumption) ?_ | refine OutOk.elim (by assumption) ?_
      | (simp only [MemOk_mk]; apply MemOk.wf) | split | dsimp only
theorem State.push_memOk {s : State} (core : Nat) (g : Nat) (hs : MemOk s) : MemOk (State.push s core g) := by
  unfold State.push
  (try dsimp only)
  with_reducible repeat' first | assumption | apply State.onCore_memOk | (simp only [MemOk_mk]; apply MemOk.wf) | intro _ _ | dsimp only
theorem spawnPush_memOk {s : State} (g : Nat) (d : BitVec 6) (hs : MemOk s) : MemOk (spawnPush s g d) := by
  unfold spawnPush
  (try dsimp only)
  with_reducible repeat' first
      | assumption | apply State.push_memOk | apply State.putSreg_memOk | apply State.advance_memOk | apply State.waitIn_memOk
      | (simp only [MemOk_mk]; apply MemOk.wf) | split | dsimp only
theorem execSpawn_memOk (x1 : BitVec 4) (d : BitVec 6) (a : BitVec 6) {s : State} (hs : MemOk s) : OutOk (execSpawn x1 d a s) := by
  unfold execSpawn
  (try dsimp only)
  with_reducible repeat' first
      | assumption | exact ExcOk.error _ | apply ExcOk.ok | refine ExcOk.bind fun _ _ => ?_ | exact OptPairOk.none
      | apply OptPairOk.some | apply OutOk.next | exact OutOk.fault _ | apply OutOk.finish | apply finish_memOk
      | apply State.push_memOk | apply spawnPush_memOk | apply afterRelease_memOk | apply readLaunch_memOk | apply spotHere_memOk
      | apply State.launchFrom_memOk | apply State.jobWord_memOk | refine ExcOk.elim (by assumption) ?_
      | refine ExcPairOk.elim (by assumption) ?_ | refine ExcTripleOk.elim (by assumption) ?_
      | refine OptPairOk.elim (by assumption) ?_ | refine OutOk.elim (by assumption) ?_ | (simp only [MemOk_mk]; apply MemOk.wf)
      | split | intro _ _ | dsimp only
theorem execTaskDispatch_memOk (core : Nat) (place : Place) {s : State} (hs : MemOk s) : OutOk (execTaskDispatch core place s) := by
  unfold execTaskDispatch
  (try dsimp only)
  with_reducible repeat' first
      | assumption | apply OutOk.next | exact OutOk.fault _ | refine ite_ok (fun _ => ?_) (fun _ => ?_)
      | apply State.startTeam_memOk | apply State.onGrid_memOk | apply State.onCore_memOk | refine OptOk.elim (by assumption) ?_
      | (simp only [MemOk_mk]; apply MemOk.wf) | split | intro _ _ | dsimp only
theorem execTaskSteal_memOk (core : Nat) (victim : Nat) {s : State} (hs : MemOk s) : OutOk (execTaskSteal core victim s) := by
  unfold execTaskSteal
  (try dsimp only)
  with_reducible repeat' first
      | assumption | apply OutOk.next | exact OutOk.fault _ | refine ite_ok (fun _ => ?_) (fun _ => ?_) | apply State.onCore_memOk
      | (simp only [MemOk_mk]; apply MemOk.wf) | split | intro _ _ | dsimp only
theorem State.endTask_memOk {s : State} (t : Nat) (hs : MemOk s) : MemOk (State.endTask s t) := by
  unfold State.endTask
  (try dsimp only)
  with_reducible repeat' first | assumption | apply State.dropTeam_memOk | apply State.dropGrid_memOk | dsimp only
theorem State.jobEnds_memOk {s : State} (core : Nat) (job : Option (Space × Nat)) (killed : Bool) (hs : MemOk s) : MemOk (State.jobEnds s core job killed) := by
  unfold State.jobEnds
  (try dsimp only)
  with_reducible repeat' first
      | assumption | refine ite_ok (fun _ => ?_) (fun _ => ?_) | apply State.jobWord_memOk
      | (simp only [MemOk_mk]; apply MemOk.wf) | split | dsimp only
theorem execTaskRetire_memOk (team : Nat) {s : State} (hs : MemOk s) : OutOk (execTaskRetire team s) := by
  unfold execTaskRetire
  (try dsimp only)
  with_reducible repeat' first
      | assumption | apply OutOk.next | exact OutOk.fault _ | refine ite_ok (fun _ => ?_) (fun _ => ?_)
      | apply State.freeEngines_memOk | apply State.jobEnds_memOk | apply State.endTask_memOk
      | (simp only [MemOk_mk]; apply MemOk.wf) | intro _ _ | dsimp only
theorem State.laneFate_memOk {s : State} (t : Nat) (op : Nat) (ls : List LaneAcc) (hs : MemOk s) : MemOk (State.laneFate s t op ls) := by
  unfold State.laneFate
  (try dsimp only)
  with_reducible repeat' first
      | assumption | refine ite_ok (fun _ => ?_) (fun _ => ?_) | apply State.onTeam_memOk | apply State.accMoved_memOk
      | (simp only [MemOk_mk]; apply MemOk.wf) | split | intro _ _ | dsimp only
theorem execTranslationWalkComplete_memOk (team : Nat) (op : Nat) (lane : Nat) {s : State} (hs : MemOk s) : OutOk (execTranslationWalkComplete team op lane s) := by
  unfold execTranslationWalkComplete
  (try dsimp only)
  with_reducible repeat' first
      | assumption | apply OutOk.next | exact OutOk.fault _ | refine ite_ok (fun _ => ?_) (fun _ => ?_)
      | apply State.laneFate_memOk | apply State.resolve_memOk | apply State.onTeam_memOk | apply State.accMoved_memOk
      | refine TransOk.elim (by assumption) ?_ | (simp only [MemOk_mk]; apply MemOk.wf) | split | intro _ _ | dsimp only
theorem State.performLanes_memOk {s : State} (t : Nat) (a : AccessOp) (ls : List LaneAcc) (viaL1 : Bool) (hs : MemOk s) : MemOk (State.performLanes s t a ls viaL1) := by
  unfold State.performLanes
  (try dsimp only)
  with_reducible repeat' first
      | assumption | refine ite_ok (fun _ => ?_) (fun _ => ?_) | apply State.performAll_memOk | apply State.stampSc_memOk
      | apply State.store_memOk | apply State.clearPoison_memOk | apply State.onTeam_memOk | apply settled_memOk
      | apply State.dropL1_memOk | apply State.accMoved_memOk | refine foldl_memOk (fun _ _ _ => ?_) ?_
      | refine OutOk.elim (by assumption) ?_ | refine snd_memOk (by assumption) ?_ | (simp only [MemOk_mk]; apply MemOk.wf)
      | split | intro _ _ | dsimp only
theorem execMemoryAccessPerform_memOk (team : Nat) (op : Nat) (lane : Nat) (viaL1 : Bool) {s : State} (hs : MemOk s) : OutOk (execMemoryAccessPerform team op lane viaL1 s) := by
  unfold execMemoryAccessPerform
  (try dsimp only)
  with_reducible repeat' first
      | assumption | apply OutOk.next | exact OutOk.fault _ | refine ite_ok (fun _ => ?_) (fun _ => ?_)
      | apply State.performLanes_memOk | apply State.wreck_memOk | (simp only [MemOk_mk]; apply MemOk.wf) | split | dsimp only
theorem execScratchpadAccessPerform_memOk (team : Nat) (op : Nat) (lane : Nat) {s : State} (hs : MemOk s) : OutOk (execScratchpadAccessPerform team op lane s) := by
  unfold execScratchpadAccessPerform
  (try dsimp only)
  with_reducible repeat' first
      | assumption | apply OutOk.next | exact OutOk.fault _ | refine ite_ok (fun _ => ?_) (fun _ => ?_)
      | apply State.performLanes_memOk | apply State.wreck_memOk | (simp only [MemOk_mk]; apply MemOk.wf) | split | dsimp only
theorem execLoadComplete_memOk (team : Nat) (op : Nat) (lane : Nat) {s : State} (hs : MemOk s) : OutOk (execLoadComplete team op lane s) := by
  unfold execLoadComplete
  (try dsimp only)
  with_reducible repeat' first
      | assumption | apply OutOk.next | exact OutOk.fault _ | refine ite_ok (fun _ => ?_) (fun _ => ?_) | apply settled_memOk
      | apply State.onTeam_memOk | apply State.accMoved_memOk | refine foldl_memOk (fun _ _ _ => ?_) ?_
      | refine OutOk.elim (by assumption) ?_ | (simp only [MemOk_mk]; apply MemOk.wf) | split | intro _ _ | dsimp only
theorem execPageFaultPark_memOk (team : Nat) (op : Nat) {s : State} (hs : MemOk s) : OutOk (execPageFaultPark team op s) := by
  unfold execPageFaultPark
  (try dsimp only)
  with_reducible repeat' first
      | assumption | apply OutOk.next | exact OutOk.fault _ | refine ite_ok (fun _ => ?_) (fun _ => ?_) | apply settled_memOk
      | apply State.onStrand_memOk | apply State.onTeam_memOk | apply State.postRec_memOk | apply State.accMoved_memOk
      | refine foldl_memOk (fun _ _ _ => ?_) ?_ | refine OutOk.elim (by assumption) ?_ | (simp only [MemOk_mk]; apply MemOk.wf)
      | split | intro _ _ | dsimp only
theorem accWord_memOk {s : State} (la : BitVec 4) (w : AccWord) (p : W32) (addrs : State → Addrs) (check : Addrs → Except Stop Unit) (place : W64 → Option (Nat × Nat)) (spad : Bool) (coal : Bool) (hs : MemOk s) : ExcOk (accWord s la w p addrs check place spad coal) := by
  unfold accWord
  (try dsimp only)
  with_reducible repeat' first
      | assumption | exact ExcOk.error _ | apply ExcOk.ok | refine ExcOk.bind fun _ _ => ?_ | apply State.issue_memOk
      | (simp only [MemOk_mk]; apply MemOk.wf) | split | dsimp only
theorem spadWord_memOk {s : State} (la : BitVec 4) (w : AccWord) (k : BitVec 4) (cluster : Bool) (tags : Addrs → Except Stop Unit) (hs : MemOk s) : OutOk (spadWord s la w k cluster tags) := by
  unfold spadWord
  (try dsimp only)
  with_reducible repeat' first
      | assumption | exact ExcOk.error _ | apply ExcOk.ok | refine ExcOk.bind fun _ _ => ?_ | apply OutOk.next
      | exact OutOk.fault _ | refine ite_ok (fun _ => ?_) (fun _ => ?_) | apply access_memOk | apply accWord_memOk
      | refine ExcOk.elim (by assumption) ?_ | refine OutOk.elim (by assumption) ?_ | intro _ _ | dsimp only
theorem execLds_memOk (la : BitVec 4) (v : BitVec 7) (i : BitVec 7) (k : BitVec 4) (z : BitVec 2) {s : State} (hs : MemOk s) : OutOk (execLds la v i k z s) := by
  unfold execLds
  (try dsimp only)
  with_reducible repeat' first
      | assumption | exact ExcOk.error _ | apply ExcOk.ok | refine ExcOk.bind fun _ _ => ?_ | apply OutOk.next
      | exact OutOk.fault _ | apply spadWord_memOk | refine OutOk.elim (by assumption) ?_ | intro _ _ | dsimp only
theorem execSts_memOk (la : BitVec 4) (v : BitVec 7) (i : BitVec 7) (k : BitVec 4) (z : BitVec 2) {s : State} (hs : MemOk s) : OutOk (execSts la v i k z s) := by
  unfold execSts
  (try dsimp only)
  with_reducible repeat' first
      | assumption | exact ExcOk.error _ | apply ExcOk.ok | refine ExcOk.bind fun _ _ => ?_ | apply OutOk.next
      | exact OutOk.fault _ | apply State.store_memOk | apply spadWord_memOk | refine OutOk.elim (by assumption) ?_ | intro _ _
      | dsimp only
theorem execAtoms_memOk (la : BitVec 4) (v : BitVec 7) (h : BitVec 2) (i : BitVec 5) (k : BitVec 4) (g : BitVec 2) {s : State} (hs : MemOk s) : OutOk (execAtoms la v h i k g s) := by
  unfold execAtoms
  (try dsimp only)
  with_reducible repeat' first
      | assumption | exact ExcOk.error _ | apply ExcOk.ok | refine ExcOk.bind fun _ _ => ?_ | apply OutOk.next
      | exact OutOk.fault _ | apply spadWord_memOk | refine OutOk.elim (by assumption) ?_ | intro _ _ | dsimp only
theorem execCass_memOk (la : BitVec 4) (v : BitVec 7) (i : BitVec 7) (k : BitVec 4) (z : BitVec 2) {s : State} (hs : MemOk s) : OutOk (execCass la v i k z s) := by
  unfold execCass
  (try dsimp only)
  with_reducible repeat' first
      | assumption | exact ExcOk.error _ | apply ExcOk.ok | refine ExcOk.bind fun _ _ => ?_ | apply OutOk.next
      | exact OutOk.fault _ | apply spadWord_memOk | refine OutOk.elim (by assumption) ?_ | intro _ _ | dsimp only
theorem execLdsc_memOk (la : BitVec 4) (v : BitVec 7) (i : BitVec 7) (k : BitVec 4) (z : BitVec 2) {s : State} (hs : MemOk s) : OutOk (execLdsc la v i k z s) := by
  unfold execLdsc
  (try dsimp only)
  with_reducible repeat' first
      | assumption | exact ExcOk.error _ | apply ExcOk.ok | refine ExcOk.bind fun _ _ => ?_ | apply OutOk.next
      | exact OutOk.fault _ | apply spadWord_memOk | refine OutOk.elim (by assumption) ?_ | intro _ _ | dsimp only
theorem execStsc_memOk (la : BitVec 4) (v : BitVec 7) (i : BitVec 7) (k : BitVec 4) (z : BitVec 2) {s : State} (hs : MemOk s) : OutOk (execStsc la v i k z s) := by
  unfold execStsc
  (try dsimp only)
  with_reducible repeat' first
      | assumption | exact ExcOk.error _ | apply ExcOk.ok | refine ExcOk.bind fun _ _ => ?_ | apply OutOk.next
      | exact OutOk.fault _ | apply State.store_memOk | apply spadWord_memOk | refine OutOk.elim (by assumption) ?_ | intro _ _
      | dsimp only
theorem execWaits_memOk {s : State} (hs : MemOk s) : OutOk (execWaits s) := by
  unfold execWaits
  (try dsimp only)
  with_reducible repeat' first
      | assumption | apply OutOk.next | exact OutOk.fault _ | refine ite_ok (fun _ => ?_) (fun _ => ?_)
      | apply State.advance_memOk | apply State.waitIn_memOk | (simp only [MemOk_mk]; apply MemOk.wf) | split | intro _ _
      | dsimp only
theorem globalWord_memOk {s : State} (la : BitVec 4) (w : AccWord) (k : BitVec 4) (ords : List Nat) (addrs : State → Addrs) (tags : Addrs → Except Stop Unit) (coal : State → Bool) (hs : MemOk s) : OutOk (globalWord s la w k ords addrs tags coal) := by
  unfold globalWord
  (try dsimp only)
  with_reducible repeat' first
      | assumption | exact ExcOk.error _ | apply ExcOk.ok | refine ExcOk.bind fun _ _ => ?_ | apply OutOk.next
      | exact OutOk.fault _ | apply access_memOk | apply accWord_memOk | refine ExcOk.elim (by assumption) ?_
      | refine OutOk.elim (by assumption) ?_ | intro _ _ | dsimp only
theorem execLd_memOk (la : BitVec 4) (v : BitVec 7) (i : BitVec 7) (k : BitVec 4) (z : BitVec 2) {s : State} (hs : MemOk s) : OutOk (execLd la v i k z s) := by
  unfold execLd
  (try dsimp only)
  with_reducible repeat' first
      | assumption | apply OutOk.next | exact OutOk.fault _ | apply globalWord_memOk | refine OutOk.elim (by assumption) ?_
      | intro _ _ | dsimp only
theorem execSt_memOk (la : BitVec 4) (v : BitVec 7) (i : BitVec 7) (k : BitVec 4) (z : BitVec 2) {s : State} (hs : MemOk s) : OutOk (execSt la v i k z s) := by
  unfold execSt
  (try dsimp only)
  with_reducible repeat' first
      | assumption | apply OutOk.next | exact OutOk.fault _ | apply State.store_memOk | apply globalWord_memOk
      | refine OutOk.elim (by assumption) ?_ | intro _ _ | dsimp only
theorem execLdg_memOk (la : BitVec 4) (v : BitVec 7) (i : BitVec 7) (k : BitVec 4) (z : BitVec 2) {s : State} (hs : MemOk s) : OutOk (execLdg la v i k z s) := by
  unfold execLdg
  (try dsimp only)
  with_reducible repeat' first
      | assumption | apply OutOk.next | exact OutOk.fault _ | apply globalWord_memOk | refine OutOk.elim (by assumption) ?_
      | intro _ _ | dsimp only
theorem execStg_memOk (la : BitVec 4) (v : BitVec 7) (i : BitVec 7) (k : BitVec 4) (z : BitVec 2) {s : State} (hs : MemOk s) : OutOk (execStg la v i k z s) := by
  unfold execStg
  (try dsimp only)
  with_reducible repeat' first
      | assumption | apply OutOk.next | exact OutOk.fault _ | apply State.store_memOk | apply globalWord_memOk
      | refine OutOk.elim (by assumption) ?_ | intro _ _ | dsimp only
theorem execAtom_memOk (la : BitVec 4) (v : BitVec 7) (h : BitVec 2) (i : BitVec 5) (k : BitVec 4) (g : BitVec 2) {s : State} (hs : MemOk s) : OutOk (execAtom la v h i k g s) := by
  unfold execAtom
  (try dsimp only)
  with_reducible repeat' first
      | assumption | apply OutOk.next | exact OutOk.fault _ | refine ite_ok (fun _ => ?_) (fun _ => ?_) | apply globalWord_memOk
      | refine OutOk.elim (by assumption) ?_ | intro _ _ | dsimp only
theorem execCas_memOk (la : BitVec 4) (v : BitVec 7) (i : BitVec 7) (k : BitVec 4) (z : BitVec 2) {s : State} (hs : MemOk s) : OutOk (execCas la v i k z s) := by
  unfold execCas
  (try dsimp only)
  with_reducible repeat' first
      | assumption | apply OutOk.next | exact OutOk.fault _ | apply globalWord_memOk | refine OutOk.elim (by assumption) ?_
      | intro _ _ | dsimp only
theorem execFence_memOk (f : BitVec 4) {s : State} (hs : MemOk s) : OutOk (execFence f s) := by
  unfold execFence
  (try dsimp only)
  with_reducible repeat' first
      | assumption | apply OutOk.next | exact OutOk.fault _ | refine ite_ok (fun _ => ?_) (fun _ => ?_) | apply State.dropL1_memOk
      | apply State.advance_memOk | apply State.waitIn_memOk | (simp only [MemOk_mk]; apply MemOk.wf) | split | intro _ _
      | dsimp only
theorem State.prefetch_memOk {s : State} (t : Nat) (l1 : Bool) (p : W32) (es : List W64) (h : MemOk s) : MemOk (s.prefetch t l1 p es) := by
  induction es generalizing s with
  | nil => exact h
  | cons e rest ih => ?_
  refine ih (ite_ok (fun _ => h) fun _ => ?_)
  rcases e1 : s.resolve t e { r := true, w := false } with ⟨pa, s1⟩ | _
  · have h1 := State.fillLinear_memOk pa (evictionClass p e) (TransOk.elim e1 (State.resolve_memOk _ _ _ h))
    exact ite_ok (fun _ => State.readL1_memOk _ _ _ _ h1) (fun _ => h1)
  · exact h
theorem execPref_memOk (x1 : BitVec 4) (v : BitVec 7) (i : BitVec 7) (k : BitVec 4) {s : State} (hs : MemOk s) : OutOk (execPref x1 v i k s) := by
  unfold execPref
  (try dsimp only)
  with_reducible repeat' first
      | assumption | exact ExcOk.error _ | apply ExcOk.ok | refine ExcOk.bind fun _ _ => ?_ | apply OutOk.next
      | exact OutOk.fault _ | apply OutOk.finish | apply finish_memOk | apply State.prefetch_memOk | apply State.advance_memOk
      | refine OutOk.elim (by assumption) ?_ | intro _ _ | dsimp only
theorem frameWord_memOk {s : State} (la : BitVec 4) (w : AccWord) (e : BitVec 3) (tags : Addrs → Except Stop Unit) (hs : MemOk s) : OutOk (frameWord s la w e tags) := by
  unfold frameWord
  (try dsimp only)
  with_reducible repeat' first
      | assumption | exact ExcOk.error _ | apply ExcOk.ok | refine ExcOk.bind fun _ _ => ?_ | apply OutOk.next
      | exact OutOk.fault _ | apply access_memOk | apply accWord_memOk | refine ExcOk.elim (by assumption) ?_
      | refine OutOk.elim (by assumption) ?_ | (simp only [MemOk_mk]; apply MemOk.wf) | split | intro _ _ | dsimp only
theorem execLdl_memOk (la : BitVec 4) (v : BitVec 7) (i : BitVec 7) (e : BitVec 3) (z : BitVec 2) {s : State} (hs : MemOk s) : OutOk (execLdl la v i e z s) := by
  unfold execLdl
  (try dsimp only)
  with_reducible repeat' first
      | assumption | apply OutOk.next | exact OutOk.fault _ | apply frameWord_memOk | refine OutOk.elim (by assumption) ?_
      | intro _ _ | dsimp only
theorem execStl_memOk (la : BitVec 4) (v : BitVec 7) (i : BitVec 7) (e : BitVec 3) (z : BitVec 2) {s : State} (hs : MemOk s) : OutOk (execStl la v i e z s) := by
  unfold execStl
  (try dsimp only)
  with_reducible repeat' first
      | assumption | apply OutOk.next | exact OutOk.fault _ | apply State.store_memOk | apply frameWord_memOk
      | refine OutOk.elim (by assumption) ?_ | intro _ _ | dsimp only
theorem execAtoml_memOk (la : BitVec 4) (v : BitVec 7) (h : BitVec 2) (i : BitVec 5) (e : BitVec 3) (g : BitVec 2) {s : State} (hs : MemOk s) : OutOk (execAtoml la v h i e g s) := by
  unfold execAtoml
  (try dsimp only)
  with_reducible repeat' first
      | assumption | apply OutOk.next | exact OutOk.fault _ | apply frameWord_memOk | refine OutOk.elim (by assumption) ?_
      | intro _ _ | dsimp only
theorem execLeal_memOk (x1 : BitVec 4) (v : BitVec 7) (i : BitVec 7) (e : BitVec 3) {s : State} (hs : MemOk s) : OutOk (execLeal x1 v i e s) := by
  unfold execLeal
  (try dsimp only)
  with_reducible repeat' first
      | assumption | exact ExcOk.error _ | apply ExcOk.ok | refine ExcOk.bind fun _ _ => ?_ | apply OutOk.next
      | exact OutOk.fault _ | apply OutOk.finish | apply finish_memOk | apply State.onMine_memOk | apply State.advance_memOk
      | refine OutOk.elim (by assumption) ?_ | intro _ _ | dsimp only
theorem refWord_memOk {s : State} (la : BitVec 4) (store : Bool) (k : BitVec 4) (scalars : List (BitVec 6)) (srcs : List Nat) (dsts : List Nat) (addrs : State → Addrs) (tags : State → Addrs → Except Stop Unit) (data : State → Nat → W64) (dest : State → Dest) (hs : MemOk s) : OutOk (refWord s la store k scalars srcs dsts addrs tags data dest) := by
  unfold refWord
  (try dsimp only)
  with_reducible repeat' first
      | assumption | exact ExcOk.error _ | apply ExcOk.ok | refine ExcOk.bind fun _ _ => ?_ | apply OutOk.next
      | exact OutOk.fault _ | refine ite_ok (fun _ => ?_) (fun _ => ?_) | apply access_memOk | apply State.store_memOk
      | apply State.issue_memOk | refine OutOk.elim (by assumption) ?_ | (simp only [MemOk_mk]; apply MemOk.wf) | split
      | intro _ _ | dsimp only
theorem execLdref_memOk (la : BitVec 4) (v : BitVec 7) (i : BitVec 7) (k : BitVec 4) {s : State} (hs : MemOk s) : OutOk (execLdref la v i k s) := by
  unfold execLdref
  (try dsimp only)
  with_reducible repeat' first
      | assumption | apply OutOk.next | exact OutOk.fault _ | apply refWord_memOk | refine OutOk.elim (by assumption) ?_
      | intro _ _ | dsimp only
theorem execLdrefS_memOk (la : BitVec 4) (v : BitVec 6) (i : BitVec 7) (k : BitVec 4) {s : State} (hs : MemOk s) : OutOk (execLdrefS la v i k s) := by
  unfold execLdrefS
  (try dsimp only)
  with_reducible repeat' first
      | assumption | apply OutOk.next | exact OutOk.fault _ | apply refWord_memOk | refine OutOk.elim (by assumption) ?_
      | intro _ _ | dsimp only
theorem execStref_memOk (la : BitVec 4) (v : BitVec 7) (i : BitVec 7) (k : BitVec 4) {s : State} (hs : MemOk s) : OutOk (execStref la v i k s) := by
  unfold execStref
  (try dsimp only)
  with_reducible repeat' first
      | assumption | apply OutOk.next | exact OutOk.fault _ | apply refWord_memOk | refine OutOk.elim (by assumption) ?_
      | intro _ _ | dsimp only
theorem execStrefS_memOk (la : BitVec 4) (v : BitVec 6) (i : BitVec 7) (k : BitVec 4) {s : State} (hs : MemOk s) : OutOk (execStrefS la v i k s) := by
  unfold execStrefS
  (try dsimp only)
  with_reducible repeat' first
      | assumption | apply OutOk.next | exact OutOk.fault _ | apply refWord_memOk | refine OutOk.elim (by assumption) ?_
      | intro _ _ | dsimp only
theorem State.drawSpan_memOk {s : State} (size : Nat) (hs : MemOk s) : OptPairOk (State.drawSpan s size) := by
  unfold State.drawSpan
  (try dsimp only)
  with_reducible repeat' first
      | assumption | exact OptPairOk.none | apply OptPairOk.some | refine ite_ok (fun _ => ?_) (fun _ => ?_)
      | apply frameWord_memOk | apply State.setFrameWord_memOk | apply State.onMine_memOk | refine OutOk.elim (by assumption) ?_
      | intro _ _ | dsimp only
theorem State.allocate_memOk {s : State} (size : Nat) (hs : MemOk s) : OptPairOk (State.allocate s size) := by
  unfold State.allocate
  (try dsimp only)
  with_reducible repeat' first
      | assumption | exact OptPairOk.none | apply OptPairOk.some | refine ite_ok (fun _ => ?_) (fun _ => ?_)
      | apply State.onMine_memOk | apply State.drawSpan_memOk | refine OptPairOk.elim (by assumption) ?_
      | (simp only [MemOk_mk]; apply MemOk.wf) | split | intro _ _ | dsimp only
theorem State.forget_memOk {s : State} (core : Nat) (p : Spot) (hs : MemOk s) : MemOk (State.forget s core p) := by
  unfold State.forget
  (try dsimp only)
  with_reducible repeat' first
      | assumption | apply State.onCore_memOk | (simp only [MemOk_mk]; apply MemOk.wf) | split | intro _ _ | dsimp only
theorem execObjnew_memOk (x1 : BitVec 4) (d : BitVec 6) (a : BitVec 6) {s : State} (hs : MemOk s) : OutOk (execObjnew x1 d a s) := by
  unfold execObjnew
  (try dsimp only)
  with_reducible repeat' first
      | assumption | exact ExcOk.error _ | apply ExcOk.ok | refine ExcOk.bind fun _ _ => ?_ | exact OptPairOk.none
      | apply OptPairOk.some | apply OutOk.next | exact OutOk.fault _ | apply OutOk.finish
      | refine ite_ok (fun _ => ?_) (fun _ => ?_) | apply finish_memOk | apply State.allocate_memOk | apply State.putSreg_memOk
      | apply State.advance_memOk | apply spotHere_memOk | apply State.putSpot_memOk | apply State.forget_memOk
      | apply State.onMyStream_memOk | refine ExcPairOk.elim (by assumption) ?_ | refine OptPairOk.elim (by assumption) ?_
      | refine OutOk.elim (by assumption) ?_ | (simp only [MemOk_mk]; apply MemOk.wf) | split | intro _ _ | dsimp only
theorem execObjinfo_memOk (x1 : BitVec 4) (d : BitVec 6) (a : BitVec 6) {s : State} (hs : MemOk s) : OutOk (execObjinfo x1 d a s) := by
  unfold execObjinfo
  (try dsimp only)
  with_reducible repeat' first
      | assumption | exact ExcOk.error _ | apply ExcOk.ok | refine ExcOk.bind fun _ _ => ?_ | apply OutOk.next
      | exact OutOk.fault _ | apply OutOk.finish | refine ite_ok (fun _ => ?_) (fun _ => ?_) | apply finish_memOk
      | apply spotHere_memOk | apply State.readL1_memOk | apply State.readHome_memOk | apply State.putSreg_memOk
      | apply State.advance_memOk | refine ExcPairOk.elim (by assumption) ?_ | refine OutOk.elim (by assumption) ?_
      | (simp only [MemOk_mk]; apply MemOk.wf) | split | dsimp only
theorem State.setObjState_memOk {s : State} (pa : Nat) (st : Nat) (hs : MemOk s) : MemOk (State.setObjState s pa st) := by
  unfold State.setObjState
  (try dsimp only)
  with_reducible repeat' first | assumption | apply State.storeNat_memOk | dsimp only
theorem State.trace_memOk (t n : Nat) {s : State} (xs : List W64) (objs : List (W64 × Nat)) (list : List W64) (h : MemOk s) :
    MemOk (State.trace t n s xs objs list).st := by
  induction n generalizing s xs objs list with
  | zero => exact h
  | succ n ih => ?_
  cases xs
  case nil => exact h
  case cons x rest =>
  unfold State.trace
  refine ite_ok (P := fun r : Trace => MemOk r.st) (fun _ => h) fun _ => ?_
  rcases e1 : s.resolve t x { r := true, w := false } with ⟨pa, s1⟩ | _
  case fail => exact h
  have h1 := TransOk.elim e1 (State.resolve_memOk _ _ _ h)
  dsimp only
  refine ite_ok (P := fun r : Trace => MemOk r.st) (fun _ => h) fun _ => ?_
  refine ite_ok (P := fun r : Trace => MemOk r.st) (fun _ => ih _ _ _ h1) fun _ => ?_
  refine ite_ok (P := fun r : Trace => MemOk r.st) (fun _ => h) fun _ => ?_
  refine ite_ok (P := fun r : Trace => MemOk r.st) (fun _ => h) fun _ => ?_
  rcases e2 : s1.resolve t x { r := true, w := true } with ⟨pb, s2⟩ | _
  case fail => exact h
  have h2 := TransOk.elim e2 (State.resolve_memOk _ _ _ h1)
  dsimp only
  rcases e3 : s2.spotParts t { r := true, w := false } [] (pageParts 66 x (hdrSize (s1.mem64 pa))) with ⟨p, s3⟩ | _
  case fail => exact h
  have h3 := SpotOk.elim e3 (State.spotParts_memOk _ _ _ _ h2)
  cases p
  case mem =>
    have h4 := State.setObjState_memOk pa 1 h3
    dsimp only
    split
    · exact h
    · exact ih _ _ _ h4
  all_goals exact ih _ _ _ h3
theorem State.keepList_memOk {s : State} (ctx : Nat) (die : Nat) (list : List W64) (hs : MemOk s) : MemOk (State.keepList s ctx die list) := by
  unfold State.keepList
  (try dsimp only)
  with_reducible repeat' first
      | assumption | apply State.storeNat_memOk | refine foldl_memOk (fun _ _ _ => ?_) ?_ | (simp only [MemOk_mk]; apply MemOk.wf)
      | split | intro _ _ | dsimp only
theorem State.traced_memOk {s : State} (die : Nat) (t : Nat) (x : W64) (hs : MemOk s) : MemOk (State.traced s die t x).st := by
  unfold State.traced
  (try dsimp only)
  with_reducible repeat' first
      | assumption | apply State.trace_memOk | apply State.keepList_memOk | (simp only [MemOk_mk]; apply MemOk.wf) | dsimp only
theorem State.mark_memOk {s : State} (t : Nat) (objs : List (W64 × Nat)) (h : MemOk s) : MemOk (s.mark t objs).1 := by
  unfold State.mark
  refine List.foldlRecOn (motive := fun acc : State × Option W64 => MemOk acc.1) objs _ h fun acc hs o _ => ?_
  by_cases c : acc.1.poisoned o.2 8 = true
  · rw [if_pos c]
    exact hs
  · rw [if_neg c]
    exact State.onTeam_memOk _ (fun T => T.published o.1 (hdrSize (acc.1.mem64 o.2))) (State.setObjState_memOk o.2 2 hs)
theorem execPublish_memOk (la : BitVec 4) (a : BitVec 6) {s : State} (hs : MemOk s) : OutOk (execPublish la a s) := by
  unfold execPublish
  (try dsimp only)
  with_reducible repeat' first
      | assumption | exact ExcOk.error _ | apply ExcOk.ok | refine ExcOk.bind fun _ _ => ?_ | apply OutOk.next
      | exact OutOk.fault _ | apply OutOk.finish | apply finish_memOk | apply State.post_memOk
      | refine OutOk.elim (by assumption) ?_ | dsimp only
theorem State.storeSlot_memOk {s : State} (t : Nat) (m : W64) (x0 : W64) (hs : MemOk s) : MemOk (State.storeSlot s t m x0).1 := by
  unfold State.storeSlot
  (try dsimp only)
  with_reducible repeat' first
      | assumption | refine ite_ok (fun _ => ?_) (fun _ => ?_) | apply State.resolve_memOk | apply State.storeNat_memOk
      | apply State.fillLinear_memOk | refine TransOk.elim (by assumption) ?_ | (simp only [MemOk_mk]; apply MemOk.wf) | split
      | dsimp only
theorem State.dropRecs_memOk {s : State} (ctx : Nat) (gone : TrapRec → Bool) (hs : MemOk s) : MemOk (State.dropRecs s ctx gone) := by
  unfold State.dropRecs
  (try dsimp only)
  with_reducible repeat' first | assumption | apply State.onCtx_memOk | (simp only [MemOk_mk]; apply MemOk.wf) | intro _ _ | dsimp only
theorem State.dropDeferred_memOk {s : State} (t : Nat) (d : DeferredTrap) (hs : MemOk s) : MemOk (State.dropDeferred s t d) := by
  unfold State.dropDeferred
  (try dsimp only)
  with_reducible repeat' first | assumption | apply State.onTeam_memOk | (simp only [MemOk_mk]; apply MemOk.wf) | intro _ _ | dsimp only
theorem State.deferStep_memOk {s : State} (t : Nat) (d : DeferredTrap) (hs : MemOk s) : OptOk (State.deferStep s t d) := by
  unfold State.deferStep
  (try dsimp only)
  with_reducible repeat' first
      | assumption | exact OptOk.none | apply OptOk.some | refine ite_ok (fun _ => ?_) (fun _ => ?_)
      | apply State.dropDeferred_memOk | apply State.postAt_memOk | apply State.onStrand_memOk
      | (simp only [MemOk_mk]; apply MemOk.wf) | split | intro _ _ | dsimp only
theorem State.firstDefer_memOk (t : Nat) (ds : List DeferredTrap) {s : State} (h : MemOk s) : OptPairOk (s.firstDefer t ds) := by
  refine ds.rec OptPairOk.none (fun d rest ih => ?_)
  unfold State.firstDefer
  rcases h1 : s.deferStep t d with _ | s1
  · exact ih
  · exact OptPairOk.some (OptOk.elim h1 (State.deferStep_memOk _ _ h))
theorem execDeferredTrap_memOk (team : Nat) {s : State} (hs : MemOk s) : OutOk (execDeferredTrap team s) := by
  unfold execDeferredTrap
  (try dsimp only)
  with_reducible repeat' first
      | assumption | exact OptPairOk.none | apply OptPairOk.some | apply OutOk.next | exact OutOk.fault _
      | refine ite_ok (fun _ => ?_) (fun _ => ?_) | apply State.firstDefer_memOk | apply State.finishTeam_memOk
      | refine OptPairOk.elim (by assumption) ?_ | (simp only [MemOk_mk]; apply MemOk.wf) | split | intro _ _ | dsimp only
theorem execTrapQueueDrain_memOk (ctx : Nat) {s : State} (hs : MemOk s) : OutOk (execTrapQueueDrain ctx s) := by
  unfold execTrapQueueDrain
  (try dsimp only)
  with_reducible repeat' first
      | assumption | apply OutOk.next | exact OutOk.fault _ | refine ite_ok (fun _ => ?_) (fun _ => ?_)
      | apply State.writeRec_memOk | apply State.drew_memOk | (simp only [MemOk_mk]; apply MemOk.wf) | split | intro _ _
      | dsimp only
theorem State.giveUp_memOk {s : State} (r : StrandRef) (fill : Bool) (hs : MemOk s) : MemOk (State.giveUp s r fill) := by
  unfold State.giveUp
  (try dsimp only)
  with_reducible repeat' first
      | assumption | refine ite_ok (fun _ => ?_) (fun _ => ?_) | apply State.onTeam_memOk | apply State.onStrand_memOk
      | (simp only [MemOk_mk]; apply MemOk.wf) | split | intro _ _ | dsimp only
theorem State.edit_memOk {s : State} (r : StrandRef) (e : RegEdit) (hs : MemOk s) : MemOk (State.edit s r e) := by
  unfold State.edit
  (try dsimp only)
  with_reducible repeat' first
      | assumption | refine ite_ok (fun _ => ?_) (fun _ => ?_) | apply State.onTeam_memOk | (simp only [MemOk_mk]; apply MemOk.wf)
      | split | intro _ _ | dsimp only
theorem State.makeEdits_memOk {s : State} (q : TrapRec) (o : ResumeOpts) (hs : MemOk s) : MemOk (State.makeEdits s q o) := by
  unfold State.makeEdits
  (try dsimp only)
  with_reducible repeat' first | assumption | apply State.edit_memOk | refine foldl_memOk (fun _ _ _ => ?_) ?_ | intro _ _ | dsimp only
theorem State.direct_memOk {s : State} (q : TrapRec) (o : ResumeOpts) (hs : MemOk s) : MemOk (State.direct s q o) := by
  unfold State.direct
  (try dsimp only)
  with_reducible repeat' first
      | assumption | refine ite_ok (fun _ => ?_) (fun _ => ?_) | apply State.onStrand_memOk
      | (simp only [MemOk_mk]; apply MemOk.wf) | intro _ _ | dsimp only
theorem State.directSkip_memOk {s : State} (q : TrapRec) (o : ResumeOpts) (hs : MemOk s) : MemOk (State.directSkip s q o) := by
  unfold State.directSkip
  (try dsimp only)
  with_reducible repeat' first
      | assumption | refine ite_ok (fun _ => ?_) (fun _ => ?_) | apply State.direct_memOk | apply State.giveUp_memOk
      | apply State.onStrand_memOk | (simp only [MemOk_mk]; apply MemOk.wf) | intro _ _ | dsimp only
theorem State.release1_memOk {s : State} (ctx : Nat) (r : StrandRef) (hs : MemOk s) : MemOk (State.release1 s ctx r) := by
  unfold State.release1
  (try dsimp only)
  with_reducible repeat' first
      | assumption | refine ite_ok (fun _ => ?_) (fun _ => ?_) | apply State.onStrand_memOk
      | (simp only [MemOk_mk]; apply MemOk.wf) | intro _ _ | dsimp only
theorem State.resumeRec_memOk {s : State} (q : TrapRec) (skip : Bool) (o : ResumeOpts) (hs : MemOk s) : MemOk (State.resumeRec s q skip o) := by
  unfold State.resumeRec
  (try dsimp only)
  with_reducible repeat' first
      | assumption | refine ite_ok (fun _ => ?_) (fun _ => ?_) | apply State.dropRecs_memOk | apply State.onStrand_memOk
      | apply State.directSkip_memOk | apply State.direct_memOk | apply State.release1_memOk | apply State.accMoved_memOk
      | (simp only [MemOk_mk]; apply MemOk.wf) | split | intro _ _ | dsimp only
theorem State.killRec_memOk {s : State} (q : TrapRec) (hs : MemOk s) : MemOk (State.killRec s q) := by
  unfold State.killRec
  (try dsimp only)
  with_reducible repeat' first
      | assumption | refine ite_ok (fun _ => ?_) (fun _ => ?_) | apply State.dropRecs_memOk | apply State.onStrand_memOk
      | apply State.giveUp_memOk | apply State.markKilled_memOk | apply State.onTeam_memOk | apply State.endStrandOf_memOk
      | apply State.unmarkKilled_memOk | apply State.accMoved_memOk | (simp only [MemOk_mk]; apply MemOk.wf) | split | intro _ _
      | dsimp only
theorem State.killTeam_memOk {s : State} (q : TrapRec) (hs : MemOk s) : MemOk (State.killTeam s q) := by
  unfold State.killTeam
  (try dsimp only)
  with_reducible repeat' first
      | assumption | apply State.dropRecs_memOk | apply State.onTeam_memOk | apply State.retireTeam_memOk
      | (simp only [MemOk_mk]; apply MemOk.wf) | intro _ _ | dsimp only
theorem State.publishRec_memOk {s : State} (q : TrapRec) (o : ResumeOpts) (hs : MemOk s) : MemOk (State.publishRec s q o) := by
  unfold State.publishRec
  (try dsimp only)
  with_reducible repeat' first
      | assumption | refine ite_ok (fun _ => ?_) (fun _ => ?_) | apply State.onTeam_memOk | apply State.onCtx_memOk
      | (simp only [MemOk_mk]; apply MemOk.wf) | split | intro _ _ | dsimp only
theorem State.takeAct_memOk {s : State} (q : TrapRec) (a : ResumeAct) (o : ResumeOpts) (hs : MemOk s) : MemOk (State.takeAct s q a o) := by
  unfold State.takeAct
  (try dsimp only)
  with_reducible repeat' first
      | assumption | apply State.makeEdits_memOk | apply State.resumeRec_memOk | apply State.publishRec_memOk
      | apply State.killRec_memOk | apply State.killTeam_memOk | (simp only [MemOk_mk]; apply MemOk.wf) | split | dsimp only
theorem State.service_memOk {s : State} (ctx : Nat) (seq : Nat) (a : ResumeAct) (o : ResumeOpts) (hs : MemOk s) : OptOk (State.service s ctx seq a o) := by
  unfold State.service
  (try dsimp only)
  with_reducible repeat' first
      | assumption | exact OptOk.none | apply OptOk.some | refine ite_ok (fun _ => ?_) (fun _ => ?_) | apply State.dropRecs_memOk
      | apply State.onCtx_memOk | apply State.takeAct_memOk | (simp only [MemOk_mk]; apply MemOk.wf) | split | intro _ _
      | dsimp only
theorem State.pending_memOk {s : State} (ctx : Nat) (hs : MemOk s) : MemOk (State.pending s ctx) := by
  unfold State.pending
  (try dsimp only)
  with_reducible repeat' first
      | assumption | refine ite_ok (fun _ => ?_) (fun _ => ?_) | apply State.dropRecs_memOk | apply State.takeAct_memOk
      | refine foldl_memOk (fun _ _ _ => ?_) ?_ | (simp only [MemOk_mk]; apply MemOk.wf) | split | intro _ _ | dsimp only
theorem execResume_memOk (ctx : Nat) (seq : Nat) (opts : ResumeOpts) {s : State} (hs : MemOk s) : OutOk (execResume ctx seq opts s) := by
  unfold execResume
  (try dsimp only)
  with_reducible repeat' first
      | assumption | apply OptOk.getD | apply OutOk.next | exact OutOk.fault _ | apply State.service_memOk
      | refine OptOk.elim (by assumption) ?_ | dsimp only
theorem execSkip_memOk (ctx : Nat) (seq : Nat) (opts : ResumeOpts) {s : State} (hs : MemOk s) : OutOk (execSkip ctx seq opts s) := by
  unfold execSkip
  (try dsimp only)
  with_reducible repeat' first
      | assumption | apply OptOk.getD | apply OutOk.next | exact OutOk.fault _ | apply State.service_memOk
      | refine OptOk.elim (by assumption) ?_ | dsimp only
theorem execKill_memOk (ctx : Nat) (seq : Nat) {s : State} (hs : MemOk s) : OutOk (execKill ctx seq s) := by
  unfold execKill
  (try dsimp only)
  with_reducible repeat' first
      | assumption | apply OptOk.getD | apply OutOk.next | exact OutOk.fault _ | apply State.service_memOk
      | refine OptOk.elim (by assumption) ?_ | dsimp only
theorem execKillteam_memOk (ctx : Nat) (seq : Nat) {s : State} (hs : MemOk s) : OutOk (execKillteam ctx seq s) := by
  unfold execKillteam
  (try dsimp only)
  with_reducible repeat' first
      | assumption | apply OptOk.getD | apply OutOk.next | exact OutOk.fault _ | apply State.service_memOk
      | refine OptOk.elim (by assumption) ?_ | dsimp only
theorem State.setOptions_memOk {s : State} (ctx : Nat) (seq : Nat) (o : ResumeOpts) (hs : MemOk s) : MemOk (State.setOptions s ctx seq o) := by
  unfold State.setOptions
  (try dsimp only)
  with_reducible repeat' first
      | assumption | refine ite_ok (fun _ => ?_) (fun _ => ?_) | apply State.onCtx_memOk | (simp only [MemOk_mk]; apply MemOk.wf)
      | split | intro _ _ | dsimp only
theorem execResumePublish_memOk (ctx : Nat) (seq : Nat) {s : State} (hs : MemOk s) : OutOk (execResumePublish ctx seq s) := by
  unfold execResumePublish
  (try dsimp only)
  with_reducible repeat' first
      | assumption | apply OptOk.getD | apply OutOk.next | exact OutOk.fault _ | apply State.service_memOk
      | refine OptOk.elim (by assumption) ?_ | (simp only [MemOk_mk]; apply MemOk.wf) | split | dsimp only
theorem State.republished_memOk {s : State} (t : Nat) (e : EngOp) (ctx : Nat) (rank : Nat) (o : ResumeOpts) (f : Option UnitFault) (hs : MemOk s) : MemOk (State.republished s t e ctx rank o f) := by
  unfold State.republished
  (try dsimp only)
  with_reducible repeat' first
      | assumption | apply State.onTeam_memOk | apply State.makeEdits_memOk | apply State.resumeRec_memOk
      | apply State.finishTeam_memOk | apply State.dropRecs_memOk | apply State.postAt_memOk
      | (simp only [MemOk_mk]; apply MemOk.wf) | split | intro _ _ | dsimp only
theorem State.walked_memOk {s : State} (t : Nat) (e : EngOp) (f : Option UnitFault) (hs : MemOk s) : MemOk (State.walked s t e f) := by
  unfold State.walked
  (try dsimp only)
  with_reducible repeat' first
      | assumption | apply State.storeSlot_memOk | apply State.engFault_memOk | apply State.engDone_memOk
      | apply State.republished_memOk | refine fst_memOk (by assumption) ?_ | (simp only [MemOk_mk]; apply MemOk.wf) | split
      | intro _ _ | dsimp only
theorem State.walkNext_memOk {s : State} (die t : Nat) (e : EngOp) (xs : List W64) (h : MemOk s) : MemOk (s.walkNext die t e xs) := by
  unfold State.walkNext
  split
  · exact State.walked_memOk t e none h
  · rename_i x left
    have h1 := State.traced_memOk die t x h
    dsimp only
    split
    · exact State.walked_memOk _ _ _ (foldl_memOk (fun _ _ hs => State.setObjState_memOk _ _ hs) h1)
    · exact MemOk.of_wf h1.wf
theorem execPublicationWalk_memOk (die : Nat) {s : State} (hs : MemOk s) : OutOk (execPublicationWalk die s) := by
  unfold execPublicationWalk
  (try dsimp only)
  with_reducible repeat' first
      | assumption | apply OutOk.next | exact OutOk.fault _ | refine ite_ok (fun _ => ?_) (fun _ => ?_)
      | apply State.walkNext_memOk | apply State.mark_memOk | apply State.walked_memOk | refine fst_memOk (by assumption) ?_
      | (simp only [MemOk_mk]; apply MemOk.wf) | split | intro _ _ | dsimp only
theorem State.exchange_memOk {s : State} (core : Nat) (hs : MemOk s) : MemOk (State.exchange s core) := by
  unfold State.exchange
  (try dsimp only)
  with_reducible repeat' first
      | assumption | refine ite_ok (fun _ => ?_) (fun _ => ?_) | apply State.dropPrivate_memOk | apply State.onTeam_memOk
      | apply State.wakeStripes_memOk | apply State.onCore_memOk | apply State.dropL1_memOk
      | refine foldl_memOk (fun _ _ _ => ?_) ?_ | (simp only [MemOk_mk]; apply MemOk.wf) | intro _ _ | dsimp only
theorem execBankSwitch_memOk (cores : List Nat) {s : State} (hs : MemOk s) : OutOk (execBankSwitch cores s) := by
  unfold execBankSwitch
  (try dsimp only)
  with_reducible repeat' first
      | assumption | apply OutOk.next | exact OutOk.fault _ | refine ite_ok (fun _ => ?_) (fun _ => ?_)
      | apply State.exchange_memOk | apply State.pending_memOk | refine foldl_memOk (fun _ _ _ => ?_) ?_ | intro _ _ | dsimp only
theorem State.saveFault_memOk {s : State} (core : Nat) (ctx : Nat) (hs : MemOk s) : MemOk (State.saveFault s core ctx) := by
  unfold State.saveFault
  (try dsimp only)
  with_reducible repeat' first | assumption | apply State.onCore_memOk | (simp only [MemOk_mk]; apply MemOk.wf) | intro _ _ | dsimp only
theorem execSpillSave_memOk (core : Nat) {s : State} (hs : MemOk s) : OutOk (execSpillSave core s) := by
  unfold execSpillSave
  (try dsimp only)
  with_reducible repeat' first
      | assumption | apply OutOk.next | exact OutOk.fault _ | refine ite_ok (fun _ => ?_) (fun _ => ?_) | apply State.onCore_memOk
      | apply State.saveFault_memOk | apply State.spill_memOk | apply State.onQuad_memOk | apply State.onTeam_memOk
      | apply State.onCtx_memOk | apply State.gateStripes_memOk | refine foldl_memOk (fun _ _ _ => ?_) ?_
      | (simp only [MemOk_mk]; apply MemOk.wf) | split | intro _ _ | dsimp only
theorem State.moveWaits_memOk {s : State} (t : Nat) (fromQuad : Nat) (toQuad : Nat) (hs : MemOk s) : MemOk (State.moveWaits s t fromQuad toQuad) := by
  unfold State.moveWaits
  (try dsimp only)
  with_reducible repeat' first
      | assumption | refine ite_ok (fun _ => ?_) (fun _ => ?_) | apply State.onQuad_memOk | (simp only [MemOk_mk]; apply MemOk.wf)
      | intro _ _ | dsimp only
theorem execShadowLoad_memOk (core : Nat) (ctx : Nat) (image : Nat) (places : List (Nat × Place)) {s : State} (hs : MemOk s) : OutOk (execShadowLoad core ctx image places s) := by
  unfold execShadowLoad
  (try dsimp only)
  with_reducible repeat' first
      | assumption | apply OutOk.next | exact OutOk.fault _ | refine ite_ok (fun _ => ?_) (fun _ => ?_)
      | apply State.saveFault_memOk | apply State.moveWaits_memOk | apply State.onTeam_memOk | apply State.onCtx_memOk
      | apply State.onQuad_memOk | apply State.onCore_memOk | refine foldl_memOk (fun _ _ _ => ?_) ?_
      | (simp only [MemOk_mk]; apply MemOk.wf) | split | intro _ _ | dsimp only
theorem execWindowRestore_memOk (team : Nat) (rowset : Nat) {s : State} (hs : MemOk s) : OutOk (execWindowRestore team rowset s) := by
  unfold execWindowRestore
  (try dsimp only)
  with_reducible repeat' first
      | assumption | apply OutOk.next | exact OutOk.fault _ | refine ite_ok (fun _ => ?_) (fun _ => ?_) | apply State.onTeam_memOk
      | (simp only [MemOk_mk]; apply MemOk.wf) | intro _ _ | dsimp only
theorem execStripeWake_memOk (core : Nat) (stripe : Nat) {s : State} (hs : MemOk s) : OutOk (execStripeWake core stripe s) := by
  unfold execStripeWake
  (try dsimp only)
  with_reducible repeat' first
      | assumption | apply OutOk.next | exact OutOk.fault _ | refine ite_ok (fun _ => ?_) (fun _ => ?_) | apply State.onCore_memOk
      | (simp only [MemOk_mk]; apply MemOk.wf) | intro _ _ | dsimp only
theorem State.onStream_memOk {s : State} (r : StrandRef) (f : Stream → Stream) (hs : MemOk s) : MemOk (State.onStream s r f) := by
  unfold State.onStream
  (try dsimp only)
  with_reducible repeat' first | assumption | apply State.onTeam_memOk | intro _ _ | dsimp only
theorem State.answerCall_memOk {s : State} (r : StrandRef) (v : W64) (st : W64) (hs : MemOk s) : MemOk (State.answerCall s r v st) := by
  unfold State.answerCall
  (try dsimp only)
  with_reducible repeat' first
      | assumption | apply State.onStream_memOk | apply State.dropL1_memOk | apply State.onStrand_memOk
      | apply State.advance_memOk | apply State.wake_memOk | (simp only [MemOk_mk]; apply MemOk.wf) | intro _ _ | dsimp only
theorem State.answerUnassigned_memOk (n : Nat) {s : State} (r : StrandRef) (h : MemOk s) : MemOk (State.answerUnassigned n s r) := by
  induction n generalizing s with
  | zero => exact h
  | succ n ih =>
    unfold State.answerUnassigned
    split
    · exact ite_ok (fun _ => h) (fun _ => ih (State.answerCall_memOk _ _ _ h))
    · exact h
theorem State.endCall_memOk {s : State} (r : StrandRef) (v : W64) (st : W64) (hs : MemOk s) : MemOk (State.endCall s r v st) := by
  unfold State.endCall
  (try dsimp only)
  with_reducible repeat' first
      | assumption | apply State.answerCall_memOk | apply State.answerUnassigned_memOk | apply State.pending_memOk | dsimp only
theorem execSysc_memOk (n : BitVec 16) {s : State} (hs : MemOk s) : OutOk (execSysc n s) := by
  unfold execSysc
  (try dsimp only)
  with_reducible repeat' first
      | assumption | exact ExcOk.error _ | apply ExcOk.ok | refine ExcOk.bind fun _ _ => ?_ | apply OutOk.next
      | exact OutOk.fault _ | apply OutOk.finish | apply finish_memOk | apply afterRelease_memOk | apply State.onMyStream_memOk
      | apply State.onStrand_memOk | apply State.answerUnassigned_memOk | refine ExcOk.elim (by assumption) ?_
      | refine OutOk.elim (by assumption) ?_ | (simp only [MemOk_mk]; apply MemOk.wf) | intro _ _ | dsimp only
theorem callEvent_memOk {s f : State} (r : StrandRef) (n : Nat) (hf : MemOk f) (h : MemOk s) : OutOk (callEvent s r n f) := by
  unfold callEvent
  exact ite_ok (fun _ => OutOk.next hf) (fun _ => OutOk.next h)
theorem execNull_memOk (r : StrandRef) {s : State} (hs : MemOk s) : OutOk (execNull r s) := by
  unfold execNull
  (try dsimp only)
  with_reducible repeat' first
      | assumption | apply OutOk.next | exact OutOk.fault _ | apply callEvent_memOk | apply State.endCall_memOk
      | refine OutOk.elim (by assumption) ?_ | dsimp only
theorem State.writePtes_memOk {s : State} (ptes : List PteWrite) (hs : MemOk s) : MemOk (State.writePtes s ptes) := by
  unfold State.writePtes
  (try dsimp only)
  with_reducible repeat' first | assumption | apply State.storeNat_memOk | refine foldl_memOk (fun _ _ _ => ?_) ?_ | intro _ _ | dsimp only
theorem State.dropTlbs_memOk {s : State} (ctx : Nat) (va : Nat) (n : Nat) (hs : MemOk s) : MemOk (State.dropTlbs s ctx va n) := by
  unfold State.dropTlbs
  (try dsimp only)
  with_reducible repeat' first | assumption | (simp only [MemOk_mk]; apply MemOk.wf) | intro _ _ | dsimp only
theorem State.revokeIn_memOk {s : State} (ctx : Nat) (va : Nat) (n : Nat) (hs : MemOk s) : MemOk (State.revokeIn s ctx va n) := by
  unfold State.revokeIn
  (try dsimp only)
  with_reducible repeat' first
      | assumption | refine ite_ok (fun _ => ?_) (fun _ => ?_) | (simp only [MemOk_mk]; apply MemOk.wf) | intro _ _ | dsimp only
theorem execExtentRevoke_memOk (team : Nat) (index : Nat) {s : State} (hs : MemOk s) : OutOk (execExtentRevoke team index s) := by
  unfold execExtentRevoke
  (try dsimp only)
  with_reducible repeat' first
      | assumption | apply OutOk.next | exact OutOk.fault _ | refine ite_ok (fun _ => ?_) (fun _ => ?_) | apply State.onTeam_memOk
      | (simp only [MemOk_mk]; apply MemOk.wf) | split | intro _ _ | dsimp only
theorem execShootdown_memOk (ctx : Nat) (base : W64) (len : Nat) {s : State} (hs : MemOk s) : OutOk (execShootdown ctx base len s) := by
  unfold execShootdown
  (try dsimp only)
  with_reducible repeat' first
      | assumption | apply OutOk.next | exact OutOk.fault _ | refine ite_ok (fun _ => ?_) (fun _ => ?_)
      | apply State.dropTlbs_memOk | dsimp only
theorem execPageFaultService_memOk (ctx : Nat) (vpn : Nat) (ptes : List PteWrite) (copy : Option (Nat × Nat)) {s : State} (hs : MemOk s) : OutOk (execPageFaultService ctx vpn ptes copy s) := by
  unfold execPageFaultService
  (try dsimp only)
  with_reducible repeat' first
      | assumption | apply OutOk.next | exact OutOk.fault _ | refine ite_ok (fun _ => ?_) (fun _ => ?_)
      | apply State.revokeIn_memOk | apply State.dropTlbs_memOk | apply State.store_memOk | apply State.writePtes_memOk
      | (simp only [MemOk_mk]; apply MemOk.wf) | split | dsimp only
theorem execLog_memOk (r : StrandRef) {s : State} (hs : MemOk s) : OutOk (execLog r s) := by
  unfold execLog
  (try dsimp only)
  with_reducible repeat' first
      | assumption | apply OutOk.next | exact OutOk.fault _ | refine ite_ok (fun _ => ?_) (fun _ => ?_) | apply callEvent_memOk
      | apply State.onCtx_memOk | apply State.endCall_memOk | refine OutOk.elim (by assumption) ?_
      | (simp only [MemOk_mk]; apply MemOk.wf) | intro _ _ | dsimp only
theorem execTime_memOk (r : StrandRef) {s : State} (hs : MemOk s) : OutOk (execTime r s) := by
  unfold execTime
  (try dsimp only)
  with_reducible repeat' first
      | assumption | apply OutOk.next | exact OutOk.fault _ | apply callEvent_memOk | apply State.endCall_memOk
      | refine OutOk.elim (by assumption) ?_ | dsimp only
theorem State.zeroPages_memOk {s : State} (ctx : Nat) (pages : List Nat) (hs : MemOk s) : MemOk (State.zeroPages s ctx pages) := by
  unfold State.zeroPages
  (try dsimp only)
  with_reducible repeat' first
      | assumption | apply State.store_memOk | refine foldl_memOk (fun _ _ _ => ?_) ?_ | (simp only [MemOk_mk]; apply MemOk.wf)
      | split | intro _ _ | dsimp only
theorem execMap_memOk (r : StrandRef) (base : W64) (ptes : List PteWrite) {s : State} (hs : MemOk s) : OutOk (execMap r base ptes s) := by
  unfold execMap
  (try dsimp only)
  with_reducible repeat' first
      | assumption | apply OutOk.next | exact OutOk.fault _ | refine ite_ok (fun _ => ?_) (fun _ => ?_)
      | apply State.writePtes_memOk | apply State.endCall_memOk | apply State.zeroPages_memOk | dsimp only
theorem State.remap_memOk {s : State} (ctx : Nat) (e : W64) (n : Nat) (ptes : List PteWrite) (hs : MemOk s) : MemOk (State.remap s ctx e n ptes) := by
  unfold State.remap
  (try dsimp only)
  with_reducible repeat' first
      | assumption | apply State.revokeIn_memOk | apply State.writePtes_memOk | apply State.dropTlbs_memOk | dsimp only
theorem execUnmap_memOk (r : StrandRef) (ptes : List PteWrite) {s : State} (hs : MemOk s) : OutOk (execUnmap r ptes s) := by
  unfold execUnmap
  (try dsimp only)
  with_reducible repeat' first
      | assumption | apply OutOk.next | exact OutOk.fault _ | refine ite_ok (fun _ => ?_) (fun _ => ?_) | apply State.remap_memOk
      | apply State.endCall_memOk | intro _ _ | dsimp only
theorem execProtect_memOk (r : StrandRef) (ptes : List PteWrite) {s : State} (hs : MemOk s) : OutOk (execProtect r ptes s) := by
  unfold execProtect
  (try dsimp only)
  with_reducible repeat' first
      | assumption | apply OutOk.next | exact OutOk.fault _ | refine ite_ok (fun _ => ?_) (fun _ => ?_) | apply State.remap_memOk
      | apply State.endCall_memOk | intro _ _ | dsimp only
theorem execHandler_memOk (r : StrandRef) {s : State} (hs : MemOk s) : OutOk (execHandler r s) := by
  unfold execHandler
  (try dsimp only)
  with_reducible repeat' first
      | assumption | apply OutOk.next | exact OutOk.fault _ | refine ite_ok (fun _ => ?_) (fun _ => ?_) | apply callEvent_memOk
      | apply State.onCtx_memOk | apply State.endCall_memOk | refine OutOk.elim (by assumption) ?_
      | (simp only [MemOk_mk]; apply MemOk.wf) | split | intro _ _ | dsimp only
theorem execResumerec_memOk (r : StrandRef) {s : State} (hs : MemOk s) : OutOk (execResumerec r s) := by
  unfold execResumerec
  (try dsimp only)
  with_reducible repeat' first
      | assumption | apply OutOk.next | exact OutOk.fault _ | refine ite_ok (fun _ => ?_) (fun _ => ?_) | apply callEvent_memOk
      | apply State.service_memOk | apply State.endCall_memOk | refine OptOk.elim (by assumption) ?_
      | refine OutOk.elim (by assumption) ?_ | (simp only [MemOk_mk]; apply MemOk.wf) | split | intro _ _ | dsimp only
theorem execSetbypass_memOk (r : StrandRef) {s : State} (hs : MemOk s) : OutOk (execSetbypass r s) := by
  unfold execSetbypass
  (try dsimp only)
  with_reducible repeat' first
      | assumption | apply OutOk.next | exact OutOk.fault _ | refine ite_ok (fun _ => ?_) (fun _ => ?_) | apply callEvent_memOk
      | apply State.onCtx_memOk | apply State.endCall_memOk | refine OutOk.elim (by assumption) ?_
      | (simp only [MemOk_mk]; apply MemOk.wf) | intro _ _ | dsimp only
theorem execNotify_memOk (r : StrandRef) {s : State} (hs : MemOk s) : OutOk (execNotify r s) := by
  unfold execNotify
  (try dsimp only)
  with_reducible repeat' first
      | assumption | apply OutOk.next | exact OutOk.fault _ | apply callEvent_memOk | apply State.onCtx_memOk
      | apply State.endCall_memOk | refine OutOk.elim (by assumption) ?_ | (simp only [MemOk_mk]; apply MemOk.wf) | intro _ _
      | dsimp only
theorem State.killGrid_memOk {s : State} (g : Nat) (hs : MemOk s) : MemOk (State.killGrid s g) := by
  unfold State.killGrid
  (try dsimp only)
  with_reducible repeat' first
      | assumption | refine ite_ok (fun _ => ?_) (fun _ => ?_) | apply State.jobEnds_memOk | apply State.dropGrid_memOk
      | apply State.onGrid_memOk | (simp only [MemOk_mk]; apply MemOk.wf) | intro _ _ | dsimp only
theorem execExit_memOk (r : StrandRef) {s : State} (hs : MemOk s) : OutOk (execExit r s) := by
  unfold execExit
  (try dsimp only)
  with_reducible repeat' first
      | assumption | apply OutOk.next | exact OutOk.fault _ | apply callEvent_memOk | apply State.onCtx_memOk
      | apply State.killGrid_memOk | apply State.onTeam_memOk | apply State.retireTeam_memOk
      | refine foldl_memOk (fun _ _ _ => ?_) ?_ | refine OutOk.elim (by assumption) ?_ | (simp only [MemOk_mk]; apply MemOk.wf)
      | intro _ _ | dsimp only
theorem arithWord_memOk {s : State} (m : BitVec 3) (d : Nat) (srcs : List Nat) (fi : List Int → Int) (ff : List Val → Val × Flags) (hs : MemOk s) : ExcOk (arithWord s m d srcs fi ff) := by
  unfold arithWord
  (try dsimp only)
  with_reducible repeat' first
      | assumption | exact ExcOk.error _ | apply ExcOk.ok | refine ExcOk.bind fun _ _ => ?_
      | refine ite_ok (fun _ => ?_) (fun _ => ?_) | apply vecWord_memOk | refine ExcOk.elim (by assumption) ?_
      | (simp only [MemOk_mk]; apply MemOk.wf) | split | intro _ _ | dsimp only
theorem execVadd_memOk (m : BitVec 3) (d : BitVec 7) (a : BitVec 7) (b : BitVec 7) {s : State} (hs : MemOk s) : OutOk (execVadd m d a b s) := by
  unfold execVadd
  (try dsimp only)
  with_reducible repeat' first
      | assumption | exact ExcOk.error _ | apply ExcOk.ok | refine ExcOk.bind fun _ _ => ?_ | apply OutOk.next
      | exact OutOk.fault _ | apply OutOk.finish | apply finish_memOk | apply arithWord_memOk
      | refine ExcOk.elim (by assumption) ?_ | refine OutOk.elim (by assumption) ?_ | intro _ _ | dsimp only
theorem execVsub_memOk (m : BitVec 3) (d : BitVec 7) (a : BitVec 7) (b : BitVec 7) {s : State} (hs : MemOk s) : OutOk (execVsub m d a b s) := by
  unfold execVsub
  (try dsimp only)
  with_reducible repeat' first
      | assumption | exact ExcOk.error _ | apply ExcOk.ok | refine ExcOk.bind fun _ _ => ?_ | apply OutOk.next
      | exact OutOk.fault _ | apply OutOk.finish | apply finish_memOk | apply arithWord_memOk
      | refine ExcOk.elim (by assumption) ?_ | refine OutOk.elim (by assumption) ?_ | intro _ _ | dsimp only
theorem execVmul_memOk (m : BitVec 3) (d : BitVec 7) (a : BitVec 7) (b : BitVec 7) {s : State} (hs : MemOk s) : OutOk (execVmul m d a b s) := by
  unfold execVmul
  (try dsimp only)
  with_reducible repeat' first
      | assumption | exact ExcOk.error _ | apply ExcOk.ok | refine ExcOk.bind fun _ _ => ?_ | apply OutOk.next
      | exact OutOk.fault _ | apply OutOk.finish | apply finish_memOk | apply arithWord_memOk
      | refine ExcOk.elim (by assumption) ?_ | refine OutOk.elim (by assumption) ?_ | intro _ _ | dsimp only
theorem execVfma_memOk (m : BitVec 3) (d : BitVec 7) (a : BitVec 7) (b : BitVec 7) {s : State} (hs : MemOk s) : OutOk (execVfma m d a b s) := by
  unfold execVfma
  (try dsimp only)
  with_reducible repeat' first
      | assumption | exact ExcOk.error _ | apply ExcOk.ok | refine ExcOk.bind fun _ _ => ?_ | apply OutOk.next
      | exact OutOk.fault _ | apply OutOk.finish | apply finish_memOk | apply arithWord_memOk
      | refine ExcOk.elim (by assumption) ?_ | refine OutOk.elim (by assumption) ?_ | intro _ _ | dsimp only
theorem execVmin_memOk (d : BitVec 7) (a : BitVec 7) (b : BitVec 7) {s : State} (hs : MemOk s) : OutOk (execVmin d a b s) := by
  unfold execVmin
  (try dsimp only)
  with_reducible repeat' first
      | assumption | exact ExcOk.error _ | apply ExcOk.ok | refine ExcOk.bind fun _ _ => ?_ | apply OutOk.next
      | exact OutOk.fault _ | apply OutOk.finish | apply finish_memOk | apply arithWord_memOk
      | refine ExcOk.elim (by assumption) ?_ | refine OutOk.elim (by assumption) ?_ | intro _ _ | dsimp only
theorem execVmax_memOk (d : BitVec 7) (a : BitVec 7) (b : BitVec 7) {s : State} (hs : MemOk s) : OutOk (execVmax d a b s) := by
  unfold execVmax
  (try dsimp only)
  with_reducible repeat' first
      | assumption | exact ExcOk.error _ | apply ExcOk.ok | refine ExcOk.bind fun _ _ => ?_ | apply OutOk.next
      | exact OutOk.fault _ | apply OutOk.finish | apply finish_memOk | apply arithWord_memOk
      | refine ExcOk.elim (by assumption) ?_ | refine OutOk.elim (by assumption) ?_ | intro _ _ | dsimp only
theorem execVabs_memOk (m : BitVec 3) (d : BitVec 7) (a : BitVec 7) {s : State} (hs : MemOk s) : OutOk (execVabs m d a s) := by
  unfold execVabs
  (try dsimp only)
  with_reducible repeat' first
      | assumption | exact ExcOk.error _ | apply ExcOk.ok | refine ExcOk.bind fun _ _ => ?_ | apply OutOk.next
      | exact OutOk.fault _ | apply OutOk.finish | apply finish_memOk | apply arithWord_memOk
      | refine ExcOk.elim (by assumption) ?_ | refine OutOk.elim (by assumption) ?_ | intro _ _ | dsimp only
theorem execVneg_memOk (m : BitVec 3) (d : BitVec 7) (a : BitVec 7) {s : State} (hs : MemOk s) : OutOk (execVneg m d a s) := by
  unfold execVneg
  (try dsimp only)
  with_reducible repeat' first
      | assumption | exact ExcOk.error _ | apply ExcOk.ok | refine ExcOk.bind fun _ _ => ?_ | apply OutOk.next
      | exact OutOk.fault _ | apply OutOk.finish | apply finish_memOk | apply arithWord_memOk
      | refine ExcOk.elim (by assumption) ?_ | refine OutOk.elim (by assumption) ?_ | intro _ _ | dsimp only
theorem bitWord_memOk {s : State} (d : Nat) (srcs : List Nat) (f : List W32 → W32) (hs : MemOk s) : OutOk (bitWord s d srcs f) := by
  unfold bitWord
  (try dsimp only)
  with_reducible repeat' first
      | assumption | exact ExcOk.error _ | apply ExcOk.ok | refine ExcOk.bind fun _ _ => ?_ | apply OutOk.next
      | exact OutOk.fault _ | apply OutOk.finish | apply finish_memOk | apply vecWord_memOk | refine ExcOk.elim (by assumption) ?_
      | refine OutOk.elim (by assumption) ?_ | intro _ _ | dsimp only
theorem execVand_memOk (d : BitVec 7) (a : BitVec 7) (b : BitVec 7) {s : State} (hs : MemOk s) : OutOk (execVand d a b s) := by
  unfold execVand
  (try dsimp only)
  with_reducible repeat' first
      | assumption | apply OutOk.next | exact OutOk.fault _ | apply bitWord_memOk | refine OutOk.elim (by assumption) ?_
      | intro _ _ | dsimp only
theorem execVor_memOk (d : BitVec 7) (a : BitVec 7) (b : BitVec 7) {s : State} (hs : MemOk s) : OutOk (execVor d a b s) := by
  unfold execVor
  (try dsimp only)
  with_reducible repeat' first
      | assumption | apply OutOk.next | exact OutOk.fault _ | apply bitWord_memOk | refine OutOk.elim (by assumption) ?_
      | intro _ _ | dsimp only
theorem execVxor_memOk (d : BitVec 7) (a : BitVec 7) (b : BitVec 7) {s : State} (hs : MemOk s) : OutOk (execVxor d a b s) := by
  unfold execVxor
  (try dsimp only)
  with_reducible repeat' first
      | assumption | apply OutOk.next | exact OutOk.fault _ | apply bitWord_memOk | refine OutOk.elim (by assumption) ?_
      | intro _ _ | dsimp only
theorem execVnot_memOk (d : BitVec 7) (a : BitVec 7) {s : State} (hs : MemOk s) : OutOk (execVnot d a s) := by
  unfold execVnot
  (try dsimp only)
  with_reducible repeat' first
      | assumption | apply OutOk.next | exact OutOk.fault _ | apply bitWord_memOk | refine OutOk.elim (by assumption) ?_
      | intro _ _ | dsimp only
theorem codeWord_memOk {s : State} (d : Nat) (srcs : List Nat) (f : Nat → List Nat → Nat) (hs : MemOk s) : OutOk (codeWord s d srcs f) := by
  unfold codeWord
  (try dsimp only)
  with_reducible repeat' first
      | assumption | exact ExcOk.error _ | apply ExcOk.ok | refine ExcOk.bind fun _ _ => ?_ | apply OutOk.next
      | exact OutOk.fault _ | apply OutOk.finish | apply finish_memOk | apply vecWord_memOk | refine ExcOk.elim (by assumption) ?_
      | refine OutOk.elim (by assumption) ?_ | intro _ _ | dsimp only
theorem execVshl_memOk (d : BitVec 7) (a : BitVec 7) (b : BitVec 7) {s : State} (hs : MemOk s) : OutOk (execVshl d a b s) := by
  unfold execVshl
  (try dsimp only)
  with_reducible repeat' first
      | assumption | apply OutOk.next | exact OutOk.fault _ | refine ite_ok (fun _ => ?_) (fun _ => ?_) | apply codeWord_memOk
      | refine OutOk.elim (by assumption) ?_ | intro _ _ | dsimp only
theorem execVshr_memOk (d : BitVec 7) (a : BitVec 7) (b : BitVec 7) {s : State} (hs : MemOk s) : OutOk (execVshr d a b s) := by
  unfold execVshr
  (try dsimp only)
  with_reducible repeat' first
      | assumption | apply OutOk.next | exact OutOk.fault _ | refine ite_ok (fun _ => ?_) (fun _ => ?_) | apply codeWord_memOk
      | refine OutOk.elim (by assumption) ?_ | intro _ _ | dsimp only
theorem execVsra_memOk (d : BitVec 7) (a : BitVec 7) (b : BitVec 7) {s : State} (hs : MemOk s) : OutOk (execVsra d a b s) := by
  unfold execVsra
  (try dsimp only)
  with_reducible repeat' first
      | assumption | apply OutOk.next | exact OutOk.fault _ | apply codeWord_memOk | refine OutOk.elim (by assumption) ?_
      | intro _ _ | dsimp only
theorem execVmov_memOk (d : BitVec 7) (a : BitVec 7) {s : State} (hs : MemOk s) : OutOk (execVmov d a s) := by
  unfold execVmov
  (try dsimp only)
  with_reducible repeat' first
      | assumption | exact ExcOk.error _ | apply ExcOk.ok | refine ExcOk.bind fun _ _ => ?_ | apply OutOk.next
      | exact OutOk.fault _ | apply OutOk.finish | apply finish_memOk | apply vecWord_memOk | refine ExcOk.elim (by assumption) ?_
      | refine OutOk.elim (by assumption) ?_ | intro _ _ | dsimp only
theorem execVmovi_memOk (d : BitVec 7) (i : BitVec 10) {s : State} (hs : MemOk s) : OutOk (execVmovi d i s) := by
  unfold execVmovi
  (try dsimp only)
  with_reducible repeat' first
      | assumption | exact ExcOk.error _ | apply ExcOk.ok | refine ExcOk.bind fun _ _ => ?_ | apply OutOk.next
      | exact OutOk.fault _ | apply OutOk.finish | apply finish_memOk | apply vecWord_memOk | refine ExcOk.elim (by assumption) ?_
      | refine OutOk.elim (by assumption) ?_ | intro _ _ | dsimp only
theorem execViota_memOk (d : BitVec 7) (i : BitVec 10) {s : State} (hs : MemOk s) : OutOk (execViota d i s) := by
  unfold execViota
  (try dsimp only)
  with_reducible repeat' first
      | assumption | exact ExcOk.error _ | apply ExcOk.ok | refine ExcOk.bind fun _ _ => ?_ | apply OutOk.next
      | exact OutOk.fault _ | apply OutOk.finish | apply finish_memOk | apply vecWord_memOk | refine ExcOk.elim (by assumption) ?_
      | refine OutOk.elim (by assumption) ?_ | intro _ _ | dsimp only
theorem execVmovs_memOk (m : BitVec 3) (d : BitVec 7) (a : BitVec 6) {s : State} (hs : MemOk s) : OutOk (execVmovs m d a s) := by
  unfold execVmovs
  (try dsimp only)
  with_reducible repeat' first
      | assumption | exact ExcOk.error _ | apply ExcOk.ok | refine ExcOk.bind fun _ _ => ?_ | apply OutOk.next
      | exact OutOk.fault _ | apply OutOk.finish | refine ite_ok (fun _ => ?_) (fun _ => ?_) | apply finish_memOk
      | apply vecWord_memOk | refine ExcOk.elim (by assumption) ?_ | refine OutOk.elim (by assumption) ?_ | intro _ _ | dsimp only
theorem execVaddi_memOk (d : BitVec 7) (a : BitVec 7) (i : BitVec 10) {s : State} (hs : MemOk s) : OutOk (execVaddi d a i s) := by
  unfold execVaddi
  (try dsimp only)
  with_reducible repeat' first
      | assumption | apply OutOk.next | exact OutOk.fault _ | apply codeWord_memOk | refine OutOk.elim (by assumption) ?_
      | intro _ _ | dsimp only
theorem execVcmp_memOk (p : BitVec 3) (k : BitVec 3) (a : BitVec 7) (b : BitVec 7) (f : BitVec 4) {s : State} (hs : MemOk s) : OutOk (execVcmp p k a b f s) := by
  unfold execVcmp
  (try dsimp only)
  with_reducible repeat' first
      | assumption | exact ExcOk.error _ | apply ExcOk.ok | refine ExcOk.bind fun _ _ => ?_ | apply OutOk.next
      | exact OutOk.fault _ | apply OutOk.finish | refine ite_ok (fun _ => ?_) (fun _ => ?_) | apply finish_memOk
      | apply predWord_memOk | refine ExcOk.elim (by assumption) ?_ | refine OutOk.elim (by assumption) ?_
      | (simp only [MemOk_mk]; apply MemOk.wf) | split | intro _ _ | dsimp only
theorem plog_memOk {s : State} (d : BitVec 3) (srcs : List (BitVec 3)) (v : Mask) (hs : MemOk s) : OutOk (plog s d srcs v) := by
  unfold plog
  (try dsimp only)
  with_reducible repeat' first
      | assumption | exact ExcOk.error _ | apply ExcOk.ok | refine ExcOk.bind fun _ _ => ?_ | apply OutOk.next
      | exact OutOk.fault _ | apply OutOk.finish | apply finish_memOk | apply State.onMine_memOk | apply State.advance_memOk
      | refine OutOk.elim (by assumption) ?_ | intro _ _ | dsimp only
theorem execPand_memOk (d : BitVec 3) (a : BitVec 3) (b : BitVec 3) {s : State} (hs : MemOk s) : OutOk (execPand d a b s) := by
  unfold execPand
  (try dsimp only)
  with_reducible repeat' first
      | assumption | apply OutOk.next | exact OutOk.fault _ | apply plog_memOk | refine OutOk.elim (by assumption) ?_ | dsimp only
theorem execPor_memOk (d : BitVec 3) (a : BitVec 3) (b : BitVec 3) {s : State} (hs : MemOk s) : OutOk (execPor d a b s) := by
  unfold execPor
  (try dsimp only)
  with_reducible repeat' first
      | assumption | apply OutOk.next | exact OutOk.fault _ | apply plog_memOk | refine OutOk.elim (by assumption) ?_ | dsimp only
theorem execPnot_memOk (d : BitVec 3) (a : BitVec 3) {s : State} (hs : MemOk s) : OutOk (execPnot d a s) := by
  unfold execPnot
  (try dsimp only)
  with_reducible repeat' first
      | assumption | apply OutOk.next | exact OutOk.fault _ | apply plog_memOk | refine OutOk.elim (by assumption) ?_ | dsimp only
theorem execVsel_memOk (m : BitVec 3) (d : BitVec 7) (a : BitVec 7) (b : BitVec 7) {s : State} (hs : MemOk s) : OutOk (execVsel m d a b s) := by
  unfold execVsel
  (try dsimp only)
  with_reducible repeat' first
      | assumption | exact ExcOk.error _ | apply ExcOk.ok | refine ExcOk.bind fun _ _ => ?_ | apply OutOk.next
      | exact OutOk.fault _ | apply OutOk.finish | refine ite_ok (fun _ => ?_) (fun _ => ?_) | apply finish_memOk
      | apply vecWord_memOk | refine ExcOk.elim (by assumption) ?_ | refine OutOk.elim (by assumption) ?_ | intro _ _ | dsimp only
theorem execVdot_memOk (d : BitVec 7) (a : BitVec 7) (b : BitVec 7) {s : State} (hs : MemOk s) : OutOk (execVdot d a b s) := by
  unfold execVdot
  (try dsimp only)
  with_reducible repeat' first
      | assumption | exact ExcOk.error _ | apply ExcOk.ok | refine ExcOk.bind fun _ _ => ?_ | apply OutOk.next
      | exact OutOk.fault _ | apply OutOk.finish | refine ite_ok (fun _ => ?_) (fun _ => ?_) | apply finish_memOk
      | apply vecWord_memOk | refine foldl_memOk (fun _ _ _ => ?_) ?_ | refine ExcOk.elim (by assumption) ?_
      | refine OutOk.elim (by assumption) ?_ | (simp only [MemOk_mk]; apply MemOk.wf) | split | intro _ _ | dsimp only
theorem execVpopc_memOk (d : BitVec 7) (a : BitVec 7) {s : State} (hs : MemOk s) : OutOk (execVpopc d a s) := by
  unfold execVpopc
  (try dsimp only)
  with_reducible repeat' first
      | assumption | exact ExcOk.error _ | apply ExcOk.ok | refine ExcOk.bind fun _ _ => ?_ | apply OutOk.next
      | exact OutOk.fault _ | apply OutOk.finish | apply finish_memOk | apply vecWord_memOk | refine ExcOk.elim (by assumption) ?_
      | refine OutOk.elim (by assumption) ?_ | intro _ _ | dsimp only
theorem execVclz_memOk (d : BitVec 7) (a : BitVec 7) {s : State} (hs : MemOk s) : OutOk (execVclz d a s) := by
  unfold execVclz
  (try dsimp only)
  with_reducible repeat' first
      | assumption | exact ExcOk.error _ | apply ExcOk.ok | refine ExcOk.bind fun _ _ => ?_ | apply OutOk.next
      | exact OutOk.fault _ | apply OutOk.finish | refine ite_ok (fun _ => ?_) (fun _ => ?_) | apply finish_memOk
      | apply vecWord_memOk | refine ExcOk.elim (by assumption) ?_ | refine OutOk.elim (by assumption) ?_ | intro _ _ | dsimp only
theorem execVseed_memOk (a : BitVec 7) (b : BitVec 7) {s : State} (hs : MemOk s) : OutOk (execVseed a b s) := by
  unfold execVseed
  (try dsimp only)
  with_reducible repeat' first
      | assumption | exact ExcOk.error _ | apply ExcOk.ok | refine ExcOk.bind fun _ _ => ?_ | apply OutOk.next
      | exact OutOk.fault _ | apply OutOk.finish | refine ite_ok (fun _ => ?_) (fun _ => ?_) | apply finish_memOk
      | apply State.onMine_memOk | apply State.advance_memOk | refine OutOk.elim (by assumption) ?_ | intro _ _ | dsimp only
theorem execVrand_memOk (m : BitVec 3) (d : BitVec 7) {s : State} (hs : MemOk s) : OutOk (execVrand m d s) := by
  unfold execVrand
  (try dsimp only)
  with_reducible repeat' first
      | assumption | exact ExcOk.error _ | apply ExcOk.ok | refine ExcOk.bind fun _ _ => ?_ | apply OutOk.next
      | exact OutOk.fault _ | apply OutOk.finish | refine ite_ok (fun _ => ?_) (fun _ => ?_) | apply finish_memOk
      | apply vecWord_memOk | refine ExcOk.elim (by assumption) ?_ | refine OutOk.elim (by assumption) ?_ | intro _ _ | dsimp only
theorem execVcvt_memOk (t : BitVec 4) (d : BitVec 7) (a : BitVec 7) (r : BitVec 3) (sat : BitVec 1) (p : BitVec 2) {s : State} (hs : MemOk s) : OutOk (execVcvt t d a r sat p s) := by
  unfold execVcvt
  (try dsimp only)
  with_reducible repeat' first
      | assumption | exact ExcOk.error _ | apply ExcOk.ok | refine ExcOk.bind fun _ _ => ?_ | apply OutOk.next
      | exact OutOk.fault _ | apply OutOk.finish | refine ite_ok (fun _ => ?_) (fun _ => ?_) | apply finish_memOk
      | apply vecWord_memOk | refine ExcOk.elim (by assumption) ?_ | refine OutOk.elim (by assumption) ?_ | intro _ _ | dsimp only
theorem execVpack_memOk (t : BitVec 4) (d : BitVec 7) (a : BitVec 7) (sat : BitVec 1) (p : BitVec 2) {s : State} (hs : MemOk s) : OutOk (execVpack t d a sat p s) := by
  unfold execVpack
  (try dsimp only)
  with_reducible repeat' first
      | assumption | exact ExcOk.error _ | apply ExcOk.ok | refine ExcOk.bind fun _ _ => ?_ | apply OutOk.next
      | exact OutOk.fault _ | apply OutOk.finish | refine ite_ok (fun _ => ?_) (fun _ => ?_) | apply finish_memOk
      | apply vecWord_memOk | refine ExcOk.elim (by assumption) ?_ | refine OutOk.elim (by assumption) ?_
      | (simp only [MemOk_mk]; apply MemOk.wf) | split | intro _ _ | dsimp only
theorem execVunpk_memOk (t : BitVec 4) (d : BitVec 7) (a : BitVec 7) (p : BitVec 2) {s : State} (hs : MemOk s) : OutOk (execVunpk t d a p s) := by
  unfold execVunpk
  (try dsimp only)
  with_reducible repeat' first
      | assumption | exact ExcOk.error _ | apply ExcOk.ok | refine ExcOk.bind fun _ _ => ?_ | apply OutOk.next
      | exact OutOk.fault _ | apply OutOk.finish | refine ite_ok (fun _ => ?_) (fun _ => ?_) | apply finish_memOk
      | apply vecWord_memOk | refine ExcOk.elim (by assumption) ?_ | refine OutOk.elim (by assumption) ?_
      | (simp only [MemOk_mk]; apply MemOk.wf) | split | intro _ _ | dsimp only
theorem State.putWin_memOk {s : State} (u : Nat) (off : Nat) (bs : List Byte) (hs : MemOk s) : MemOk (State.putWin s u off bs) := by
  unfold State.putWin
  (try dsimp only)
  with_reducible repeat' first | assumption | refine ite_ok (fun _ => ?_) (fun _ => ?_) | apply State.onTeam_memOk | intro _ _ | dsimp only
theorem State.putRow_memOk {s : State} (x : Tensor) (k : Nat) (n : Nat) (codes : List Nat) (hs : MemOk s) : MemOk (State.putRow s x k n codes) := by
  unfold State.putRow
  (try dsimp only)
  with_reducible repeat' first | assumption | apply State.putWin_memOk | dsimp only
theorem State.answer_memOk {s : State} (r : StrandRef) (pd : BitVec 3) (v : Bool) (hs : MemOk s) : MemOk (State.answer s r pd v) := by
  unfold State.answer
  (try dsimp only)
  with_reducible repeat' first
      | assumption | refine ite_ok (fun _ => ?_) (fun _ => ?_) | apply State.onTeam_memOk | apply State.onStrand_memOk
      | apply State.advance_memOk | apply State.wake_memOk | intro _ _ | dsimp only
theorem State.acquire_memOk {s : State} (t : Nat) (n : Nat) (hs : MemOk s) : MemOk (State.acquire s t n) := by
  unfold State.acquire
  (try dsimp only)
  with_reducible repeat' first
      | assumption | apply State.setBank_memOk | apply State.onTeam_memOk | (simp only [MemOk_mk]; apply MemOk.wf) | intro _ _
      | dsimp only
theorem State.claim_memOk {s : State} (r : StrandRef) (n : Nat) (hs : MemOk s) : MemOk (State.claim s r n) := by
  unfold State.claim
  (try dsimp only)
  with_reducible repeat' first
      | assumption | apply State.onTeam_memOk | apply State.onStrand_memOk | refine foldl_memOk (fun _ _ _ => ?_) ?_
      | (simp only [MemOk_mk]; apply MemOk.wf) | intro _ _ | dsimp only
theorem State.dropReq_memOk {s : State} (q : RegReq) (hs : MemOk s) : MemOk (State.dropReq s q) := by
  unfold State.dropReq
  (try dsimp only)
  with_reducible repeat' first | assumption | apply State.setBank_memOk | (simp only [MemOk_mk]; apply MemOk.wf) | intro _ _ | dsimp only
theorem State.await_memOk {s : State} (q : RegReq) (hs : MemOk s) : MemOk (State.await s q) := by
  unfold State.await
  (try dsimp only)
  with_reducible repeat' first
      | assumption | apply State.setBank_memOk | apply State.onStrand_memOk | (simp only [MemOk_mk]; apply MemOk.wf) | intro _ _
      | dsimp only
theorem execRegacq_memOk (p : BitVec 3) (n : BitVec 4) {s : State} (hs : MemOk s) : OutOk (execRegacq p n s) := by
  unfold execRegacq
  (try dsimp only)
  with_reducible repeat' first
      | assumption | exact ExcOk.error _ | apply ExcOk.ok | refine ExcOk.bind fun _ _ => ?_ | apply OutOk.next
      | exact OutOk.fault _ | apply OutOk.finish | refine ite_ok (fun _ => ?_) (fun _ => ?_) | apply finish_memOk
      | apply State.claim_memOk | apply State.answer_memOk | apply State.acquire_memOk | apply State.await_memOk
      | refine OutOk.elim (by assumption) ?_ | intro _ _ | dsimp only
theorem execRegrel_memOk (p : BitVec 3) (n : BitVec 4) {s : State} (hs : MemOk s) : OutOk (execRegrel p n s) := by
  unfold execRegrel
  (try dsimp only)
  with_reducible repeat' first
      | assumption | exact ExcOk.error _ | apply ExcOk.ok | refine ExcOk.bind fun _ _ => ?_ | apply OutOk.next
      | exact OutOk.fault _ | apply OutOk.finish | refine ite_ok (fun _ => ?_) (fun _ => ?_) | apply finish_memOk
      | apply State.answer_memOk | apply State.onMine_memOk | apply State.setBank_memOk | refine OutOk.elim (by assumption) ?_
      | (simp only [MemOk_mk]; apply MemOk.wf) | intro _ _ | dsimp only
theorem execReggive_memOk (p : BitVec 3) (n : BitVec 4) {s : State} (hs : MemOk s) : OutOk (execReggive p n s) := by
  unfold execReggive
  (try dsimp only)
  with_reducible repeat' first
      | assumption | exact ExcOk.error _ | apply ExcOk.ok | refine ExcOk.bind fun _ _ => ?_ | apply OutOk.next
      | exact OutOk.fault _ | apply OutOk.finish | refine ite_ok (fun _ => ?_) (fun _ => ?_) | apply finish_memOk
      | apply State.answer_memOk | apply State.onStrand_memOk | apply State.onMine_memOk | refine OutOk.elim (by assumption) ?_
      | (simp only [MemOk_mk]; apply MemOk.wf) | intro _ _ | dsimp only
theorem execRegclaim_memOk (p : BitVec 3) (n : BitVec 4) {s : State} (hs : MemOk s) : OutOk (execRegclaim p n s) := by
  unfold execRegclaim
  (try dsimp only)
  with_reducible repeat' first
      | assumption | exact ExcOk.error _ | apply ExcOk.ok | refine ExcOk.bind fun _ _ => ?_ | apply OutOk.next
      | exact OutOk.fault _ | apply OutOk.finish | refine ite_ok (fun _ => ?_) (fun _ => ?_) | apply finish_memOk
      | apply State.claim_memOk | apply State.answer_memOk | apply State.await_memOk | refine OutOk.elim (by assumption) ?_
      | intro _ _ | dsimp only
theorem execVidx_memOk (x : BitVec 2) (a : BitVec 6) (i : BitVec 12) {s : State} (hs : MemOk s) : OutOk (execVidx x a i s) := by
  unfold execVidx
  (try dsimp only)
  with_reducible repeat' first
      | assumption | exact ExcOk.error _ | apply ExcOk.ok | refine ExcOk.bind fun _ _ => ?_ | apply OutOk.next
      | exact OutOk.fault _ | apply OutOk.finish | apply finish_memOk | apply State.onMyStream_memOk | apply State.advance_memOk
      | refine OutOk.elim (by assumption) ?_ | (simp only [MemOk_mk]; apply MemOk.wf) | intro _ _ | dsimp only
theorem execVrdx_memOk (x : BitVec 2) (d : BitVec 7) (a : BitVec 7) {s : State} (hs : MemOk s) : OutOk (execVrdx x d a s) := by
  unfold execVrdx
  (try dsimp only)
  with_reducible repeat' first
      | assumption | exact ExcOk.error _ | apply ExcOk.ok | refine ExcOk.bind fun _ _ => ?_ | apply OutOk.next
      | exact OutOk.fault _ | apply OutOk.finish | apply finish_memOk | apply vecWord_memOk | refine ExcOk.elim (by assumption) ?_
      | refine OutOk.elim (by assumption) ?_ | split | intro _ _ | dsimp only
theorem execVwrx_memOk (x : BitVec 2) (d : BitVec 7) (a : BitVec 7) {s : State} (hs : MemOk s) : OutOk (execVwrx x d a s) := by
  unfold execVwrx
  (try dsimp only)
  with_reducible repeat' first
      | assumption | exact ExcOk.error _ | apply ExcOk.ok | refine ExcOk.bind fun _ _ => ?_ | apply OutOk.next
      | exact OutOk.fault _ | apply OutOk.finish | apply finish_memOk | apply vecWord_memOk | refine ExcOk.elim (by assumption) ?_
      | refine OutOk.elim (by assumption) ?_ | split | intro _ _ | dsimp only
theorem execVtag_memOk (t : BitVec 4) (d : BitVec 7) (a : BitVec 7) {s : State} (hs : MemOk s) : OutOk (execVtag t d a s) := by
  unfold execVtag
  (try dsimp only)
  with_reducible repeat' first
      | assumption | exact ExcOk.error _ | apply ExcOk.ok | refine ExcOk.bind fun _ _ => ?_ | apply OutOk.next
      | exact OutOk.fault _ | apply OutOk.finish | apply finish_memOk | apply vecWord_memOk | refine ExcOk.elim (by assumption) ?_
      | refine OutOk.elim (by assumption) ?_ | intro _ _ | dsimp only
theorem execCandidateUrgent_memOk (r : StrandRef) {s : State} (hs : MemOk s) : OutOk (execCandidateUrgent r s) := by
  unfold execCandidateUrgent
  (try dsimp only)
  with_reducible repeat' first
      | assumption | apply OutOk.next | exact OutOk.fault _ | refine ite_ok (fun _ => ?_) (fun _ => ?_)
      | apply State.onStrand_memOk | (simp only [MemOk_mk]; apply MemOk.wf) | intro _ _ | dsimp only
theorem execYieldExpiry_memOk (r : StrandRef) {s : State} (hs : MemOk s) : OutOk (execYieldExpiry r s) := by
  unfold execYieldExpiry
  (try dsimp only)
  with_reducible repeat' first
      | assumption | apply OutOk.next | exact OutOk.fault _ | refine ite_ok (fun _ => ?_) (fun _ => ?_) | apply State.wake_memOk
      | dsimp only
theorem execQuotaDenial_memOk (core : Nat) {s : State} (hs : MemOk s) : OutOk (execQuotaDenial core s) := by
  unfold execQuotaDenial
  (try dsimp only)
  with_reducible repeat' first
      | assumption | apply OutOk.next | exact OutOk.fault _ | apply State.dropReq_memOk | apply State.answer_memOk
      | apply State.onCore_memOk | (simp only [MemOk_mk]; apply MemOk.wf) | split | intro _ _ | dsimp only
theorem execRegisterRequestGrant_memOk (core : Nat) (team : Option Nat) {s : State} (hs : MemOk s) : OutOk (execRegisterRequestGrant core team s) := by
  unfold execRegisterRequestGrant
  (try dsimp only)
  with_reducible repeat' first
      | assumption | apply OutOk.next | exact OutOk.fault _ | refine ite_ok (fun _ => ?_) (fun _ => ?_) | apply State.claim_memOk
      | apply State.dropReq_memOk | apply State.acquire_memOk | apply State.answer_memOk | (simp only [MemOk_mk]; apply MemOk.wf)
      | split | intro _ _ | dsimp only
theorem State.grantTiles_memOk {s : State} (t : Nat) (n : Nat) (hs : MemOk s) : MemOk (State.grantTiles s t n) := by
  unfold State.grantTiles
  (try dsimp only)
  with_reducible repeat' first
      | assumption | apply State.onQuad_memOk | apply State.onTeam_memOk | (simp only [MemOk_mk]; apply MemOk.wf) | intro _ _
      | dsimp only
theorem State.endMrsv_memOk {s : State} (quad : Nat) (w : MrsvReq) (v : Bool) (hs : MemOk s) : MemOk (State.endMrsv s quad w v) := by
  unfold State.endMrsv
  (try dsimp only)
  with_reducible repeat' first
      | assumption | apply State.onQuad_memOk | apply State.answer_memOk | (simp only [MemOk_mk]; apply MemOk.wf) | intro _ _
      | dsimp only
theorem execMrsv_memOk (p : BitVec 3) (n : BitVec 7) {s : State} (hs : MemOk s) : OutOk (execMrsv p n s) := by
  unfold execMrsv
  (try dsimp only)
  with_reducible repeat' first
      | assumption | exact ExcOk.error _ | apply ExcOk.ok | refine ExcOk.bind fun _ _ => ?_ | apply OutOk.next
      | exact OutOk.fault _ | apply OutOk.finish | refine ite_ok (fun _ => ?_) (fun _ => ?_) | apply finish_memOk
      | apply State.answer_memOk | apply State.grantTiles_memOk | apply State.onQuad_memOk | apply State.onStrand_memOk
      | refine OutOk.elim (by assumption) ?_ | (simp only [MemOk_mk]; apply MemOk.wf) | intro _ _ | dsimp only
theorem execMrsvGrant_memOk (quad : Nat) {s : State} (hs : MemOk s) : OutOk (execMrsvGrant quad s) := by
  unfold execMrsvGrant
  (try dsimp only)
  with_reducible repeat' first
      | assumption | apply OutOk.next | exact OutOk.fault _ | refine ite_ok (fun _ => ?_) (fun _ => ?_)
      | apply State.endMrsv_memOk | apply State.grantTiles_memOk | refine foldl_memOk (fun _ _ _ => ?_) ?_
      | (simp only [MemOk_mk]; apply MemOk.wf) | split | intro _ _ | dsimp only
theorem execMrsvTimeout_memOk (quad : Nat) (r : StrandRef) {s : State} (hs : MemOk s) : OutOk (execMrsvTimeout quad r s) := by
  unfold execMrsvTimeout
  (try dsimp only)
  with_reducible repeat' first
      | assumption | apply OutOk.next | exact OutOk.fault _ | refine ite_ok (fun _ => ?_) (fun _ => ?_)
      | apply State.endMrsv_memOk | (simp only [MemOk_mk]; apply MemOk.wf) | split | intro _ _ | dsimp only
theorem execMrel_memOk {s : State} (hs : MemOk s) : OutOk (execMrel s) := by
  unfold execMrel
  (try dsimp only)
  with_reducible repeat' first
      | assumption | apply OutOk.next | exact OutOk.fault _ | refine ite_ok (fun _ => ?_) (fun _ => ?_) | apply State.waitIn_memOk
      | apply State.onQuad_memOk | apply State.onMine_memOk | apply State.advance_memOk | (simp only [MemOk_mk]; apply MemOk.wf)
      | split | intro _ _ | dsimp only
theorem execMzero_memOk (la : BitVec 4) (k : BitVec 7) (t : BitVec 6) {s : State} (hs : MemOk s) : OutOk (execMzero la k t s) := by
  unfold execMzero
  (try dsimp only)
  with_reducible repeat' first
      | assumption | exact ExcOk.error _ | apply ExcOk.ok | refine ExcOk.bind fun _ _ => ?_ | apply OutOk.next
      | exact OutOk.fault _ | apply OutOk.finish | refine ite_ok (fun _ => ?_) (fun _ => ?_) | apply finish_memOk
      | apply State.onMine_memOk | apply State.post_memOk | refine OutOk.elim (by assumption) ?_
      | (simp only [MemOk_mk]; apply MemOk.wf) | split | intro _ _ | dsimp only
theorem mmaWord_memOk (sparse : Bool) (la : BitVec 4) (u : BitVec 1) (a : BitVec 7) (b : BitVec 6) (t : BitVec 6) {s : State} (hs : MemOk s) : OutOk (mmaWord sparse la u a b t s) := by
  unfold mmaWord
  (try dsimp only)
  with_reducible repeat' first
      | assumption | exact ExcOk.error _ | apply ExcOk.ok | refine ExcOk.bind fun _ _ => ?_ | apply OutOk.next
      | exact OutOk.fault _ | apply OutOk.finish | refine ite_ok (fun _ => ?_) (fun _ => ?_) | apply finish_memOk
      | apply State.post_memOk | refine OutOk.elim (by assumption) ?_ | (simp only [MemOk_mk]; apply MemOk.wf) | split | intro _ _
      | dsimp only
theorem execMma_memOk (la : BitVec 4) (u : BitVec 1) (a : BitVec 7) (b : BitVec 6) (t : BitVec 6) {s : State} (hs : MemOk s) : OutOk (execMma la u a b t s) := by
  unfold execMma
  (try dsimp only)
  with_reducible repeat' first
      | assumption | apply OutOk.next | exact OutOk.fault _ | apply mmaWord_memOk | refine OutOk.elim (by assumption) ?_
      | dsimp only
theorem execMmas_memOk (la : BitVec 4) (u : BitVec 1) (a : BitVec 7) (b : BitVec 6) (t : BitVec 6) {s : State} (hs : MemOk s) : OutOk (execMmas la u a b t s) := by
  unfold execMmas
  (try dsimp only)
  with_reducible repeat' first
      | assumption | apply OutOk.next | exact OutOk.fault _ | apply mmaWord_memOk | refine OutOk.elim (by assumption) ?_
      | dsimp only
theorem execMrd_memOk (la : BitVec 4) (a : BitVec 7) (b : BitVec 6) (t : BitVec 6) {s : State} (hs : MemOk s) : OutOk (execMrd la a b t s) := by
  unfold execMrd
  (try dsimp only)
  with_reducible repeat' first
      | assumption | exact ExcOk.error _ | apply ExcOk.ok | refine ExcOk.bind fun _ _ => ?_ | apply OutOk.next
      | exact OutOk.fault _ | apply OutOk.finish | refine ite_ok (fun _ => ?_) (fun _ => ?_) | apply finish_memOk
      | apply State.post_memOk | refine OutOk.elim (by assumption) ?_ | split | intro _ _ | dsimp only
theorem execMsta_memOk (la : BitVec 4) (sat : BitVec 1) (r : BitVec 3) (b : BitVec 6) (t : BitVec 6) {s : State} (hs : MemOk s) : OutOk (execMsta la sat r b t s) := by
  unfold execMsta
  (try dsimp only)
  with_reducible repeat' first
      | assumption | exact ExcOk.error _ | apply ExcOk.ok | refine ExcOk.bind fun _ _ => ?_ | apply OutOk.next
      | exact OutOk.fault _ | apply OutOk.finish | apply finish_memOk | apply State.post_memOk
      | refine OutOk.elim (by assumption) ?_ | split | dsimp only
theorem execMqnt_memOk (la : BitVec 4) (r : BitVec 3) (b : BitVec 6) {s : State} (hs : MemOk s) : OutOk (execMqnt la r b s) := by
  unfold execMqnt
  (try dsimp only)
  with_reducible repeat' first
      | assumption | exact ExcOk.error _ | apply ExcOk.ok | refine ExcOk.bind fun _ _ => ?_ | apply OutOk.next
      | exact OutOk.fault _ | apply OutOk.finish | apply finish_memOk | apply State.post_memOk
      | refine OutOk.elim (by assumption) ?_ | split | intro _ _ | dsimp only
theorem mpairWord_memOk (send : Bool) (la : BitVec 4) (p : BitVec 3) (b : BitVec 6) (t : BitVec 6) {s : State} (hs : MemOk s) : OutOk (mpairWord send la p b t s) := by
  unfold mpairWord
  (try dsimp only)
  with_reducible repeat' first
      | assumption | exact ExcOk.error _ | apply ExcOk.ok | refine ExcOk.bind fun _ _ => ?_ | apply OutOk.next
      | exact OutOk.fault _ | apply OutOk.finish | apply finish_memOk | apply State.post_memOk
      | refine OutOk.elim (by assumption) ?_ | split | dsimp only
theorem execMpairSend_memOk (la : BitVec 4) (p : BitVec 3) (b : BitVec 6) (t : BitVec 6) {s : State} (hs : MemOk s) : OutOk (execMpairSend la p b t s) := by
  unfold execMpairSend
  (try dsimp only)
  with_reducible repeat' first
      | assumption | apply OutOk.next | exact OutOk.fault _ | apply mpairWord_memOk | refine OutOk.elim (by assumption) ?_
      | dsimp only
theorem execMpairRecv_memOk (la : BitVec 4) (p : BitVec 3) (b : BitVec 6) (t : BitVec 6) {s : State} (hs : MemOk s) : OutOk (execMpairRecv la p b t s) := by
  unfold execMpairRecv
  (try dsimp only)
  with_reducible repeat' first
      | assumption | apply OutOk.next | exact OutOk.fault _ | apply mpairWord_memOk | refine OutOk.elim (by assumption) ?_
      | dsimp only
theorem execCbar_memOk {s : State} (hs : MemOk s) : OutOk (execCbar s) := by
  unfold execCbar
  (try dsimp only)
  with_reducible repeat' first
      | assumption | exact ExcOk.error _ | apply ExcOk.ok | refine ExcOk.bind fun _ _ => ?_ | apply OutOk.next
      | exact OutOk.fault _ | apply OutOk.finish | apply finish_memOk | apply State.arriveHere_memOk
      | refine ExcOk.elim (by assumption) ?_ | refine OutOk.elim (by assumption) ?_ | dsimp only
theorem State.newHead_memOk {s : State} (t : Nat) (hs : MemOk s) : MemOk (State.newHead s t) := by
  unfold State.newHead
  (try dsimp only)
  with_reducible repeat' first | assumption | apply State.onTeam_memOk | (simp only [MemOk_mk]; apply MemOk.wf) | intro _ _ | dsimp only
theorem State.putTile_memOk {s : State} (t : Nat) (e : EngOp) (kind : Nat) (tile : Nat) (r : List (Nat × Flags)) (hs : MemOk s) : MemOk (State.putTile s t e kind tile r) := by
  unfold State.putTile
  (try dsimp only)
  with_reducible repeat' first | assumption | apply State.onTeam_memOk | apply State.engDone_memOk | intro _ _ | dsimp only
theorem State.putRows_memOk {s : State} (x : Tensor) (k0 : Nat) (n0 : Nat) (rows : List (List Nat)) (hs : MemOk s) : MemOk (State.putRows s x k0 n0 rows) := by
  unfold State.putRows
  (try dsimp only)
  with_reducible repeat' first
      | assumption | refine ite_ok (fun _ => ?_) (fun _ => ?_) | apply State.putRow_memOk
      | refine foldl_memOk (fun _ _ _ => ?_) ?_ | intro _ _ | dsimp only
theorem State.putScales_memOk {s : State} (x : Tensor) (k0 : Nat) (n0 : Nat) (codes : List Nat) (hs : MemOk s) : MemOk (State.putScales s x k0 n0 codes) := by
  unfold State.putScales
  (try dsimp only)
  with_reducible repeat' first | assumption | refine ite_ok (fun _ => ?_) (fun _ => ?_) | apply State.putWin_memOk | intro _ _ | dsimp only
theorem State.runMsta_memOk {s : State} (t : Nat) (e : EngOp) (tile : Nat) (kind : Nat) (g : Nat) (mode : Nat) (sat : Bool) (coord : W64) (ent : Entry) (hs : MemOk s) : MemOk (State.runMsta s t e tile kind g mode sat coord ent) := by
  unfold State.runMsta
  (try dsimp only)
  with_reducible repeat' first
      | assumption | refine ite_ok (fun _ => ?_) (fun _ => ?_) | apply State.onTeam_memOk | apply State.putRows_memOk
      | apply State.engDone_memOk | apply State.putScales_memOk | refine foldl_memOk (fun _ _ _ => ?_) ?_
      | (simp only [MemOk_mk]; apply MemOk.wf) | split | intro _ _ | dsimp only
theorem State.runMqnt_memOk {s : State} (t : Nat) (e : EngOp) (mode : Nat) (coord : W64) (dcoord : W64) (src : Entry) (dst : Entry) (hs : MemOk s) : MemOk (State.runMqnt s t e mode coord dcoord src dst) := by
  unfold State.runMqnt
  (try dsimp only)
  with_reducible repeat' first
      | assumption | refine ite_ok (fun _ => ?_) (fun _ => ?_) | apply State.putRows_memOk | apply State.putScales_memOk
      | apply State.orFlagsOf_memOk | apply State.engDone_memOk | refine foldl_memOk (fun _ _ _ => ?_) ?_
      | (simp only [MemOk_mk]; apply MemOk.wf) | split | intro _ _ | dsimp only
theorem State.runMmas_memOk {s : State} (t : Nat) (e : EngOp) (tile : Nat) (tag : BitVec 4) (a : SMap W32) (coord : W64) (gc : Nat) (ent : Entry) (hs : MemOk s) : MemOk (State.runMmas s t e tile tag a coord gc ent) := by
  unfold State.runMmas
  (try dsimp only)
  with_reducible repeat' first
      | assumption | refine ite_ok (fun _ => ?_) (fun _ => ?_) | apply State.engFault_memOk | apply State.putTile_memOk
      | (simp only [MemOk_mk]; apply MemOk.wf) | split | intro _ _ | dsimp only
theorem State.runMatrix_memOk {s : State} (t : Nat) (e : EngOp) (hs : MemOk s) : MemOk (State.runMatrix s t e) := by
  unfold State.runMatrix
  (try dsimp only)
  with_reducible repeat' first
      | assumption | refine ite_ok (fun _ => ?_) (fun _ => ?_) | apply State.putTile_memOk | apply State.runMmas_memOk
      | apply State.onTeam_memOk | apply State.engDone_memOk | apply State.runMsta_memOk | apply State.runMqnt_memOk
      | apply State.onQuad_memOk | (simp only [MemOk_mk]; apply MemOk.wf) | split | intro _ _ | dsimp only
theorem execMatrixEngineGrant_memOk (quad : Nat) (team : Nat) {s : State} (hs : MemOk s) : OutOk (execMatrixEngineGrant quad team s) := by
  unfold execMatrixEngineGrant
  (try dsimp only)
  with_reducible repeat' first
      | assumption | apply OutOk.next | exact OutOk.fault _ | refine ite_ok (fun _ => ?_) (fun _ => ?_)
      | apply State.runMatrix_memOk | apply State.newHead_memOk | (simp only [MemOk_mk]; apply MemOk.wf) | split | intro _ _
      | dsimp only
theorem execEntryUrgent_memOk (quad : Nat) (team : Nat) {s : State} (hs : MemOk s) : OutOk (execEntryUrgent quad team s) := by
  unfold execEntryUrgent
  (try dsimp only)
  with_reducible repeat' first
      | assumption | apply OutOk.next | exact OutOk.fault _ | refine ite_ok (fun _ => ?_) (fun _ => ?_) | apply State.onTeam_memOk
      | (simp only [MemOk_mk]; apply MemOk.wf) | split | intro _ _ | dsimp only
theorem State.endHalf_memOk {s : State} (t : Nat) (e : EngOp) (ok : Bool) (hs : MemOk s) : MemOk (State.endHalf s t e ok) := by
  unfold State.endHalf
  (try dsimp only)
  with_reducible repeat' first
      | assumption | refine ite_ok (fun _ => ?_) (fun _ => ?_) | apply State.onTeam_memOk | apply State.onQuad_memOk
      | apply State.engDone_memOk | apply State.newHead_memOk | (simp only [MemOk_mk]; apply MemOk.wf) | split | intro _ _
      | dsimp only
theorem execPairMatch_memOk (sender : Nat) (sendOp : Nat) (receiver : Nat) (recvOp : Nat) {s : State} (hs : MemOk s) : OutOk (execPairMatch sender sendOp receiver recvOp s) := by
  unfold execPairMatch
  (try dsimp only)
  with_reducible repeat' first
      | assumption | apply OutOk.next | exact OutOk.fault _ | refine ite_ok (fun _ => ?_) (fun _ => ?_)
      | apply State.endHalf_memOk | apply State.onTeam_memOk | apply State.orFlagsOf_memOk
      | (simp only [MemOk_mk]; apply MemOk.wf) | split | intro _ _ | dsimp only
theorem execPairAbortTimeout_memOk (team : Nat) (op : Nat) {s : State} (hs : MemOk s) : OutOk (execPairAbortTimeout team op s) := by
  unfold execPairAbortTimeout
  (try dsimp only)
  with_reducible repeat' first
      | assumption | apply OutOk.next | exact OutOk.fault _ | refine ite_ok (fun _ => ?_) (fun _ => ?_)
      | apply State.endHalf_memOk | (simp only [MemOk_mk]; apply MemOk.wf) | split | dsimp only
theorem execFput_memOk (la : BitVec 4) (a : BitVec 6) {s : State} (hs : MemOk s) : OutOk (execFput la a s) := by
  unfold execFput
  (try dsimp only)
  with_reducible repeat' first
      | assumption | exact ExcOk.error _ | apply ExcOk.ok | refine ExcOk.bind fun _ _ => ?_ | apply OutOk.next
      | exact OutOk.fault _ | apply OutOk.finish | apply finish_memOk | apply State.post_memOk
      | refine OutOk.elim (by assumption) ?_ | dsimp only
theorem execFget_memOk (la : BitVec 4) (a : BitVec 6) {s : State} (hs : MemOk s) : OutOk (execFget la a s) := by
  unfold execFget
  (try dsimp only)
  with_reducible repeat' first
      | assumption | exact ExcOk.error _ | apply ExcOk.ok | refine ExcOk.bind fun _ _ => ?_ | apply OutOk.next
      | exact OutOk.fault _ | apply OutOk.finish | apply finish_memOk | apply State.post_memOk
      | refine OutOk.elim (by assumption) ?_ | dsimp only
theorem execFatom_memOk (la : BitVec 4) (a : BitVec 6) {s : State} (hs : MemOk s) : OutOk (execFatom la a s) := by
  unfold execFatom
  (try dsimp only)
  with_reducible repeat' first
      | assumption | exact ExcOk.error _ | apply ExcOk.ok | refine ExcOk.bind fun _ _ => ?_ | apply OutOk.next
      | exact OutOk.fault _ | apply OutOk.finish | refine ite_ok (fun _ => ?_) (fun _ => ?_) | apply finish_memOk
      | apply State.post_memOk | refine OutOk.elim (by assumption) ?_ | dsimp only
theorem execRenq_memOk (la : BitVec 4) (a : BitVec 6) {s : State} (hs : MemOk s) : OutOk (execRenq la a s) := by
  unfold execRenq
  (try dsimp only)
  with_reducible repeat' first
      | assumption | exact ExcOk.error _ | apply ExcOk.ok | refine ExcOk.bind fun _ _ => ?_ | apply OutOk.next
      | exact OutOk.fault _ | apply OutOk.finish | apply finish_memOk | apply State.post_memOk
      | refine OutOk.elim (by assumption) ?_ | dsimp only
theorem execColl_memOk (la : BitVec 4) (a : BitVec 6) {s : State} (hs : MemOk s) : OutOk (execColl la a s) := by
  unfold execColl
  (try dsimp only)
  with_reducible repeat' first
      | assumption | exact ExcOk.error _ | apply ExcOk.ok | refine ExcOk.bind fun _ _ => ?_ | apply OutOk.next
      | exact OutOk.fault _ | apply OutOk.finish | apply finish_memOk | apply State.post_memOk
      | refine OutOk.elim (by assumption) ?_ | dsimp only
theorem execFsig_memOk (la : BitVec 4) (a : BitVec 6) {s : State} (hs : MemOk s) : OutOk (execFsig la a s) := by
  unfold execFsig
  (try dsimp only)
  with_reducible repeat' first
      | assumption | exact ExcOk.error _ | apply ExcOk.ok | refine ExcOk.bind fun _ _ => ?_ | apply OutOk.next
      | exact OutOk.fault _ | apply OutOk.finish | apply finish_memOk | apply State.post_memOk
      | refine OutOk.elim (by assumption) ?_ | dsimp only
theorem State.localRun_memOk {s : State} (t : Nat) (e : W64) (n : Nat) (need : Need) (hs : MemOk s) : MemOk (State.localRun s t e n need).st := by
  unfold State.localRun
  (try dsimp only)
  with_reducible repeat' first
      | assumption | refine ite_ok (fun _ => ?_) (fun _ => ?_) | apply State.locate_memOk
      | refine foldl_memOk (fun _ _ _ => ?_) ?_ | (simp only [MemOk_mk]; apply MemOk.wf) | split | intro _ _ | dsimp only
theorem State.putLocs_memOk {s : State} (locs : List (Option Loc)) (bs : List Byte) (free : Option (Nat → Nat)) (hs : MemOk s) : MemOk (State.putLocs s locs bs free) := by
  unfold State.putLocs
  (try dsimp only)
  with_reducible repeat' first
      | assumption | refine ite_ok (fun _ => ?_) (fun _ => ?_) | apply State.putByte_memOk | apply State.drew_memOk
      | refine foldl_memOk (fun _ _ _ => ?_) ?_ | (simp only [MemOk_mk]; apply MemOk.wf) | split | intro _ _ | dsimp only
theorem State.putTarget_memOk {s : State} (l : List Nat) (bs : List Byte) (hs : MemOk s) : MemOk (State.putTarget s l bs) := by
  unfold State.putTarget
  (try dsimp only)
  with_reducible repeat' first | assumption | apply State.putLocs_memOk | apply State.fillLocs_memOk | dsimp only
theorem State.loopback_memOk {s : State} (t : Nat) (e : EngOp) (v : FabView) (hs : MemOk s) : OutOk (State.loopback s t e v) := by
  unfold State.loopback
  (try dsimp only)
  with_reducible repeat' first
      | assumption | apply OutOk.next | exact OutOk.fault _ | refine ite_ok (fun _ => ?_) (fun _ => ?_)
      | apply State.engFault_memOk | apply State.engDone_memOk | apply State.localRun_memOk | apply State.wreck_memOk
      | apply State.moveBytes_memOk | apply State.drew_memOk | apply State.fillLocs_memOk | apply State.putTarget_memOk
      | apply State.putLocs_memOk | (simp only [MemOk_mk]; apply MemOk.wf) | split | intro _ _ | dsimp only
theorem State.fabPart_memOk {s : State} (t : Nat) (e : EngOp) (v : FabView) (part : Nat) (hs : MemOk s) : MemOk (State.fabPart s t e v part) := by
  unfold State.fabPart
  (try dsimp only)
  with_reducible repeat' first
      | assumption | refine ite_ok (fun _ => ?_) (fun _ => ?_) | apply State.localRun_memOk | apply State.moveBytes_memOk
      | apply State.onTeam_memOk | (simp only [MemOk_mk]; apply MemOk.wf) | split | intro _ _ | dsimp only
theorem State.incoming_memOk {s : State} (group : Option W32) (addr : W64) (k : RemoteKind) (hs : MemOk s) : MemOk (State.incoming s group addr k) := by
  unfold State.incoming
  (try dsimp only)
  with_reducible repeat' first
      | assumption | refine ite_ok (fun _ => ?_) (fun _ => ?_) | apply State.putTarget_memOk | apply State.fillLocs_memOk
      | (simp only [MemOk_mk]; apply MemOk.wf) | split | intro _ _ | dsimp only
theorem execRemoteOperation_memOk (op : RemoteOp) {s : State} (hs : MemOk s) : OutOk (execRemoteOperation op s) := by
  unfold execRemoteOperation
  (try dsimp only)
  with_reducible repeat' first
      | assumption | apply OutOk.next | exact OutOk.fault _ | refine ite_ok (fun _ => ?_) (fun _ => ?_)
      | apply State.incoming_memOk | apply State.loopback_memOk | refine OutOk.elim (by assumption) ?_
      | (simp only [MemOk_mk]; apply MemOk.wf) | split | dsimp only
theorem State.endRemote_memOk {s : State} (t : Nat) (op : Nat) (killed : Bool) (hs : MemOk s) : MemOk (State.endRemote s t op killed) := by
  unfold State.endRemote
  (try dsimp only)
  with_reducible repeat' first
      | assumption | apply State.jobEnds_memOk | (simp only [MemOk_mk]; apply MemOk.wf) | split | intro _ _ | dsimp only
theorem State.fabResult_memOk {s : State} (t : Nat) (e : EngOp) (v : FabView) (res : FabricResult) (hs : MemOk s) : MemOk (State.fabResult s t e v res) := by
  unfold State.fabResult
  (try dsimp only)
  with_reducible repeat' first
      | assumption | refine ite_ok (fun _ => ?_) (fun _ => ?_) | apply State.engFault_memOk | apply State.engDone_memOk
      | apply State.localRun_memOk | apply State.putLocs_memOk | apply State.fillLocs_memOk | apply State.endRemote_memOk
      | (simp only [MemOk_mk]; apply MemOk.wf) | split | dsimp only
theorem State.collFault_memOk {s : State} (t : Nat) (e : EngOp) (v : FabView) (d : Nat) (hs : MemOk s) : MemOk (State.collFault s t e v d) := by
  unfold State.collFault
  (try dsimp only)
  with_reducible repeat' first | assumption | apply State.engFault_memOk | apply State.drew_memOk | dsimp only
theorem State.collDone_memOk {s : State} (t : Nat) (e : EngOp) (v : FabView) (res : FabricResult) (hs : MemOk s) : MemOk (State.collDone s t e v res) := by
  unfold State.collDone
  (try dsimp only)
  with_reducible repeat' first
      | assumption | refine ite_ok (fun _ => ?_) (fun _ => ?_) | apply State.localRun_memOk | apply State.engFault_memOk
      | apply State.collFault_memOk | apply State.putLocs_memOk | apply State.fillLocs_memOk | apply State.engDone_memOk
      | (simp only [MemOk_mk]; apply MemOk.wf) | split | intro _ _ | dsimp only
theorem execFabricOperationComplete_memOk (team : Nat) (op : Nat) (result : FabricResult) {s : State} (hs : MemOk s) : OutOk (execFabricOperationComplete team op result s) := by
  unfold execFabricOperationComplete
  (try dsimp only)
  with_reducible repeat' first
      | assumption | apply OutOk.next | exact OutOk.fault _ | refine ite_ok (fun _ => ?_) (fun _ => ?_)
      | apply State.collDone_memOk | apply State.fabResult_memOk | (simp only [MemOk_mk]; apply MemOk.wf) | split | dsimp only
theorem execCollJoinTimeout_memOk (team : Nat) (op : Nat) {s : State} (hs : MemOk s) : OutOk (execCollJoinTimeout team op s) := by
  unfold execCollJoinTimeout
  (try dsimp only)
  with_reducible repeat' first
      | assumption | apply OutOk.next | exact OutOk.fault _ | refine ite_ok (fun _ => ?_) (fun _ => ?_)
      | apply State.collFault_memOk | (simp only [MemOk_mk]; apply MemOk.wf) | split | dsimp only
theorem State.acceptColl_memOk {s : State} (t : Nat) (e : EngOp) (v : FabView) (hs : MemOk s) : OutOk (State.acceptColl s t e v) := by
  unfold State.acceptColl
  (try dsimp only)
  with_reducible repeat' first
      | assumption | apply OutOk.next | exact OutOk.fault _ | refine ite_ok (fun _ => ?_) (fun _ => ?_)
      | apply State.localRun_memOk | apply State.engFault_memOk | apply State.pending_memOk | apply State.collFault_memOk
      | apply State.onTeam_memOk | apply State.wreck_memOk | (simp only [MemOk_mk]; apply MemOk.wf) | split | intro _ _
      | dsimp only
theorem State.acceptRenq_memOk {s : State} (t : Nat) (e : EngOp) (v : FabView) (hs : MemOk s) : MemOk (State.acceptRenq s t e v) := by
  unfold State.acceptRenq
  (try dsimp only)
  with_reducible repeat' first
      | assumption | apply State.spot_memOk | apply State.engFault_memOk | apply State.jobWord_memOk
      | refine SpotOk.elim (by assumption) ?_ | (simp only [MemOk_mk]; apply MemOk.wf) | split | dsimp only
theorem State.enqueue_memOk {s : State} (group : Option W32) (desc : W64) (arg : W64) (origin : Option (Nat × Nat)) (hs : MemOk s) : ExcPairOk (State.enqueue s group desc arg origin) := by
  unfold State.enqueue
  (try dsimp only)
  with_reducible repeat' first
      | assumption | exact ExcPairOk.error _ | apply ExcPairOk.ok | refine ExcPairOk.bind fun _ _ => ?_ | exact OptPairOk.none
      | apply OptPairOk.some | refine ite_ok (fun _ => ?_) (fun _ => ?_) | apply State.newGrid_memOk | apply State.store_memOk
      | refine OptPairOk.elim (by assumption) ?_ | (simp only [MemOk_mk]; apply MemOk.wf) | split | dsimp only
theorem execRemoteEnqueueRequest_memOk (group : W32) (addr : W64) (arg : W64) (origin : Option (Nat × Nat)) (core : Nat) {s : State} (hs : MemOk s) : OutOk (execRemoteEnqueueRequest group addr arg origin core s) := by
  unfold execRemoteEnqueueRequest
  (try dsimp only)
  with_reducible repeat' first
      | assumption | apply OutOk.next | exact OutOk.fault _ | refine ite_ok (fun _ => ?_) (fun _ => ?_)
      | apply State.enqueue_memOk | apply State.push_memOk | apply State.engDone_memOk | apply State.endRemote_memOk
      | apply State.engFault_memOk | refine ExcPairOk.elim (by assumption) ?_ | (simp only [MemOk_mk]; apply MemOk.wf) | split
      | intro _ _ | dsimp only
theorem execRemoteTaskCompletion_memOk (team : Nat) (op : Nat) (refused : Bool) (killed : Bool) {s : State} (hs : MemOk s) : OutOk (execRemoteTaskCompletion team op refused killed s) := by
  unfold execRemoteTaskCompletion
  (try dsimp only)
  with_reducible repeat' first
      | assumption | apply OutOk.next | exact OutOk.fault _ | refine ite_ok (fun _ => ?_) (fun _ => ?_)
      | apply State.endRemote_memOk | apply State.engFault_memOk | (simp only [MemOk_mk]; apply MemOk.wf) | split | intro _ _
      | dsimp only
theorem execFabricGroupAttach_memOk (ctx : Nat) (group : Option W32) {s : State} (hs : MemOk s) : OutOk (execFabricGroupAttach ctx group s) := by
  unfold execFabricGroupAttach
  (try dsimp only)
  with_reducible repeat' first
      | assumption | apply OutOk.next | exact OutOk.fault _ | refine ite_ok (fun _ => ?_) (fun _ => ?_) | apply State.setCtx_memOk
      | (simp only [MemOk_mk]; apply MemOk.wf) | split | dsimp only
theorem execFabricWindowRegister_memOk (ctx : Nat) (base : W64) (len : Nat) (perms : BitVec 3) {s : State} (hs : MemOk s) : OutOk (execFabricWindowRegister ctx base len perms s) := by
  unfold execFabricWindowRegister
  (try dsimp only)
  with_reducible repeat' first
      | assumption | apply OutOk.next | exact OutOk.fault _ | refine ite_ok (fun _ => ?_) (fun _ => ?_) | apply State.setCtx_memOk
      | (simp only [MemOk_mk]; apply MemOk.wf) | dsimp only
theorem execFabricWindowRemove_memOk (ctx : Nat) (index : Nat) {s : State} (hs : MemOk s) : OutOk (execFabricWindowRemove ctx index s) := by
  unfold execFabricWindowRemove
  (try dsimp only)
  with_reducible repeat' first
      | assumption | apply OutOk.next | exact OutOk.fault _ | refine ite_ok (fun _ => ?_) (fun _ => ?_) | apply State.setCtx_memOk
      | apply State.wreck_memOk | (simp only [MemOk_mk]; apply MemOk.wf) | split | intro _ _ | dsimp only
theorem execFabricLinkRetryLimit_memOk (link : Nat) {s : State} (hs : MemOk s) : OutOk (execFabricLinkRetryLimit link s) := by
  unfold execFabricLinkRetryLimit
  (try dsimp only)
  with_reducible repeat' first
      | assumption | apply OutOk.next | exact OutOk.fault _ | refine ite_ok (fun _ => ?_) (fun _ => ?_)
      | (simp only [MemOk_mk]; apply MemOk.wf) | dsimp only
theorem execFabricFlitCrcError_memOk (link : Nat) {s : State} (hs : MemOk s) : OutOk (execFabricFlitCrcError link s) := by
  unfold execFabricFlitCrcError
  (try dsimp only)
  with_reducible repeat' first
      | assumption | apply OutOk.next | exact OutOk.fault _ | refine ite_ok (fun _ => ?_) (fun _ => ?_)
      | (simp only [MemOk_mk]; apply MemOk.wf) | dsimp only
theorem State.takeEng_memOk {s : State} (t : Nat) (e : EngOp) (a : Accepted) (hs : MemOk s) : MemOk (State.takeEng s t e a) := by
  unfold State.takeEng
  (try dsimp only)
  with_reducible repeat' first
      | assumption | refine ite_ok (fun _ => ?_) (fun _ => ?_) | apply State.onTeam_memOk | apply State.newHead_memOk
      | (simp only [MemOk_mk]; apply MemOk.wf) | intro _ _ | dsimp only
theorem State.uponAccept_memOk {s : State} (t : Nat) (e : EngOp) (hs : MemOk s) : OutOk (State.uponAccept s t e) := by
  unfold State.uponAccept
  (try dsimp only)
  with_reducible repeat' first
      | assumption | apply OutOk.next | exact OutOk.fault _ | refine ite_ok (fun _ => ?_) (fun _ => ?_)
      | apply State.endHalf_memOk | apply State.acceptColl_memOk | apply State.acceptRenq_memOk
      | refine OutOk.elim (by assumption) ?_ | (simp only [MemOk_mk]; apply MemOk.wf) | split | dsimp only
theorem execXPipeAccept_memOk (team : Nat) (op : Nat) {s : State} (hs : MemOk s) : OutOk (execXPipeAccept team op s) := by
  unfold execXPipeAccept
  (try dsimp only)
  with_reducible repeat' first
      | assumption | apply OutOk.next | exact OutOk.fault _ | refine ite_ok (fun _ => ?_) (fun _ => ?_)
      | apply State.takeEng_memOk | apply State.uponAccept_memOk | apply State.onTeam_memOk | apply State.accMoved_memOk
      | apply State.refuseEng_memOk | refine OutOk.elim (by assumption) ?_ | (simp only [MemOk_mk]; apply MemOk.wf) | split
      | intro _ _ | dsimp only
theorem execContextCreate_memOk (ctx : Nat) (plan : ContextPlan) {s : State} (hs : MemOk s) : OutOk (execContextCreate ctx plan s) := by
  unfold execContextCreate
  (try dsimp only)
  with_reducible repeat' first
      | assumption | apply OutOk.next | exact OutOk.fault _ | refine ite_ok (fun _ => ?_) (fun _ => ?_) | apply State.setCtx_memOk
      | apply State.storeNat_memOk | intro _ _ | dsimp only
theorem execBundleLoad_memOk (ctx : Nat) (version : Nat) (isa : Nat) (images : List KernelImage) {s : State} (hs : MemOk s) : OutOk (execBundleLoad ctx version isa images s) := by
  unfold execBundleLoad
  (try dsimp only)
  with_reducible repeat' first
      | assumption | apply OutOk.next | exact OutOk.fault _ | refine ite_ok (fun _ => ?_) (fun _ => ?_) | apply State.putCtx_memOk
      | apply State.dropCode_memOk | refine foldl_memOk (fun _ _ _ => ?_) ?_ | intro _ _ | dsimp only
theorem fallThrough_memOk {s : State} (hs : MemOk s) : MemOk (fallThrough s) := by
  unfold fallThrough
  (try dsimp only)
  with_reducible repeat' first | assumption | apply State.goto_memOk | dsimp only
theorem execNop_memOk {s : State} (hs : MemOk s) : OutOk (execNop s) := by
  unfold execNop
  (try dsimp only)
  with_reducible repeat' first | assumption | apply OutOk.next | exact OutOk.fault _ | apply State.onStrand_memOk | dsimp only
theorem execBra_memOk (o : BitVec 24) {s : State} (hs : MemOk s) : OutOk (execBra o s) := by
  unfold execBra
  (try dsimp only)
  with_reducible repeat' first
      | assumption | exact ExcOk.error _ | apply ExcOk.ok | refine ExcOk.bind fun _ _ => ?_ | apply OutOk.next
      | exact OutOk.fault _ | apply OutOk.finish | apply finish_memOk | apply State.goto_memOk
      | refine OutOk.elim (by assumption) ?_ | dsimp only
theorem execBrc_memOk (a : BitVec 6) (k : BitVec 3) (o : BitVec 15) {s : State} (hs : MemOk s) : OutOk (execBrc a k o s) := by
  unfold execBrc
  (try dsimp only)
  with_reducible repeat' first
      | assumption | exact ExcOk.error _ | apply ExcOk.ok | refine ExcOk.bind fun _ _ => ?_ | apply OutOk.next
      | exact OutOk.fault _ | apply OutOk.finish | refine ite_ok (fun _ => ?_) (fun _ => ?_) | apply finish_memOk
      | apply State.goto_memOk | apply fallThrough_memOk | refine OutOk.elim (by assumption) ?_ | dsimp only
theorem transferTo_memOk {s : State} (a : BitVec 6) (hs : MemOk s) : ExcOk (transferTo s a) := by
  unfold transferTo
  (try dsimp only)
  with_reducible repeat' first
      | assumption | exact ExcOk.error _ | apply ExcOk.ok | refine ExcOk.bind fun _ _ => ?_ | apply State.goto_memOk | dsimp only
theorem execBri_memOk (a : BitVec 6) {s : State} (hs : MemOk s) : OutOk (execBri a s) := by
  unfold execBri
  (try dsimp only)
  with_reducible repeat' first
      | assumption | exact ExcOk.error _ | apply ExcOk.ok | refine ExcOk.bind fun _ _ => ?_ | apply OutOk.next
      | exact OutOk.fault _ | apply OutOk.finish | apply finish_memOk | apply transferTo_memOk
      | refine ExcOk.elim (by assumption) ?_ | refine OutOk.elim (by assumption) ?_ | dsimp only
theorem execCall_memOk (o : BitVec 24) {s : State} (hs : MemOk s) : OutOk (execCall o s) := by
  unfold execCall
  (try dsimp only)
  with_reducible repeat' first
      | assumption | exact ExcOk.error _ | apply ExcOk.ok | refine ExcOk.bind fun _ _ => ?_ | apply OutOk.next
      | exact OutOk.fault _ | apply OutOk.finish | apply finish_memOk | apply State.putSreg_memOk | apply State.goto_memOk
      | refine OutOk.elim (by assumption) ?_ | dsimp only
theorem execRet_memOk {s : State} (hs : MemOk s) : OutOk (execRet s) := by
  unfold execRet
  (try dsimp only)
  with_reducible repeat' first
      | assumption | exact ExcOk.error _ | apply ExcOk.ok | refine ExcOk.bind fun _ _ => ?_ | apply OutOk.next
      | exact OutOk.fault _ | apply OutOk.finish | apply finish_memOk | apply transferTo_memOk
      | refine ExcOk.elim (by assumption) ?_ | refine OutOk.elim (by assumption) ?_ | dsimp only
theorem execLoop_memOk (a : BitVec 6) (k : BitVec 3) (o : BitVec 15) {s : State} (hs : MemOk s) : OutOk (execLoop a k o s) := by
  unfold execLoop
  (try dsimp only)
  with_reducible repeat' first
      | assumption | exact ExcOk.error _ | apply ExcOk.ok | refine ExcOk.bind fun _ _ => ?_ | apply OutOk.next
      | exact OutOk.fault _ | apply OutOk.finish | refine ite_ok (fun _ => ?_) (fun _ => ?_) | apply finish_memOk
      | apply State.putSreg_memOk | apply State.goto_memOk | apply fallThrough_memOk | refine OutOk.elim (by assumption) ?_
      | dsimp only
theorem execDivb_memOk (p : BitVec 3) (i : BitVec 1) (o : BitVec 20) {s : State} (hs : MemOk s) : OutOk (execDivb p i o s) := by
  unfold execDivb
  (try dsimp only)
  with_reducible repeat' first
      | assumption | exact ExcOk.error _ | apply ExcOk.ok | refine ExcOk.bind fun _ _ => ?_ | apply OutOk.next
      | exact OutOk.fault _ | apply OutOk.finish | refine ite_ok (fun _ => ?_) (fun _ => ?_) | apply finish_memOk
      | apply fallThrough_memOk | apply State.goto_memOk | apply State.divideHere_memOk | refine ExcOk.elim (by assumption) ?_
      | refine OutOk.elim (by assumption) ?_ | dsimp only
theorem execJoin_memOk {s : State} (hs : MemOk s) : OutOk (execJoin s) := by
  unfold execJoin
  (try dsimp only)
  with_reducible repeat' first
      | assumption | exact ExcOk.error _ | apply ExcOk.ok | refine ExcOk.bind fun _ _ => ?_ | apply OutOk.next
      | exact OutOk.fault _ | apply OutOk.finish | apply finish_memOk | apply State.joinHere_memOk
      | refine OutOk.elim (by assumption) ?_ | dsimp only
theorem execEndStrand_memOk {s : State} (hs : MemOk s) : OutOk (execEndStrand s) := by
  unfold execEndStrand
  (try dsimp only)
  with_reducible repeat' first | assumption | apply OutOk.next | exact OutOk.fault _ | apply State.endStrandOf_memOk | dsimp only
theorem execYield_memOk (n : BitVec 16) {s : State} (hs : MemOk s) : OutOk (execYield n s) := by
  unfold execYield
  (try dsimp only)
  with_reducible repeat' first
      | assumption | apply OutOk.next | exact OutOk.fault _ | apply State.onStrand_memOk | apply State.advance_memOk
      | (simp only [MemOk_mk]; apply MemOk.wf) | intro _ _ | dsimp only
theorem execTrap_memOk (n : BitVec 16) {s : State} (hs : MemOk s) : OutOk (execTrap n s) := by
  unfold execTrap
  (try dsimp only)
  with_reducible repeat' first | assumption | apply OutOk.next | exact OutOk.fault _ | apply State.trapHere_memOk | dsimp only
theorem execBkpt_memOk (n : BitVec 16) {s : State} (hs : MemOk s) : OutOk (execBkpt n s) := by
  unfold execBkpt
  (try dsimp only)
  with_reducible repeat' first | assumption | apply OutOk.next | exact OutOk.fault _ | apply State.trapHere_memOk | dsimp only
theorem execVshfl_memOk (m : BitVec 3) (d : BitVec 7) (a : BitVec 7) (b : BitVec 7) {s : State} (hs : MemOk s) : OutOk (execVshfl m d a b s) := by
  unfold execVshfl
  (try dsimp only)
  with_reducible repeat' first
      | assumption | exact ExcOk.error _ | apply ExcOk.ok | refine ExcOk.bind fun _ _ => ?_ | apply OutOk.next
      | exact OutOk.fault _ | apply OutOk.finish | refine ite_ok (fun _ => ?_) (fun _ => ?_) | apply finish_memOk
      | apply vecWord_memOk | refine ExcOk.elim (by assumption) ?_ | refine OutOk.elim (by assumption) ?_ | intro _ _ | dsimp only
theorem execVbcst_memOk (d : BitVec 7) (a : BitVec 7) (b : BitVec 7) {s : State} (hs : MemOk s) : OutOk (execVbcst d a b s) := by
  unfold execVbcst
  (try dsimp only)
  with_reducible repeat' first
      | assumption | exact ExcOk.error _ | apply ExcOk.ok | refine ExcOk.bind fun _ _ => ?_ | apply OutOk.next
      | exact OutOk.fault _ | apply OutOk.finish | refine ite_ok (fun _ => ?_) (fun _ => ?_) | apply finish_memOk
      | apply vecWord_memOk | refine ExcOk.elim (by assumption) ?_ | refine OutOk.elim (by assumption) ?_ | intro _ _ | dsimp only
theorem execVred_memOk (m : BitVec 3) (d : BitVec 7) (a : BitVec 7) {s : State} (hs : MemOk s) : OutOk (execVred m d a s) := by
  unfold execVred
  (try dsimp only)
  with_reducible repeat' first
      | assumption | exact ExcOk.error _ | apply ExcOk.ok | refine ExcOk.bind fun _ _ => ?_ | apply OutOk.next
      | exact OutOk.fault _ | apply OutOk.finish | apply finish_memOk | apply vecWord_memOk | refine ExcOk.elim (by assumption) ?_
      | refine OutOk.elim (by assumption) ?_ | split | intro _ _ | dsimp only
theorem execVscan_memOk (m : BitVec 3) (d : BitVec 7) (a : BitVec 7) {s : State} (hs : MemOk s) : OutOk (execVscan m d a s) := by
  unfold execVscan
  (try dsimp only)
  with_reducible repeat' first
      | assumption | exact ExcOk.error _ | apply ExcOk.ok | refine ExcOk.bind fun _ _ => ?_ | apply OutOk.next
      | exact OutOk.fault _ | apply OutOk.finish | refine ite_ok (fun _ => ?_) (fun _ => ?_) | apply finish_memOk
      | apply vecWord_memOk | refine ExcOk.elim (by assumption) ?_ | refine OutOk.elim (by assumption) ?_ | split | intro _ _
      | dsimp only
theorem execVbal_memOk (m : BitVec 3) (d : BitVec 7) (p : BitVec 3) {s : State} (hs : MemOk s) : OutOk (execVbal m d p s) := by
  unfold execVbal
  (try dsimp only)
  with_reducible repeat' first
      | assumption | exact ExcOk.error _ | apply ExcOk.ok | refine ExcOk.bind fun _ _ => ?_ | apply OutOk.next
      | exact OutOk.fault _ | apply OutOk.finish | refine ite_ok (fun _ => ?_) (fun _ => ?_) | apply finish_memOk
      | apply vecWord_memOk | refine ExcOk.elim (by assumption) ?_ | refine OutOk.elim (by assumption) ?_ | intro _ _ | dsimp only
theorem execVconf_memOk (m : BitVec 3) (d : BitVec 7) (a : BitVec 7) {s : State} (hs : MemOk s) : OutOk (execVconf m d a s) := by
  unfold execVconf
  (try dsimp only)
  with_reducible repeat' first
      | assumption | exact ExcOk.error _ | apply ExcOk.ok | refine ExcOk.bind fun _ _ => ?_ | apply OutOk.next
      | exact OutOk.fault _ | apply OutOk.finish | refine ite_ok (fun _ => ?_) (fun _ => ?_) | apply finish_memOk
      | apply vecWord_memOk | refine ExcOk.elim (by assumption) ?_ | refine OutOk.elim (by assumption) ?_ | split | intro _ _
      | dsimp only
theorem execVisect_memOk (m : BitVec 3) (d : BitVec 7) (a : BitVec 7) (b : BitVec 7) {s : State} (hs : MemOk s) : OutOk (execVisect m d a b s) := by
  unfold execVisect
  (try dsimp only)
  with_reducible repeat' first
      | assumption | exact ExcOk.error _ | apply ExcOk.ok | refine ExcOk.bind fun _ _ => ?_ | apply OutOk.next
      | exact OutOk.fault _ | apply OutOk.finish | refine ite_ok (fun _ => ?_) (fun _ => ?_) | apply finish_memOk
      | apply vecWord_memOk | refine ExcOk.elim (by assumption) ?_ | refine OutOk.elim (by assumption) ?_
      | (simp only [MemOk_mk]; apply MemOk.wf) | split | intro _ _ | dsimp only
theorem execMsal_memOk (d : BitVec 7) (a : BitVec 7) (b : BitVec 7) {s : State} (hs : MemOk s) : OutOk (execMsal d a b s) := by
  unfold execMsal
  (try dsimp only)
  with_reducible repeat' first
      | assumption | exact ExcOk.error _ | apply ExcOk.ok | refine ExcOk.bind fun _ _ => ?_ | apply OutOk.next
      | exact OutOk.fault _ | apply OutOk.finish | refine ite_ok (fun _ => ?_) (fun _ => ?_) | apply finish_memOk
      | apply vecWord_memOk | refine foldl_memOk (fun _ _ _ => ?_) ?_ | refine ExcOk.elim (by assumption) ?_
      | refine OutOk.elim (by assumption) ?_ | intro _ _ | dsimp only
theorem State.guardedWrite_memOk {s : State} (who : Requester) (place : Nat) {f : State → State} (hf : MemOk (f s)) (h : MemOk s) :
    OutOk (s.guardedWrite who place f) := by
  unfold State.guardedWrite
  exact ite_ok (fun _ => OutOk.next (.of_wf h.wf)) (fun _ => ite_ok (fun _ => OutOk.next hf) (fun _ => OutOk.next (.of_wf h.wf)))
theorem execSemaRead_memOk (who : Requester) {s : State} (hs : MemOk s) : OutOk (execSemaRead who s) := by
  unfold execSemaRead
  (try dsimp only)
  with_reducible repeat' first
      | assumption | apply OutOk.next | exact OutOk.fault _ | refine ite_ok (fun _ => ?_) (fun _ => ?_)
      | (simp only [MemOk_mk]; apply MemOk.wf) | split | dsimp only
theorem execSemaWrite_memOk (who : Requester) {s : State} (hs : MemOk s) : OutOk (execSemaWrite who s) := by
  unfold execSemaWrite
  (try dsimp only)
  with_reducible repeat' first
      | assumption | apply OutOk.next | exact OutOk.fault _ | refine ite_ok (fun _ => ?_) (fun _ => ?_)
      | (simp only [MemOk_mk]; apply MemOk.wf) | dsimp only
theorem execComparatorWrite_memOk (who : Requester) (core : Nat) (reg : Nat) (val : W64) {s : State} (hs : MemOk s) : OutOk (execComparatorWrite who core reg val s) := by
  unfold execComparatorWrite
  (try dsimp only)
  with_reducible repeat' first
      | assumption | apply OutOk.next | exact OutOk.fault _ | refine ite_ok (fun _ => ?_) (fun _ => ?_) | apply State.onCore_memOk
      | apply State.guardedWrite_memOk | (simp only [MemOk_mk]; apply MemOk.wf) | split | intro _ _ | dsimp only
theorem execShctlFire_memOk (who : Requester) (val : W64) {s : State} (hs : MemOk s) : OutOk (execShctlFire who val s) := by
  unfold execShctlFire
  (try dsimp only)
  with_reducible repeat' first
      | assumption | apply OutOk.next | exact OutOk.fault _ | refine ite_ok (fun _ => ?_) (fun _ => ?_)
      | apply State.guardedWrite_memOk | apply State.shutter_memOk | apply State.drew_memOk
      | (simp only [MemOk_mk]; apply MemOk.wf) | intro _ _ | dsimp only
theorem execShctlRearm_memOk (who : Requester) (val : W64) {s : State} (hs : MemOk s) : OutOk (execShctlRearm who val s) := by
  unfold execShctlRearm
  (try dsimp only)
  with_reducible repeat' first
      | assumption | apply OutOk.next | exact OutOk.fault _ | refine ite_ok (fun _ => ?_) (fun _ => ?_)
      | apply State.guardedWrite_memOk | (simp only [MemOk_mk]; apply MemOk.wf) | intro _ _ | dsimp only
theorem execShutterLatch_memOk {s : State} (hs : MemOk s) : OutOk (execShutterLatch s) := by
  unfold execShutterLatch
  (try dsimp only)
  with_reducible repeat' first
      | assumption | apply OutOk.next | exact OutOk.fault _ | refine ite_ok (fun _ => ?_) (fun _ => ?_)
      | (simp only [MemOk_mk]; apply MemOk.wf) | split | intro _ _ | dsimp only
theorem execRegisterWrite_memOk (who : Requester) (off : Nat) (val : W64) {s : State} (hs : MemOk s) : OutOk (execRegisterWrite who off val s) := by
  unfold execRegisterWrite
  (try dsimp only)
  with_reducible repeat' first
      | assumption | apply OutOk.next | exact OutOk.fault _ | refine ite_ok (fun _ => ?_) (fun _ => ?_)
      | apply State.guardedWrite_memOk | (simp only [MemOk_mk]; apply MemOk.wf) | intro _ _ | dsimp only
theorem State.reboot_memOk (s : State) : MemOk s.reboot := .of_wf rfl
theorem execPackageReset_memOk {s : State} (hs : MemOk s) : OutOk (execPackageReset s) := by
  unfold execPackageReset
  (try dsimp only)
  with_reducible repeat' first | assumption | apply OutOk.next | exact OutOk.fault _ | apply State.reboot_memOk | dsimp only
theorem execImageDownload_memOk (port : Nat) (scheduler : Bool) (slotB : Bool) (image : FwImage) {s : State} (hs : MemOk s) : OutOk (execImageDownload port scheduler slotB image s) := by
  unfold execImageDownload
  (try dsimp only)
  with_reducible repeat' first
      | assumption | apply OutOk.next | exact OutOk.fault _ | refine ite_ok (fun _ => ?_) (fun _ => ?_)
      | (simp only [MemOk_mk]; apply MemOk.wf) | dsimp only
theorem execHeartbeat_memOk {s : State} (hs : MemOk s) : OutOk (execHeartbeat s) := by
  unfold execHeartbeat
  (try dsimp only)
  with_reducible repeat' first
      | assumption | apply OutOk.next | exact OutOk.fault _ | refine ite_ok (fun _ => ?_) (fun _ => ?_)
      | (simp only [MemOk_mk]; apply MemOk.wf) | dsimp only
theorem execHeartbeatTimeout_memOk {s : State} (hs : MemOk s) : OutOk (execHeartbeatTimeout s) := by
  unfold execHeartbeatTimeout
  (try dsimp only)
  with_reducible repeat' first
      | assumption | apply OutOk.next | exact OutOk.fault _ | refine ite_ok (fun _ => ?_) (fun _ => ?_) | apply State.reboot_memOk
      | (simp only [MemOk_mk]; apply MemOk.wf) | dsimp only
theorem State.spdmReply_memOk {s : State} (port : Nat) (code : Nat) (need : Nat) (reaches : Nat) (digests : List (BitVec 512)) (bytes : List (BitVec 4096)) (hs : MemOk s) : OutOk (State.spdmReply s port code need reaches digests bytes) := by
  unfold State.spdmReply
  (try dsimp only)
  with_reducible repeat' first
      | assumption | apply OutOk.next | exact OutOk.fault _ | refine ite_ok (fun _ => ?_) (fun _ => ?_)
      | (simp only [MemOk_mk]; apply MemOk.wf) | dsimp only
theorem execGetVersion_memOk (port : Nat) {s : State} (hs : MemOk s) : OutOk (execGetVersion port s) := by
  unfold execGetVersion
  (try dsimp only)
  with_reducible repeat' first
      | assumption | apply OutOk.next | exact OutOk.fault _ | apply State.spdmReply_memOk | refine OutOk.elim (by assumption) ?_
      | dsimp only
theorem execGetCapabilities_memOk (port : Nat) {s : State} (hs : MemOk s) : OutOk (execGetCapabilities port s) := by
  unfold execGetCapabilities
  (try dsimp only)
  with_reducible repeat' first
      | assumption | apply OutOk.next | exact OutOk.fault _ | apply State.spdmReply_memOk | refine OutOk.elim (by assumption) ?_
      | dsimp only
theorem execNegotiateAlgorithms_memOk (port : Nat) {s : State} (hs : MemOk s) : OutOk (execNegotiateAlgorithms port s) := by
  unfold execNegotiateAlgorithms
  (try dsimp only)
  with_reducible repeat' first
      | assumption | apply OutOk.next | exact OutOk.fault _ | apply State.spdmReply_memOk | refine OutOk.elim (by assumption) ?_
      | dsimp only
theorem execGetDigests_memOk (port : Nat) {s : State} (hs : MemOk s) : OutOk (execGetDigests port s) := by
  unfold execGetDigests
  (try dsimp only)
  with_reducible repeat' first
      | assumption | apply OutOk.next | exact OutOk.fault _ | apply State.spdmReply_memOk | refine OutOk.elim (by assumption) ?_
      | dsimp only
theorem execGetCertificate_memOk (port : Nat) {s : State} (hs : MemOk s) : OutOk (execGetCertificate port s) := by
  unfold execGetCertificate
  (try dsimp only)
  with_reducible repeat' first
      | assumption | apply OutOk.next | exact OutOk.fault _ | apply State.spdmReply_memOk | refine OutOk.elim (by assumption) ?_
      | dsimp only
theorem execChallenge_memOk (port : Nat) (nonce : Nat) {s : State} (hs : MemOk s) : OutOk (execChallenge port nonce s) := by
  unfold execChallenge
  (try dsimp only)
  with_reducible repeat' first
      | assumption | apply OutOk.next | exact OutOk.fault _ | apply State.spdmReply_memOk | refine OutOk.elim (by assumption) ?_
      | dsimp only
theorem execGetMeasurements_memOk (port : Nat) (index : Nat) {s : State} (hs : MemOk s) : OutOk (execGetMeasurements port index s) := by
  unfold execGetMeasurements
  (try dsimp only)
  with_reducible repeat' first
      | assumption | apply OutOk.next | exact OutOk.fault _ | refine ite_ok (fun _ => ?_) (fun _ => ?_)
      | apply State.spdmReply_memOk | refine OutOk.elim (by assumption) ?_ | dsimp only
theorem execPortLinkUp_memOk (port : Nat) (rate : Nat) (width : Nat) {s : State} (hs : MemOk s) : OutOk (execPortLinkUp port rate width s) := by
  unfold execPortLinkUp
  (try dsimp only)
  with_reducible repeat' first
      | assumption | apply OutOk.next | exact OutOk.fault _ | refine ite_ok (fun _ => ?_) (fun _ => ?_)
      | (simp only [MemOk_mk]; apply MemOk.wf) | split | dsimp only
theorem execPortLinkDown_memOk (port : Nat) {s : State} (hs : MemOk s) : OutOk (execPortLinkDown port s) := by
  unfold execPortLinkDown
  (try dsimp only)
  with_reducible repeat' first
      | assumption | apply OutOk.next | exact OutOk.fault _ | refine ite_ok (fun _ => ?_) (fun _ => ?_)
      | (simp only [MemOk_mk]; apply MemOk.wf) | split | dsimp only
theorem execPowerHoldoff_memOk (cycles : Nat) {s : State} (hs : MemOk s) : OutOk (execPowerHoldoff cycles s) := by
  unfold execPowerHoldoff
  (try dsimp only)
  with_reducible repeat' first | assumption | apply OutOk.next | exact OutOk.fault _ | (simp only [MemOk_mk]; apply MemOk.wf) | dsimp only
theorem State.tripStrand_memOk {s : State} (r : StrandRef) (hs : MemOk s) : MemOk (State.tripStrand s r) := by
  unfold State.tripStrand
  (try dsimp only)
  with_reducible repeat' first
      | assumption | refine ite_ok (fun _ => ?_) (fun _ => ?_) | apply State.onStrand_memOk | apply State.takeTrap_memOk
      | (simp only [MemOk_mk]; apply MemOk.wf) | intro _ _ | dsimp only
theorem execThermalTrip_memOk {s : State} (hs : MemOk s) : OutOk (execThermalTrip s) := by
  unfold execThermalTrip
  (try dsimp only)
  with_reducible repeat' first
      | assumption | apply OutOk.next | exact OutOk.fault _ | apply State.onTeam_memOk | apply State.tripStrand_memOk
      | refine foldl_memOk (fun _ _ _ => ?_) ?_ | (simp only [MemOk_mk]; apply MemOk.wf) | intro _ _ | dsimp only
theorem execWayGate_memOk (slice : Nat) (pair : Nat) {s : State} (hs : MemOk s) : OutOk (execWayGate slice pair s) := by
  unfold execWayGate
  (try dsimp only)
  with_reducible repeat' first
      | assumption | apply OutOk.next | exact OutOk.fault _ | refine ite_ok (fun _ => ?_) (fun _ => ?_)
      | (simp only [MemOk_mk]; apply MemOk.wf) | intro _ _ | dsimp only
theorem execWayWake_memOk (slice : Nat) (pair : Nat) {s : State} (hs : MemOk s) : OutOk (execWayWake slice pair s) := by
  unfold execWayWake
  (try dsimp only)
  with_reducible repeat' first
      | assumption | apply OutOk.next | exact OutOk.fault _ | refine ite_ok (fun _ => ?_) (fun _ => ?_)
      | (simp only [MemOk_mk]; apply MemOk.wf) | split | intro _ _ | dsimp only
theorem State.counted_memOk {s : State} (hs : MemOk s) : MemOk (State.counted s) := by
  unfold State.counted
  (try dsimp only)
  with_reducible repeat' first | assumption | (simp only [MemOk_mk]; apply MemOk.wf) | dsimp only
theorem State.poisonAt_memOk {s : State} (pa : Nat) (hs : MemOk s) : MemOk (State.poisonAt s pa) := by
  unfold State.poisonAt
  (try dsimp only)
  with_reducible repeat' first | assumption | (simp only [MemOk_mk]; apply MemOk.wf) | dsimp only
theorem execL2EccError_memOk (pa : Nat) (dirty : Bool) (kind : ErrorKind) {s : State} (hs : MemOk s) : OutOk (execL2EccError pa dirty kind s) := by
  unfold execL2EccError
  (try dsimp only)
  with_reducible repeat' first
      | assumption | apply OutOk.next | exact OutOk.fault _ | refine ite_ok (fun _ => ?_) (fun _ => ?_)
      | apply State.counted_memOk | apply State.dropLines_memOk | apply State.poisonAt_memOk
      | (simp only [MemOk_mk]; apply MemOk.wf) | split | intro _ _ | dsimp only
theorem State.hbmError_memOk {s : State} (pa : Nat) (kind : ErrorKind) (hs : MemOk s) : MemOk (State.hbmError s pa kind) := by
  unfold State.hbmError
  (try dsimp only)
  with_reducible repeat' first
      | assumption | refine ite_ok (fun _ => ?_) (fun _ => ?_) | apply State.poisonAt_memOk
      | (simp only [MemOk_mk]; apply MemOk.wf) | split | dsimp only
theorem execHbmEccError_memOk (pa : Nat) (kind : ErrorKind) {s : State} (hs : MemOk s) : OutOk (execHbmEccError pa kind s) := by
  unfold execHbmEccError
  (try dsimp only)
  with_reducible repeat' first | assumption | apply OutOk.next | exact OutOk.fault _ | apply State.hbmError_memOk | dsimp only
theorem execPatrolScrub_memOk (pa : Nat) (kind : ErrorKind) {s : State} (hs : MemOk s) : OutOk (execPatrolScrub pa kind s) := by
  unfold execPatrolScrub
  (try dsimp only)
  with_reducible repeat' first | assumption | apply OutOk.next | exact OutOk.fault _ | apply State.hbmError_memOk | dsimp only
theorem State.cutOff_memOk {s : State} (team : Nat) (op : Nat) (hs : MemOk s) : MemOk (State.cutOff s team op) := by
  unfold State.cutOff
  (try dsimp only)
  with_reducible repeat' first
      | assumption | refine ite_ok (fun _ => ?_) (fun _ => ?_) | apply State.onTeam_memOk | apply State.setObjState_memOk
      | apply State.walked_memOk | apply State.engFault_memOk | apply State.takeTrap_memOk
      | refine foldl_memOk (fun _ _ _ => ?_) ?_ | (simp only [MemOk_mk]; apply MemOk.wf) | split | intro _ _ | dsimp only
theorem execDieLinkCrcError_memOk (link : Nat) (ops : List (Nat × Nat)) {s : State} (hs : MemOk s) : OutOk (execDieLinkCrcError link ops s) := by
  unfold execDieLinkCrcError
  (try dsimp only)
  with_reducible repeat' first
      | assumption | apply OutOk.next | exact OutOk.fault _ | refine ite_ok (fun _ => ?_) (fun _ => ?_) | apply State.drew_memOk
      | apply State.cutOff_memOk | refine foldl_memOk (fun _ _ _ => ?_) ?_ | (simp only [MemOk_mk]; apply MemOk.wf) | intro _ _
      | dsimp only
theorem execSramEccError_memOk (r : Option StrandRef) (lanes : Mask) (kind : ErrorKind) {s : State} (hs : MemOk s) : OutOk (execSramEccError r lanes kind s) := by
  unfold execSramEccError
  (try dsimp only)
  with_reducible repeat' first
      | assumption | apply OutOk.next | exact OutOk.fault _ | refine ite_ok (fun _ => ?_) (fun _ => ?_)
      | apply State.counted_memOk | apply State.takeTrap_memOk | (simp only [MemOk_mk]; apply MemOk.wf) | split | dsimp only
theorem execQcfg_memOk (q : BitVec 3) (t : BitVec 4) {s : State} (hs : MemOk s) : OutOk (execQcfg q t s) := by
  unfold execQcfg
  (try dsimp only)
  with_reducible repeat' first
      | assumption | exact ExcOk.error _ | apply ExcOk.ok | refine ExcOk.bind fun _ _ => ?_ | apply OutOk.next
      | exact OutOk.fault _ | apply OutOk.finish | apply finish_memOk | apply State.onMine_memOk | apply State.advance_memOk
      | refine OutOk.elim (by assumption) ?_ | (simp only [MemOk_mk]; apply MemOk.wf) | intro _ _ | dsimp only
theorem execQstat_memOk (d : BitVec 6) (q : BitVec 3) {s : State} (hs : MemOk s) : OutOk (execQstat d q s) := by
  unfold execQstat
  (try dsimp only)
  with_reducible repeat' first
      | assumption | exact ExcOk.error _ | apply ExcOk.ok | refine ExcOk.bind fun _ _ => ?_ | apply OutOk.next
      | exact OutOk.fault _ | apply OutOk.finish | apply finish_memOk | apply State.putSreg_memOk | apply State.advance_memOk
      | refine foldl_memOk (fun _ _ _ => ?_) ?_ | refine OutOk.elim (by assumption) ?_ | intro _ _ | dsimp only
theorem execQdrn_memOk (q : BitVec 3) {s : State} (hs : MemOk s) : OutOk (execQdrn q s) := by
  unfold execQdrn
  (try dsimp only)
  with_reducible repeat' first
      | assumption | apply OutOk.next | exact OutOk.fault _ | apply State.onMine_memOk | apply State.advance_memOk
      | refine foldl_memOk (fun _ _ _ => ?_) ?_ | (simp only [MemOk_mk]; apply MemOk.wf) | intro _ _ | dsimp only
theorem execTbar_memOk (n : BitVec 4) {s : State} (hs : MemOk s) : OutOk (execTbar n s) := by
  unfold execTbar
  (try dsimp only)
  with_reducible repeat' first
      | assumption | exact ExcOk.error _ | apply ExcOk.ok | refine ExcOk.bind fun _ _ => ?_ | apply OutOk.next
      | exact OutOk.fault _ | apply OutOk.finish | apply finish_memOk | apply State.arriveHere_memOk
      | refine ExcOk.elim (by assumption) ?_ | refine OutOk.elim (by assumption) ?_ | dsimp only
theorem salu_memOk {s : State} (d : BitVec 6) (a : BitVec 6) (b : BitVec 6) (f : W64 → W64 → W64) (hs : MemOk s) : OutOk (salu s d a b f) := by
  unfold salu
  (try dsimp only)
  with_reducible repeat' first
      | assumption | exact ExcOk.error _ | apply ExcOk.ok | refine ExcOk.bind fun _ _ => ?_ | apply OutOk.next
      | exact OutOk.fault _ | apply OutOk.finish | apply finish_memOk | apply State.putSreg_memOk | apply State.advance_memOk
      | refine OutOk.elim (by assumption) ?_ | dsimp only
theorem execSadd_memOk (d : BitVec 6) (a : BitVec 6) (b : BitVec 6) {s : State} (hs : MemOk s) : OutOk (execSadd d a b s) := by
  unfold execSadd
  (try dsimp only)
  with_reducible repeat' first
      | assumption | apply OutOk.next | exact OutOk.fault _ | apply salu_memOk | refine OutOk.elim (by assumption) ?_ | intro _ _
      | dsimp only
theorem execSsub_memOk (d : BitVec 6) (a : BitVec 6) (b : BitVec 6) {s : State} (hs : MemOk s) : OutOk (execSsub d a b s) := by
  unfold execSsub
  (try dsimp only)
  with_reducible repeat' first
      | assumption | apply OutOk.next | exact OutOk.fault _ | apply salu_memOk | refine OutOk.elim (by assumption) ?_ | intro _ _
      | dsimp only
theorem execSmul_memOk (d : BitVec 6) (a : BitVec 6) (b : BitVec 6) {s : State} (hs : MemOk s) : OutOk (execSmul d a b s) := by
  unfold execSmul
  (try dsimp only)
  with_reducible repeat' first
      | assumption | apply OutOk.next | exact OutOk.fault _ | apply salu_memOk | refine OutOk.elim (by assumption) ?_ | intro _ _
      | dsimp only
theorem execSmulh_memOk (d : BitVec 6) (a : BitVec 6) (b : BitVec 6) {s : State} (hs : MemOk s) : OutOk (execSmulh d a b s) := by
  unfold execSmulh
  (try dsimp only)
  with_reducible repeat' first
      | assumption | apply OutOk.next | exact OutOk.fault _ | apply salu_memOk | refine OutOk.elim (by assumption) ?_ | intro _ _
      | dsimp only
theorem execSand_memOk (d : BitVec 6) (a : BitVec 6) (b : BitVec 6) {s : State} (hs : MemOk s) : OutOk (execSand d a b s) := by
  unfold execSand
  (try dsimp only)
  with_reducible repeat' first
      | assumption | apply OutOk.next | exact OutOk.fault _ | apply salu_memOk | refine OutOk.elim (by assumption) ?_ | intro _ _
      | dsimp only
theorem execSor_memOk (d : BitVec 6) (a : BitVec 6) (b : BitVec 6) {s : State} (hs : MemOk s) : OutOk (execSor d a b s) := by
  unfold execSor
  (try dsimp only)
  with_reducible repeat' first
      | assumption | exact ExcOk.error _ | apply ExcOk.ok | refine ExcOk.bind fun _ _ => ?_ | apply OutOk.next
      | exact OutOk.fault _ | apply OutOk.finish | apply finish_memOk | apply State.onMyStream_memOk | apply State.advance_memOk
      | refine OutOk.elim (by assumption) ?_ | intro _ _ | dsimp only
theorem execSxor_memOk (d : BitVec 6) (a : BitVec 6) (b : BitVec 6) {s : State} (hs : MemOk s) : OutOk (execSxor d a b s) := by
  unfold execSxor
  (try dsimp only)
  with_reducible repeat' first
      | assumption | apply OutOk.next | exact OutOk.fault _ | apply salu_memOk | refine OutOk.elim (by assumption) ?_ | intro _ _
      | dsimp only
theorem execSshl_memOk (d : BitVec 6) (a : BitVec 6) (b : BitVec 6) {s : State} (hs : MemOk s) : OutOk (execSshl d a b s) := by
  unfold execSshl
  (try dsimp only)
  with_reducible repeat' first
      | assumption | apply OutOk.next | exact OutOk.fault _ | apply salu_memOk | refine OutOk.elim (by assumption) ?_ | intro _ _
      | dsimp only
theorem execSshr_memOk (d : BitVec 6) (a : BitVec 6) (b : BitVec 6) {s : State} (hs : MemOk s) : OutOk (execSshr d a b s) := by
  unfold execSshr
  (try dsimp only)
  with_reducible repeat' first
      | assumption | apply OutOk.next | exact OutOk.fault _ | apply salu_memOk | refine OutOk.elim (by assumption) ?_ | intro _ _
      | dsimp only
theorem execSsra_memOk (d : BitVec 6) (a : BitVec 6) (b : BitVec 6) {s : State} (hs : MemOk s) : OutOk (execSsra d a b s) := by
  unfold execSsra
  (try dsimp only)
  with_reducible repeat' first
      | assumption | apply OutOk.next | exact OutOk.fault _ | apply salu_memOk | refine OutOk.elim (by assumption) ?_ | intro _ _
      | dsimp only
theorem execSmin_memOk (d : BitVec 6) (a : BitVec 6) (b : BitVec 6) {s : State} (hs : MemOk s) : OutOk (execSmin d a b s) := by
  unfold execSmin
  (try dsimp only)
  with_reducible repeat' first
      | assumption | apply OutOk.next | exact OutOk.fault _ | refine ite_ok (fun _ => ?_) (fun _ => ?_) | apply salu_memOk
      | refine OutOk.elim (by assumption) ?_ | intro _ _ | dsimp only
theorem execSmax_memOk (d : BitVec 6) (a : BitVec 6) (b : BitVec 6) {s : State} (hs : MemOk s) : OutOk (execSmax d a b s) := by
  unfold execSmax
  (try dsimp only)
  with_reducible repeat' first
      | assumption | apply OutOk.next | exact OutOk.fault _ | refine ite_ok (fun _ => ?_) (fun _ => ?_) | apply salu_memOk
      | refine OutOk.elim (by assumption) ?_ | intro _ _ | dsimp only
theorem execSlt_memOk (d : BitVec 6) (a : BitVec 6) (b : BitVec 6) {s : State} (hs : MemOk s) : OutOk (execSlt d a b s) := by
  unfold execSlt
  (try dsimp only)
  with_reducible repeat' first
      | assumption | apply OutOk.next | exact OutOk.fault _ | apply salu_memOk | refine OutOk.elim (by assumption) ?_ | intro _ _
      | dsimp only
theorem execSltn_memOk (d : BitVec 6) (a : BitVec 6) (b : BitVec 6) {s : State} (hs : MemOk s) : OutOk (execSltn d a b s) := by
  unfold execSltn
  (try dsimp only)
  with_reducible repeat' first
      | assumption | apply OutOk.next | exact OutOk.fault _ | apply salu_memOk | refine OutOk.elim (by assumption) ?_ | intro _ _
      | dsimp only
theorem execSsel_memOk (d : BitVec 6) (a : BitVec 6) (b : BitVec 6) {s : State} (hs : MemOk s) : OutOk (execSsel d a b s) := by
  unfold execSsel
  (try dsimp only)
  with_reducible repeat' first
      | assumption | exact ExcOk.error _ | apply ExcOk.ok | refine ExcOk.bind fun _ _ => ?_ | apply OutOk.next
      | exact OutOk.fault _ | apply OutOk.finish | refine ite_ok (fun _ => ?_) (fun _ => ?_) | apply finish_memOk
      | apply State.onMyStream_memOk | apply State.advance_memOk | refine OutOk.elim (by assumption) ?_ | intro _ _ | dsimp only
theorem execSaddi_memOk (d : BitVec 6) (a : BitVec 6) (i : BitVec 12) {s : State} (hs : MemOk s) : OutOk (execSaddi d a i s) := by
  unfold execSaddi
  (try dsimp only)
  with_reducible repeat' first
      | assumption | exact ExcOk.error _ | apply ExcOk.ok | refine ExcOk.bind fun _ _ => ?_ | apply OutOk.next
      | exact OutOk.fault _ | apply OutOk.finish | apply finish_memOk | apply State.putSreg_memOk | apply State.advance_memOk
      | refine OutOk.elim (by assumption) ?_ | dsimp only
theorem execSlui_memOk (d : BitVec 6) (i : BitVec 18) {s : State} (hs : MemOk s) : OutOk (execSlui d i s) := by
  unfold execSlui
  (try dsimp only)
  with_reducible repeat' first
      | assumption | exact ExcOk.error _ | apply ExcOk.ok | refine ExcOk.bind fun _ _ => ?_ | apply OutOk.next
      | exact OutOk.fault _ | apply OutOk.finish | apply finish_memOk | apply State.putSreg_memOk | apply State.advance_memOk
      | refine OutOk.elim (by assumption) ?_ | dsimp only
theorem execSrd_memOk (d : BitVec 6) (n : BitVec 12) {s : State} (hs : MemOk s) : OutOk (execSrd d n s) := by
  unfold execSrd
  (try dsimp only)
  with_reducible repeat' first
      | assumption | exact ExcOk.error _ | apply ExcOk.ok | refine ExcOk.bind fun _ _ => ?_ | apply OutOk.next
      | exact OutOk.fault _ | apply OutOk.finish | apply finish_memOk | apply State.putSreg_memOk | apply State.advance_memOk
      | refine OutOk.elim (by assumption) ?_ | dsimp only
theorem execSwr_memOk (a : BitVec 6) (n : BitVec 12) {s : State} (hs : MemOk s) : OutOk (execSwr a n s) := by
  unfold execSwr
  (try dsimp only)
  with_reducible repeat' first
      | assumption | exact ExcOk.error _ | apply ExcOk.ok | refine ExcOk.bind fun _ _ => ?_ | apply OutOk.next
      | exact OutOk.fault _ | apply OutOk.finish | refine ite_ok (fun _ => ?_) (fun _ => ?_) | apply finish_memOk
      | apply State.onMyStream_memOk | apply State.advance_memOk | refine OutOk.elim (by assumption) ?_
      | (simp only [MemOk_mk]; apply MemOk.wf) | intro _ _ | dsimp only
theorem specialWord_memOk {s : State} (d : BitVec 7) (a : BitVec 7) (f : W32 → Val → Nat × Flags) (hs : MemOk s) : OutOk (specialWord s d a f) := by
  unfold specialWord
  (try dsimp only)
  with_reducible repeat' first
      | assumption | exact ExcOk.error _ | apply ExcOk.ok | refine ExcOk.bind fun _ _ => ?_ | apply OutOk.next
      | exact OutOk.fault _ | apply OutOk.finish | apply finish_memOk | apply vecWord_memOk | refine ExcOk.elim (by assumption) ?_
      | refine OutOk.elim (by assumption) ?_ | intro _ _ | dsimp only
theorem execVexpf_memOk (d : BitVec 7) (a : BitVec 7) {s : State} (hs : MemOk s) : OutOk (execVexpf d a s) := by
  unfold execVexpf
  (try dsimp only)
  with_reducible repeat' first
      | assumption | apply OutOk.next | exact OutOk.fault _ | apply specialWord_memOk | refine OutOk.elim (by assumption) ?_
      | dsimp only
theorem execVlogf_memOk (d : BitVec 7) (a : BitVec 7) {s : State} (hs : MemOk s) : OutOk (execVlogf d a s) := by
  unfold execVlogf
  (try dsimp only)
  with_reducible repeat' first
      | assumption | apply OutOk.next | exact OutOk.fault _ | apply specialWord_memOk | refine OutOk.elim (by assumption) ?_
      | dsimp only
theorem execVrcp_memOk (d : BitVec 7) (a : BitVec 7) {s : State} (hs : MemOk s) : OutOk (execVrcp d a s) := by
  unfold execVrcp
  (try dsimp only)
  with_reducible repeat' first
      | assumption | apply OutOk.next | exact OutOk.fault _ | apply specialWord_memOk | refine OutOk.elim (by assumption) ?_
      | dsimp only
theorem execVrsq_memOk (d : BitVec 7) (a : BitVec 7) {s : State} (hs : MemOk s) : OutOk (execVrsq d a s) := by
  unfold execVrsq
  (try dsimp only)
  with_reducible repeat' first
      | assumption | apply OutOk.next | exact OutOk.fault _ | apply specialWord_memOk | refine OutOk.elim (by assumption) ?_
      | dsimp only
theorem execVsinp_memOk (d : BitVec 7) (a : BitVec 7) {s : State} (hs : MemOk s) : OutOk (execVsinp d a s) := by
  unfold execVsinp
  (try dsimp only)
  with_reducible repeat' first
      | assumption | apply OutOk.next | exact OutOk.fault _ | apply specialWord_memOk | refine OutOk.elim (by assumption) ?_
      | dsimp only
theorem execVrndi_memOk (m : BitVec 3) (d : BitVec 7) (a : BitVec 7) {s : State} (hs : MemOk s) : OutOk (execVrndi m d a s) := by
  unfold execVrndi
  (try dsimp only)
  with_reducible repeat' first
      | assumption | exact ExcOk.error _ | apply ExcOk.ok | refine ExcOk.bind fun _ _ => ?_ | apply OutOk.next
      | exact OutOk.fault _ | apply OutOk.finish | refine ite_ok (fun _ => ?_) (fun _ => ?_) | apply finish_memOk
      | apply vecWord_memOk | refine ExcOk.elim (by assumption) ?_ | refine OutOk.elim (by assumption) ?_ | intro _ _ | dsimp only
theorem execVsclb_memOk (d : BitVec 7) (a : BitVec 7) (b : BitVec 7) {s : State} (hs : MemOk s) : OutOk (execVsclb d a b s) := by
  unfold execVsclb
  (try dsimp only)
  with_reducible repeat' first
      | assumption | exact ExcOk.error _ | apply ExcOk.ok | refine ExcOk.bind fun _ _ => ?_ | apply OutOk.next
      | exact OutOk.fault _ | apply OutOk.finish | refine ite_ok (fun _ => ?_) (fun _ => ?_) | apply finish_memOk
      | apply vecWord_memOk | refine ExcOk.elim (by assumption) ?_ | refine OutOk.elim (by assumption) ?_ | intro _ _ | dsimp only
theorem execVexpx_memOk (d : BitVec 7) (a : BitVec 7) {s : State} (hs : MemOk s) : OutOk (execVexpx d a s) := by
  unfold execVexpx
  (try dsimp only)
  with_reducible repeat' first
      | assumption | exact ExcOk.error _ | apply ExcOk.ok | refine ExcOk.bind fun _ _ => ?_ | apply OutOk.next
      | exact OutOk.fault _ | apply OutOk.finish | refine ite_ok (fun _ => ?_) (fun _ => ?_) | apply finish_memOk
      | apply vecWord_memOk | refine ExcOk.elim (by assumption) ?_ | refine OutOk.elim (by assumption) ?_
      | (simp only [MemOk_mk]; apply MemOk.wf) | split | intro _ _ | dsimp only
theorem execVexpxMant_memOk (d : BitVec 7) (a : BitVec 7) {s : State} (hs : MemOk s) : OutOk (execVexpxMant d a s) := by
  unfold execVexpxMant
  (try dsimp only)
  with_reducible repeat' first
      | assumption | exact ExcOk.error _ | apply ExcOk.ok | refine ExcOk.bind fun _ _ => ?_ | apply OutOk.next
      | exact OutOk.fault _ | apply OutOk.finish | refine ite_ok (fun _ => ?_) (fun _ => ?_) | apply finish_memOk
      | apply vecWord_memOk | refine ExcOk.elim (by assumption) ?_ | refine OutOk.elim (by assumption) ?_ | intro _ _ | dsimp only
theorem State.onHart_memOk {s : State} (h : Nat) (f : Hart → Hart) (hs : MemOk s) : MemOk (State.onHart s h f) := by
  unfold State.onHart
  (try dsimp only)
  with_reducible repeat' first | assumption | (simp only [MemOk_mk]; apply MemOk.wf) | dsimp only
theorem State.hubRead_memOk {s : State} (who : Requester) (off : Nat) (hs : MemOk s) : OptPairOk (State.hubRead s who off) := by
  unfold State.hubRead
  (try dsimp only)
  with_reducible repeat' first
      | assumption | exact OptPairOk.none | apply OptPairOk.some | refine ite_ok (fun _ => ?_) (fun _ => ?_)
      | apply execSemaRead_memOk | apply State.drew_memOk | refine OutOk.elim (by assumption) ?_
      | (simp only [MemOk_mk]; apply MemOk.wf) | split | dsimp only
theorem State.hubWrite_memOk {s : State} (who : Requester) (off : Nat) (v : W64) (hs : MemOk s) : MemOk (State.hubWrite s who off v) := by
  unfold State.hubWrite
  (try dsimp only)
  with_reducible repeat' first
      | assumption | refine ite_ok (fun _ => ?_) (fun _ => ?_) | apply execSemaWrite_memOk | apply execShctlFire_memOk
      | apply execShctlRearm_memOk | apply execComparatorWrite_memOk | apply execRegisterWrite_memOk
      | refine OutOk.elim (by assumption) ?_ | (simp only [MemOk_mk]; apply MemOk.wf) | split | dsimp only
theorem State.barRead_memOk {s : State} (who : Requester) (off : Nat) (hs : MemOk s) : MemOk (State.barRead s who off) := by
  unfold State.barRead
  (try dsimp only)
  with_reducible repeat' first
      | assumption | exact OptPairOk.none | apply OptPairOk.some | refine ite_ok (fun _ => ?_) (fun _ => ?_)
      | apply State.hubRead_memOk | refine OptPairOk.elim (by assumption) ?_ | (simp only [MemOk_mk]; apply MemOk.wf) | split
      | dsimp only
theorem State.hartPa_memOk {s : State} (h : Nat) (e : W64) (n : Need) (hs : MemOk s) : OptPairOk (State.hartPa s h e n) := by
  have w (a b : Nat) : MemOk { s with mem := Memory.writeN s.mem a (bytesOfNat 8 b) } := .of_wf (Memory.wf_writeN _ _ _ hs.wf)
  unfold State.hartPa
  dsimp only
  refine ite_ok (P := OptPairOk) (fun _ => OptPairOk.some hs) fun _ => ?_
  refine ite_ok (P := OptPairOk) (fun _ => OptPairOk.none) fun _ => ?_
  split
  · exact OptPairOk.some hs
  split
  · exact OptPairOk.none
  refine ite_ok (P := OptPairOk) (fun _ => OptPairOk.none) fun _ => ?_
  exact OptPairOk.some <| State.onHart_memOk _ _ (ite_ok (fun _ => hs) fun _ => w _ _)
theorem State.hartLoad_memOk {s : State} (h : Nat) (rd : Nat) (pa : Nat) (size : Nat) (hs : MemOk s) : MemOk (State.hartLoad s h rd pa size) := by
  unfold State.hartLoad
  (try dsimp only)
  with_reducible repeat' first
      | assumption | exact OptPairOk.none | apply OptPairOk.some | refine ite_ok (fun _ => ?_) (fun _ => ?_)
      | apply State.onHart_memOk | apply State.hubRead_memOk | refine OptPairOk.elim (by assumption) ?_
      | (simp only [MemOk_mk]; apply MemOk.wf) | split | intro _ _ | dsimp only
theorem State.hartPut_memOk {s : State} (h : Nat) (pa : Nat) (size : Nat) (v : W64) (hs : MemOk s) : MemOk (State.hartPut s h pa size v) := by
  unfold State.hartPut
  (try dsimp only)
  with_reducible repeat' first
      | assumption | refine ite_ok (fun _ => ?_) (fun _ => ?_) | apply State.storeNat_memOk | apply State.hubWrite_memOk
      | dsimp only
theorem State.hartAct_memOk {s : State} (h : Nat) (a : HartAct) (hs : MemOk s) : MemOk (State.hartAct s h a) := by
  unfold State.hartAct
  (try dsimp only)
  with_reducible repeat' first
      | assumption | exact OptPairOk.none | apply OptPairOk.some | refine ite_ok (fun _ => ?_) (fun _ => ?_)
      | apply State.hartPa_memOk | apply State.hartLoad_memOk | apply State.store_memOk | apply State.hartPut_memOk
      | apply State.storeNat_memOk | apply State.onHart_memOk | apply State.drew_memOk | apply State.claim_memOk
      | refine foldl_memOk (fun _ _ _ => ?_) ?_ | refine OptPairOk.elim (by assumption) ?_
      | (simp only [MemOk_mk]; apply MemOk.wf) | split | intro _ _ | dsimp only
theorem State.sendSc_memOk {s : State} (t : Nat) (op : Nat) (lane : Nat) (hs : MemOk s) : MemOk (State.sendSc s t op lane) := by
  unfold State.sendSc
  (try dsimp only)
  with_reducible repeat' first
      | assumption | refine ite_ok (fun _ => ?_) (fun _ => ?_) | apply State.onTeam_memOk | (simp only [MemOk_mk]; apply MemOk.wf)
      | split | intro _ _ | dsimp only
theorem State.predict_memOk {s : State} (t : Nat) (op : Nat) (lane : Nat) (page : Nat) (hs : MemOk s) : MemOk (State.predict s t op lane page) := by
  unfold State.predict
  (try dsimp only)
  with_reducible repeat' first
      | assumption | refine ite_ok (fun _ => ?_) (fun _ => ?_) | apply State.performAll_memOk | apply State.onTeam_memOk
      | refine snd_memOk (by assumption) ?_ | (simp only [MemOk_mk]; apply MemOk.wf) | split | intro _ _ | dsimp only
theorem State.enginePart_memOk {s : State} (t : Nat) (op : Nat) (part : Nat) (hs : MemOk s) : MemOk (State.enginePart s t op part) := by
  unfold State.enginePart
  (try dsimp only)
  with_reducible repeat' first
      | assumption | refine ite_ok (fun _ => ?_) (fun _ => ?_) | apply State.copyPart_memOk | apply State.listPart_memOk
      | apply State.fabPart_memOk | (simp only [MemOk_mk]; apply MemOk.wf) | split | intro _ _ | dsimp only
theorem State.hartStore_memOk {s : State} (pa : Nat) (bs : List Byte) (hs : MemOk s) : MemOk (State.hartStore s pa bs) := by
  unfold State.hartStore
  (try dsimp only)
  with_reducible repeat' first | assumption | refine ite_ok (fun _ => ?_) (fun _ => ?_) | apply State.store_memOk | dsimp only
theorem State.dropL1d_memOk {s : State} (c : Nat) (line : Nat) (hs : MemOk s) : MemOk (State.dropL1d s c line) := by
  unfold State.dropL1d
  (try dsimp only)
  with_reducible repeat' first | assumption | apply State.onCore_memOk | (simp only [MemOk_mk]; apply MemOk.wf) | intro _ _ | dsimp only
theorem State.dropL1i_memOk {s : State} (c : Nat) (key : Nat) (hs : MemOk s) : MemOk (State.dropL1i s c key) := by
  unfold State.dropL1i
  (try dsimp only)
  with_reducible repeat' first | assumption | apply State.onCore_memOk | (simp only [MemOk_mk]; apply MemOk.wf) | intro _ _ | dsimp only
theorem State.dropTlb_memOk {s : State} (c : Nat) (i : Nat) (hs : MemOk s) : MemOk (State.dropTlb s c i) := by
  unfold State.dropTlb
  (try dsimp only)
  with_reducible repeat' first | assumption | apply State.onCore_memOk | (simp only [MemOk_mk]; apply MemOk.wf) | intro _ _ | dsimp only
theorem State.dropL2_memOk {s : State} (i : Nat) (hs : MemOk s) : MemOk (State.dropL2 s i) := by
  unfold State.dropL2
  (try dsimp only)
  with_reducible repeat' first | assumption | (simp only [MemOk_mk]; apply MemOk.wf) | dsimp only

end Sys2Proof.Machine
end

