-- ==== Sys2Proof/Laws/Strands.lean ====
section
/-! SUPPORT. Records of the split table, overflow entries, and what the words that divide, join and end do to them. -/

namespace Sys2Proof.Machine

open Claims

/-- A record of a core's active bank. -/
theorem setStrand_record {s : State} {r : StrandRef} {i : Nat} (x : Strand) (h : (s.team r.team).held = .active) (hr : r.sid = some i) :
    s.setStrand r x = s.onCore (s.team r.team).core (fun c =>
      { c with active := { (s.core (s.team r.team).core).active with
                           split := SMap.set Strand.free (s.core (s.team r.team).core).active.split i x } }) := by
  unfold State.setStrand
  rw [hr]
  have hb : s.bank r.team = (s.core (s.team r.team).core).active := by unfold State.bank; rw [h]
  simp only [State.setBank, h, hb]

theorem strand_record {s : State} {r : StrandRef} {i : Nat} (h : (s.team r.team).held = .active) (hr : r.sid = some i) :
    s.strand r = SMap.get Strand.free (s.core (s.team r.team).core).active.split i := by
  unfold State.strand
  rw [hr]
  have hb : s.bank r.team = (s.core (s.team r.team).core).active := by unfold State.bank; rw [h]
  simp only [hb]

/-- What a record written in a core's active bank changes. -/
theorem core_setRecord {s : State} {r : StrandRef} {i : Nat} (x : Strand) (h : (s.team r.team).held = .active) (hr : r.sid = some i) (c : Nat) :
    (s.setStrand r x).core c = if c = (s.team r.team).core then
      { s.core c with active := { (s.core c).active with split := SMap.set Strand.free (s.core c).active.split i x } } else s.core c := by
  rw [setStrand_record x h hr, State.core_onCore]
  by_cases q : c = (s.team r.team).core
  · rw [if_pos q, if_pos q, q]
  · rw [if_neg q, if_neg q]

theorem team_setRecord {s : State} {r : StrandRef} {i : Nat} (x : Strand) (h : (s.team r.team).held = .active) (hr : r.sid = some i) :
    (s.setStrand r x).teams = s.teams := by
  rw [setStrand_record x h hr]; rfl

theorem rest_setRecord {s : State} {r : StrandRef} {i : Nat} (x : Strand) (h : (s.team r.team).held = .active) (hr : r.sid = some i) :
    ∃ z, s.setStrand r x = { s with cores := z } := ⟨_, setStrand_record x h hr⟩

/-! Overflow entries (01 R20). -/

theorem of_iff (r : StrandRef) (e : OvfEntry) : e.of r = true ↔ (e.owner = r.sid ∧ e.strm = r.strm) := by simp [OvfEntry.of]

theorem owning_none {T : Team} {r : StrandRef} (h : ∀ f ∈ T.ovf, ¬ (f.owner = r.sid ∧ f.strm = r.strm)) : T.owning r = none := by
  unfold Team.owning
  rw [List.find?_eq_none]
  intro f hf hc
  exact h f hf ((of_iff r f).mp hc)

theorem owning_some {T : Team} {r : StrandRef} {pre post : List OvfEntry} {e : OvfEntry} (h : T.ovf = pre ++ e :: post)
    (he : e.owner = r.sid ∧ e.strm = r.strm) (hp : ∀ f ∈ pre, ¬ (f.owner = r.sid ∧ f.strm = r.strm)) : T.owning r = some e := by
  unfold Team.owning
  rw [h, List.find?_append, List.find?_eq_none.mpr (fun f hf hc => hp f hf ((of_iff r f).mp hc))]
  simp [(of_iff r e).mpr he]

theorem editOwning_eq {r : StrandRef} {pre post : List OvfEntry} {e : OvfEntry} (f : OvfEntry → OvfEntry)
    (he : e.owner = r.sid ∧ e.strm = r.strm) (hp : ∀ f ∈ pre, ¬ (f.owner = r.sid ∧ f.strm = r.strm)) :
    editOwning r f (pre ++ e :: post) = pre ++ f e :: post := by
  induction pre with
  | nil =>
    show (if e.of r then f e :: post else e :: editOwning r f post) = f e :: post
    rw [if_pos ((of_iff r e).mpr he)]
  | cons g gs ih =>
    show (if g.of r then f g :: (gs ++ e :: post) else g :: editOwning r f (gs ++ e :: post)) = g :: (gs ++ f e :: post)
    rw [if_neg (fun hc => hp g (List.mem_cons_self) ((of_iff r g).mp hc)), ih (fun f hf => hp f (List.mem_cons_of_mem _ hf))]

theorem dropOwning_eq {r : StrandRef} {pre post : List OvfEntry} {e : OvfEntry}
    (he : e.owner = r.sid ∧ e.strm = r.strm) (hp : ∀ f ∈ pre, ¬ (f.owner = r.sid ∧ f.strm = r.strm)) :
    dropOwning r (pre ++ e :: post) = pre ++ post := by
  induction pre with
  | nil =>
    show (if e.of r then post else e :: dropOwning r post) = post
    rw [if_pos ((of_iff r e).mpr he)]
  | cons g gs ih =>
    show (if g.of r then gs ++ e :: post else g :: dropOwning r (gs ++ e :: post)) = g :: (gs ++ post)
    rw [if_neg (fun hc => hp g (List.mem_cons_self) ((of_iff r g).mp hc)), ih (fun f hf => hp f (List.mem_cons_of_mem _ hf))]

end Sys2Proof.Machine
end

