-- ==== Sys2Proof/Tests/Slice0.lean ====
section
/-! SUPPORT. Tests: well-formedness, decoding, single steps, and witnesses that the hypotheses of the statements can be met. -/

section
set_option Elab.async false
open Sys2Proof Sys2Proof.Machine Sys2Proof.Claims

/-! Well-formed terms and, for each check, terms that it refuses. -/

/-- One ill-formed term or more for each check of operand fields (02 R44): the words whose own entries reserve these values. -/
theorem test_wf_refuses : ([.brc 1 6 0, .loop 1 7 0, .srd 1 0x00D, .swr 1 0x013, .regacq 1 0, .regrel 1 12, .reggive 1 0, .regclaim 1 15,
    .vrdx 0 1 120, .vwrx 0 127 1, .vadd 4 1 2 3, .vsub 4 1 2 3, .vmul 7 1 2 3, .vfma 0 120 2 3, .vabs 2 1 2, .vneg 4 1 2, .vmovs 4 1 2,
    .vcmp 1 7 2 3 0, .vcmp 1 0 2 3 3, .vcvt 1 2 3 6 0 0, .vdot 120 1 2, .vrand 2 1, .leal 0 3 4 0, .leal 0 120 4 0, .leal 0 2 125 0,
    .vrndi 6 1 2, .vshfl 2 1 2 3, .vbcst 1 120 3, .vred 6 1 2, .vscan 0 1 126, .vbal 2 1 0, .vconf 2 1 2, .visect 0 1 2 121,
    .lds 0 3 1 0 3, .sts 0 120 1 0 1, .atoms 0 1 2 3 0 2, .cass 0 1 2 0 2, .cass 0 2 2 0 3, .cass 0 4 2 0 1, .ldl 0 3 1 0 3, .stl 0 1 120 0 2,
    .atoml 0 1 2 0 0 2, .ld 0 3 1 0 3, .st 0 125 1 0 3, .ldg 0 120 1 0 0, .stg 0 1 2 0 3, .atom 0 1 2 0 0 2, .atom 0 2 3 0 0 0, .cas 0 2 2 0 3,
    .waitc 5 0, .fence 6, .pref 0 2 1 0, .xprb 0 1 2 3, .ldref 0 3 1 0, .stref 0 2 120 0, .mrsv 1 0, .mrsv 1 65, .mzero 0 3 0,
    .mma 0 0 120 2 0, .mma 0 0 1 3 0, .mmas 0 0 1 3 0, .mrd 0 120 0 0, .msta 0 0 0 3 0, .msta 0 0 6 2 0, .mqnt 0 0 2, .mqnt 0 5 4, .msal 1 120 2,
    .ldsc 0 3 1 0 3, .stsc 0 1 120 0 2, .tpref 0 0 62, .tflush 0 62, .cpy 0 0 62, .cpyt 0 0 60, .rclaim 0 0 63, .rcommit 0 0 62,
    .rawait 0 0 63, .rretire 0 0 62, .spawn 0 0 63, .icinv 0 63, .publish 0 63, .fput 0 62, .fget 0 62, .fatom 0 60, .renq 0 61,
    .fsig 0 62] : List Instr).all (fun i => !i.wf) = true := by decide +kernel

/-- The values next to those are well formed. -/
theorem test_wf_admits : ([.brc 1 5 0, .srd 1 0x00C, .swr 1 0x012, .regacq 1 1, .regrel 1 11, .vrdx 0 1 119, .vadd 3 1 2 3, .vfma 0 119 2 3,
    .vabs 1 1 2, .vmovs 3 1 2, .vcmp 1 6 2 3 2, .vcvt 1 2 3 5 0 0, .vrand 1 1, .leal 0 118 119 7, .vrndi 5 1 2, .vred 5 1 2, .lds 0 2 1 0 3,
    .lds 0 120 1 0 2, .atoms 0 1 2 3 0 1, .cass 0 2 2 0 2, .cass 0 4 2 0 3, .atom 0 2 2 0 0 3, .waitc 4 63, .fence 5, .pref 0 1 1 0, .xprb 0 1 2 2,
    .ldref 0 2 1 0, .mrsv 1 64, .mzero 0 2 31, .mma 0 0 119 62 31, .msta 0 0 5 62 0, .mqnt 0 4 60, .tpref 0 0 61, .cpyt 0 0 59, .rclaim 0 0 62,
    .fatom 0 59, .renq 0 60, .endStrand] : List Instr).all Instr.wf = true := by decide +kernel

/-- The decoder reads an instruction from a word. -/
def reads (p : W32 × Instr) : Bool := match decodeWord p.1 with | .ok j => decide (j = p.2) | .error _ => false

/-! Words of the spec's examples, by family: each word as its table or rule prints it. -/

/-- Control flow (02 R38; 05 Tables and examples; 11 R226; 23 R391). -/
theorem test_decode_control : ([(0x01000000, .nop), (0x02FFFFFD, .bra (-3)), (0x03048000, .brc 1 1 0), (0x04004000, .bri 4), (0x05000004, .call 4),
    (0x06000000, .ret), (0x07200002, .divb 1 0 2), (0x07300005, .divb 1 1 5), (0x08000000, .join), (0x09000000, .endStrand), (0x0A000000, .yield 0),
    (0x0B08FFFF, .loop 2 1 (-1)), (0x0C00002A, .trap 0x2A), (0x0D000000, .bkpt 0), (0x0E000002, .sysc 2)] : List (W32 × Instr)).all reads = true := by decide +kernel

/-- Scalars, special registers, quotas, indices (02, 04, 05, 22). The SADDI word has its chain bit set. -/
theorem test_decode_scalar : ([(0x10082040, .sadd 2 2 1), (0x102C5145, .sor 11 5 5), (0x91040005, .saddi 1 0 5), (0x12140004, .slui 5 4),
    (0x13140011, .srd 5 0x011), (0x14009010, .swr 9 0x010), (0x18260000, .regacq 1 3), (0x1A100000, .reggive 0 8), (0x1B480000, .regclaim 2 4),
    (0x1C044008, .vidx 1 4 8), (0x1D229000, .vrdx 1 10 32), (0x1E280600, .vwrx 1 32 12), (0x1F10A180, .vtag 1 5 6)] : List (W32 × Instr)).all reads = true := by decide +kernel

/-- Vector elements, special functions, cross-lane words (06, 07, 12, 13, 15, 20). -/
theorem test_decode_vector : ([(0x20210286, .vadd 1 4 5 6), (0x22018185, .vmul 0 6 3 5), (0x23424103, .vfma 2 9 2 3), (0x2F007C80, .vmov 1 121),
    (0x30040007, .vmovi 2 7), (0x300407F0, .viota 2 (-16)), (0x33304050, .vcmp 1 4 8 5 0), (0x34228405, .vsel 1 10 8 5), (0x3520E181, .vcvt 2 7 6 0 0 1),
    (0x35516204, .vcvt 5 11 8 0 1 0), (0x38020387, .vdot 8 7 7), (0x3B400802, .pnot 2 1), (0x40030600, .vexpf 12 12), (0x4140C100, .vrndi 2 3 2),
    (0x42014206, .vsclb 5 4 6), (0x45024680, .vrcp 9 13), (0x48254A16, .vshfl 1 21 20 22), (0x4A080A00, .vred 0 32 20), (0x4B87CA00, .vscan 4 31 20),
    (0x4C278200, .vbal 1 30 4), (0x4D078A00, .vconf 0 30 20), (0x4E27098E, .visect 1 28 19 14), (0x74050A96, .msal 20 21 22)] : List (W32 × Instr)).all reads = true := by decide +kernel

/-- Scratchpad, queues, global memory, frames, references, the Catalogue (08, 09, 13, 19, 20). -/
theorem test_decode_memory : ([(0x5005028A, .lds 0 40 10 2 2), (0x5025028A, .lds 2 40 10 2 2), (0x510080C2, .sts 0 4 3 0 2), (0x5202924D, .atoms 0 20 2 9 3 1),
    (0x5303028A, .cass 0 24 10 2 2), (0x54000000, .waits), (0x5500C200, .qcfg 6 1), (0x56200001, .qstat 8 1), (0x57004000, .qdrn 2), (0x58000003, .tbar 3),
    (0x590501D4, .ldl 0 40 7 2 2), (0x5A00A0C4, .stl 0 5 3 0 2), (0x5B02924A, .atoml 0 20 2 9 1 1), (0x3E03024E, .leal 0 24 9 1), (0x5C05004A, .ld 0 40 1 2 2),
    (0x5D00604A, .st 0 3 1 2 2), (0x5E0F1F8A, .ldg 0 120 126 2 2), (0x5F01824A, .stg 0 12 9 2 2), (0x6002824C, .atom 0 20 0 9 3 0), (0x6103028B, .cas 0 24 10 2 3),
    (0x62000100, .waitc 1 0), (0x63000004, .fence 4), (0x64002288, .pref 0 1 10 2), (0x65020402, .xprb 0 8 4 2), (0x66010600, .catset 0 4 6),
    (0x67020402, .catget 0 8 4 2), (0x6800040F, .catld 0 4 15), (0x69000400, .catfree 0 4), (0x6A05028B, .ldref 0 40 10 2), (0x6A028052, .ldrefS 0 20 1 4),
    (0x6B01C09A, .strefS 0 14 2 6), (0x7705028A, .ldsc 0 40 10 2 2), (0x7805228A, .stsc 0 41 10 2 2)] : List (W32 × Instr)).all reads = true := by decide +kernel

/-- The matrix engine, Ephemeris, the XCMD words (13, 14, 17, 19, 20, 24). -/
theorem test_decode_units : ([(0x6C210000, .mrsv 1 4), (0x6D000000, .mrel), (0x6E001005, .mzero 0 1 5), (0x6F0A8183, .mma 0 1 40 6 3),
    (0x70108702, .mmas 1 0 8 28 2), (0x71028183, .mrd 0 40 6 3), (0x72008203, .msta 0 1 0 8 3), (0x73000300, .mqnt 0 0 12), (0x75020303, .mpairSend 0 2 12 3),
    (0x75021303, .mpairRecv 0 2 12 3), (0x76000000, .cbar), (0x79000601, .epld 0 6 1), (0x7A020900, .epgen 0 8 9 0), (0x7B028B00, .epinv 0 10 11 0),
    (0x7C00C200, .epctxAcq 0 3 2), (0x7C000001, .epctxRel 0), (0x7D030000, .epstat 0 12 0 0), (0x7E020405, .rclaim 0 8 4), (0x7E020407, .rawait 0 8 4),
    (0x7E024C06, .rcommit 0 9 12), (0x7E024C08, .rretire 0 9 12), (0x7E028210, .objnew 0 10 2), (0x7E001011, .publish 0 16), (0x7E050C12, .objinfo 0 20 12),
    (0x7E020418, .launch 0 8 4), (0x7E024019, .waitch 0 9), (0x7E000820, .fput 0 8), (0x7E000C21, .fget 0 12), (0x7E001022, .fatom 0 16),
    (0x7E002823, .renq 0 40), (0x7E001E24, .coll 0 30), (0x7E001825, .fsig 0 24)] : List (W32 × Instr)).all reads = true := by decide +kernel

/-- Reserved opcodes, reserved sub-functions, nonzero fixed fields and the zero word are no instruction (02 R39, R44). -/
theorem test_decode_refuses : ([0, 0x0F000000, 0x15000000, 0x7F000000, 0x01000001, 0x06000001, 0x1000000F, 0x3B000003, 0x30000800, 0x6A000001, 0x7E00001A] : List W32).all
    (fun w => match decodeWord w with | .ok _ => false | .error _ => true) = true := by decide +kernel

/-- A word is little-endian in memory (02 R33). -/
theorem test_decode_bytes : (decodeBytes [0x05, 0x00, 0x04, 0x91, 0xAB]).toOption = some (true, .saddi 1 0 5, [0xAB]) := by decide +kernel
theorem test_decode_table : decodeTableWord 32 0x10082040 = some (.sadd 2 2 1) ∧ decodeTableWord 32 0x0F000000 = none := by decide +kernel
theorem test_encode : encode true (.saddi 1 0 5) = some 0x91040005 ∧ encode false (.mpairRecv 0 2 12 3) = some 0x75021303 := by decide +kernel

/-! Witnesses: states and operands that meet the hypotheses of each statement, clause by clause, at boundary values where a clause has a range. -/

/-- A machine with one running team of 32 lanes on core 0, in its C-stream; its A-stream exists. -/
def W : State := State.reset.boot .c
/-- Its team with changes, and its C root strand with changes. -/
def WT (f : Team → Team) : State := W.onMine f
def WX (f : Strand → Strand) : State := W.onStrand W.cur f
/-- Scalars of the C-stream set. -/
def WS (l : List (Nat × W64)) : State := W.onMyStream (fun m => { m with sregs := l.foldl (fun t p => SMap.set 0 t p.1 p.2) m.sregs })
/-- All blocks mapped, v1 to v3 of group 0 with a tag, an entry of that tag in q0 of every lane, q6 set to that tag. -/
def WV (t : BitVec 4) : State :=
  (WT (fun T => { T with vtags := [(64, t), (128, t), (192, t), (7616, t)], qtags := [(0, t), (6, t)]
                         queues := (List.range 32).map (fun l => (8 * l, [{ val := some 7, tag := t, op := 0, drop := false }])) })).onStrand W.cur
    (fun x => { x with cnt := 11 })

/-- The conditions on vector fields as a test. -/
def vecReady (s : State) (srcs dsts : List Nat) : Bool :=
  let ls := s.mine.lanesOf s.me.mask
  (srcs ++ dsts).all (fun r => decide (120 ≤ r) || (!s.mine.regBusy r s.me.mask && (decide (r < 32) || (decide (r ≤ 119) && decide ((r - 32) / 8 < s.me.cnt)))))
  && srcs.all (fun f => decide (f < 120) || (ls.all (fun l => s.mine.headFilled (f - 120) l)
      && ls.all (fun l => s.mine.headTag (f - 120) l == s.mine.headTag (f - 120) (ls.headD 0))))
  && dsts.all (fun f => decide (f < 120) || (!s.otherClosed
      && ls.all (fun l => decide ((s.mine.queue (f - 120) l).length + s.mine.heldPops (f - 120) l < 8 + (if f ∈ srcs then 1 else 0)))))

theorem all_at {l : List Nat} {p : Nat → Bool} (h : l.all p = true) {x : Nat} (hx : x ∈ l) : p x = true := List.all_eq_true.mp h x hx

theorem vecReady_of {s : State} {srcs dsts : List Nat} (h : vecReady s srcs dsts = true) : VecReady s srcs dsts := by
  unfold vecReady at h
  simp only [Bool.and_eq_true] at h
  obtain ⟨⟨h1, h2⟩, h3⟩ := h
  have reg (r : Nat) (hr : r ∈ srcs ++ dsts) (hl : r < 120) : s.mine.regBusy r s.me.mask = false ∧ Mapped s r := by
    have := all_at h1 hr
    simp only [Bool.or_eq_true, Bool.and_eq_true, decide_eq_true_eq, Bool.not_eq_true'] at this
    rcases this with q | ⟨a, b⟩
    · omega
    · exact ⟨a, b⟩
  have src (f : Nat) (hf : f ∈ srcs) (hl : 120 ≤ f) := all_at h2 hf
  have dst (f : Nat) (hf : f ∈ dsts) (hl : 120 ≤ f) := all_at h3 hf
  refine ⟨fun r hr hl => (reg r hr hl).1, fun r hr hl => (reg r hr hl).2, ?_, ?_, ?_, ?_⟩
  · intro f hf hl l ha
    have := src f hf hl
    simp only [Bool.or_eq_true, Bool.and_eq_true, decide_eq_true_eq] at this
    rcases this with q | ⟨a, _⟩
    · omega
    · exact all_at a ((mem_lanesOf_active s l).mpr ha)
  · intro f hf hl l k ha hk _
    have := src f hf hl
    simp only [Bool.or_eq_true, Bool.and_eq_true, decide_eq_true_eq] at this
    rcases this with q | ⟨_, b⟩
    · omega
    · have e1 := all_at b ((mem_lanesOf_active s l).mpr ha)
      have e2 := all_at b ((mem_lanesOf_active s k).mpr hk)
      rw [beq_iff_eq] at e1 e2
      rw [e1, e2]
  · intro f hf hl
    have := dst f hf hl
    simp only [Bool.or_eq_true, Bool.and_eq_true, decide_eq_true_eq, Bool.not_eq_true'] at this
    rcases this with q | ⟨a, _⟩
    · omega
    · exact a
  · intro f hf hl l ha
    have := dst f hf hl
    simp only [Bool.or_eq_true, Bool.and_eq_true, decide_eq_true_eq, Bool.not_eq_true'] at this
    rcases this with q | ⟨_, b⟩
    · omega
    · exact of_decide_eq_true (all_at b ((mem_lanesOf_active s l).mpr ha))

/-- A property of the active lanes, and of the active groups, as a test. -/
theorem lanes_of {s : State} {P : Nat → Prop} (p : Nat → Bool) (hp : ∀ l, p l = true → P l) (h : (s.mine.lanesOf s.me.mask).all p = true) :
    ∀ l, Active s l → P l := fun l ha => hp l (all_at h ((mem_lanesOf_active s l).mpr ha))
theorem groups_of {s : State} {P : Nat → Prop} (p : Nat → Bool) (hp : ∀ g, p g = true → P g) (h : (s.mine.groupsOf s.me.mask).all p = true) :
    ∀ g, ActiveGroup s g → P g := fun g ha => hp g (all_at h ((mem_groupsOf_active s g).mpr ha))
theorem tagged_of {s : State} {fs : List Nat} {tag : Nat → BitVec 4}
    (h : fs.all (fun f => (s.mine.groupsOf s.me.mask).all (fun g => s.mine.fieldTag s.me.mask f g == tag g)) = true) : Tagged s fs tag := by
  intro f hf
  exact groups_of (fun g => s.mine.fieldTag s.me.mask f g == tag g) (fun g h => by simpa using h) (all_at h hf)
theorem fieldTags_of {s : State} {fs : List Nat} {ok : BitVec 4 → Prop} (p : BitVec 4 → Bool) (hp : ∀ t, p t = true → ok t)
    (h : fs.all (fun f => (s.mine.lanesOf s.me.mask).all (fun l => p (s.mine.fieldTag s.me.mask f (l / s.mine.gw)))) = true) : Claims.FieldTags s fs ok := by
  intro f hf
  exact lanes_of (fun l => p (s.mine.fieldTag s.me.mask f (l / s.mine.gw))) (fun l h => hp _ h) (all_at h hf)

/-- A group with an active lane, and an active lane. -/
theorem W_active : Active W 31 ∧ ¬ Active W 32 ∧ ActiveGroup W 0 := by
  refine ⟨by show _ < _ ∧ _; decide +kernel, fun h => absurd h.1 (by decide +kernel), by show _ < _; decide +kernel, 0, by decide +kernel, by decide +kernel⟩

theorem witness_scalar_words : Issues W ∧ ScalarsReady W [63, 0, 0] := by unfold Issues ScalarsReady; decide +kernel

theorem witness_special_reads : Issues W ∧ ScalarsReady W [63] ∧ 0 ∈ W.mine.groupsOf W.me.mask ∧ (∀ h, h ∈ W.mine.groupsOf W.me.mask → 0 ≤ h) ∧ (7 : Nat) < 8 := by
  refine ⟨by unfold Issues; decide +kernel, by unfold ScalarsReady; decide +kernel, by decide +kernel, fun h _ => Nat.zero_le h, by decide⟩

theorem witness_special_writes : (let s := WS [(1, 3), (2, 4)]
    Issues s ∧ ScalarsReady s [1] ∧ (s.sreg 1).toNat < 4 ∧ 4 ≤ (s.sreg 2).toNat ∧ s.untranslated s.cur = false
    ∧ (0x00F : BitVec 12) ≠ 0x010 ∧ (0x00F : BitVec 12) ≠ 0x011) := by unfold Issues ScalarsReady; decide +kernel

/-- Scalars for transfers: the last packet of the code extent, the first address after it, 1, and the first packet. -/
def WJ : State := WS [(1, 0x6002F4), (2, 0x600300), (3, 1), (63, 0x600000)]
/-- The last packet and the first address past either end. -/
theorem witness_transfer_targets : InCode WJ (target WJ.me.pc (62 : BitVec 24)) ∧ ¬ InCode WJ (target WJ.me.pc (64 : BitVec 24))
    ∧ ¬ InCode WJ (target WJ.me.pc (-1 : BitVec 15)) ∧ InCode WJ (target WJ.me.pc (63 : BitVec 15)) ∧ InCode WJ (WJ.sreg 1) ∧ InCode WJ (WJ.sreg 63)
    ∧ ¬ InCode WJ (WJ.sreg 2) := by unfold InCode; decide +kernel
theorem witness_transfers : Issues WJ ∧ ScalarsReady WJ [1] ∧ (WJ.sreg 1).toNat % 12 = 0 ∧ ScalarsReady WJ [63] ∧ (WJ.sreg 63).toNat % 12 = 0
    ∧ (WJ.sreg 2).toNat % 12 = 0 ∧ (WJ.sreg 3).toNat % 12 ≠ 0 ∧ WJ.untranslated WJ.cur = false := by unfold Issues ScalarsReady; decide +kernel
theorem witness_conditions : (5 : BitVec 3).toNat < 6 ∧ Cond 4 (WJ.sreg 3) ∧ ¬ Cond 5 (WJ.sreg 3) ∧ Cond 0 (WJ.sreg 3 - 1) ∧ ¬ Cond 1 (WJ.sreg 3 - 1) := by
  refine ⟨by decide, ?_, ?_, ?_, ?_⟩ <;> unfold Cond <;> decide +kernel

theorem tag_q6 : (WV 0).mine.qtag 6 = 0 ∧ (WV 1).mine.qtag 6 = 1 := by decide +kernel

/-- Registers at the ends of the file and queue ports as sources and destination, on an integer and a floating tag. -/
theorem witness_vector_arithmetic : (∀ t : BitVec 4, t = 0 ∨ t = 1 → let s := WV t
    Issues s ∧ VecReady s [1, 2] [119] ∧ VecReady s [1, 120] [126] ∧ VecReady s [1, 2, 3] [3] ∧ Tagged s [1, 2, 3] (fun _ => t) ∧ Tagged s [1, 120] (fun _ => t)
    ∧ PushTag s 126 (fun _ => t) ∧ (∀ g, ActiveGroup s g → t.toNat ∈ (if (0 : BitVec 3).getLsbD 1 then [1, 2, 3] else [0, 1, 2, 3, 10, 11, 12, 13])))
    ∧ (∀ g, ActiveGroup (WV 1) g → (1 : BitVec 4).toNat ∈ (if (2 : BitVec 3).getLsbD 1 then [1, 2, 3] else [])) := by
  refine ⟨?_, fun _ _ => by decide⟩
  rintro t (rfl | rfl)
  · exact ⟨by unfold Issues; decide +kernel, vecReady_of (by decide +kernel), vecReady_of (by decide +kernel), vecReady_of (by decide +kernel),
      tagged_of (by decide +kernel), tagged_of (by decide +kernel), fun _ _ _ => .inr tag_q6.1.symm, fun _ _ => by decide⟩
  · exact ⟨by unfold Issues; decide +kernel, vecReady_of (by decide +kernel), vecReady_of (by decide +kernel), vecReady_of (by decide +kernel),
      tagged_of (by decide +kernel), tagged_of (by decide +kernel), fun _ _ _ => .inr tag_q6.2.symm, fun _ _ => by decide⟩

/-- Integer tags of the shifts and VADDI; tags of the bitwise words that agree and that RAW joins; VSEL's predicates. -/
theorem witness_shifts_and_bits : (∀ g, ActiveGroup (WV 13) g → (13 : BitVec 4).toNat ∈ [0, 10, 11, 12, 13]) ∧ VecReady (WV 13) [1, 2] [31]
    ∧ Tagged (WV 13) [1, 2] (fun _ => 13) ∧ PushTag (WV 13) 31 (fun _ => 13)
    ∧ Tagged (WV 13) [4] (fun _ => tRaw) ∧ (∀ g, ActiveGroup (WV 13) g → (13 : BitVec 4) = tRaw ∨ (13 : BitVec 4) = tRaw ∨ tRaw = tRaw)
    ∧ PredsReady (WV 13) [7] := by
  refine ⟨fun _ _ => by decide, vecReady_of (by decide +kernel), tagged_of (by decide +kernel), fun h => absurd h (by decide), tagged_of (by decide +kernel),
    fun _ _ => .inr (.inr rfl), by unfold PredsReady; decide +kernel⟩

/-- Index registers: the last register, and the tags of moves and counts. -/
theorem witness_moves_and_counts : (let s := WV 0
    Issues s ∧ VecReady s [] [126] ∧ PushTag s 126 (fun _ => 0) ∧ ScalarsReady s [63] ∧ (3 : BitVec 4) ≠ tRef
    ∧ (s.myStream.xreg 3).toNat + (119 : BitVec 7).toNat < 120 ∧ VecReady s [119] [1] ∧ Tagged s [119] (fun _ => 0)
    ∧ VecReady s [1] [119] ∧ ∀ g, ActiveGroup s g → (0 : BitVec 4) ≠ tRef) := by
  refine ⟨by unfold Issues; decide +kernel, vecReady_of (by decide +kernel), fun _ _ _ => .inr tag_q6.1.symm, by unfold ScalarsReady; decide +kernel, by decide,
    by decide +kernel, vecReady_of (by decide +kernel), tagged_of (by decide +kernel), vecReady_of (by decide +kernel), fun _ _ => by decide⟩

theorem witness_compares : (let s := WV 1
    PredsReady s [7] ∧ PredsReady s [0, 7, 7] ∧ VecReady s [1, 120] [] ∧ Tagged s [1, 120] (fun _ => 1)
    ∧ (∀ g, ActiveGroup s g → (1 : BitVec 4) = tI32 ∨ (1 : BitVec 4) = tF32) ∧ (6 : BitVec 3).toNat < 7 ∧ (2 : BitVec 4).toNat < 3) := by
  refine ⟨by unfold PredsReady; decide +kernel, by unfold PredsReady; decide +kernel, vecReady_of (by decide +kernel), tagged_of (by decide +kernel),
    fun _ _ => .inr rfl, by decide, by decide⟩

/-- All blocks mapped, and registers of group 0 with these tags. -/
def WG (l : List (Nat × BitVec 4)) : State :=
  (WT (fun T => { T with vtags := l.map (fun p => (64 * p.1, p.2)), qtags := [(6, tF32)] })).onStrand W.cur (fun x => { x with cnt := 11 })

theorem group_zero {s : State} {P : Nat → Prop} (h : P 0) (hg : s.mine.ngroups = 1) : ∀ g, ActiveGroup s g → P g := by
  intro g ha
  have : g = 0 := by have := ha.1; omega
  rw [this]; exact h

/-- Conversions: a register that holds another tag and a pushed queue; a pair of formats that are 4 to 1 apart; packing and unpacking. -/
theorem witness_conversions : Issues (WG [(1, 0), (119, 15)])
    ∧ VecReady (WG [(1, 0), (119, 15)]) [1, 119] [119] ∧ Tagged (WG [(1, 0), (119, 15)]) [1] (fun _ => 0) ∧ cvtPair 1 0 = true
    ∧ VecReady (WG [(1, 0), (119, 15)]) [1] [126] ∧ (WG [(1, 0)]).mine.qtag 6 = 1 ∧ cvtPair 1 12 = false ∧ cvtPair 1 10 = true
    ∧ (packPair 10 0).isSome = true ∧ (packPair 13 11).isSome = true ∧ (unpackPair 0 10).isSome = true ∧ (unpackPair 11 8).isSome = true :=
  ⟨by unfold Issues; decide +kernel, vecReady_of (by decide +kernel), tagged_of (by decide +kernel), by decide, vecReady_of (by decide +kernel), by decide +kernel,
    by decide, by decide, by decide, by decide, by decide, by decide⟩

/-- Each kind of dot product, and a source that is its own accumulator's register neighbour. -/
theorem witness_dot_products : (∀ t : BitVec 4, t.toNat ∈ [2, 3, 4, 5] → let s := WG [(1, t), (2, t), (119, 1)]
      VecReady s [1, 2, 119] [119] ∧ Tagged s [1, 2] (fun _ => t) ∧ Tagged s [119] (fun _ => tF32))
    ∧ ∀ t : BitVec 4, t.toNat ∈ [10, 11, 12, 13] → let s := WG [(1, t), (2, t), (119, 0)]
      VecReady s [1, 2, 119] [119] ∧ Tagged s [1, 2] (fun _ => t) ∧ Tagged s [119] (fun _ => tI32) := by
  have go (t u : BitVec 4) (h : vecReady (WG [(1, t), (2, t), (119, u)]) [1, 2, 119] [119] = true)
      (h1 : ([1, 2].all (fun f => ((WG [(1, t), (2, t), (119, u)]).mine.groupsOf (WG [(1, t), (2, t), (119, u)]).me.mask).all
        (fun g => (WG [(1, t), (2, t), (119, u)]).mine.fieldTag (WG [(1, t), (2, t), (119, u)]).me.mask f g == t))) = true)
      (h2 : ([119].all (fun f => ((WG [(1, t), (2, t), (119, u)]).mine.groupsOf (WG [(1, t), (2, t), (119, u)]).me.mask).all
        (fun g => (WG [(1, t), (2, t), (119, u)]).mine.fieldTag (WG [(1, t), (2, t), (119, u)]).me.mask f g == u))) = true) :
      VecReady (WG [(1, t), (2, t), (119, u)]) [1, 2, 119] [119] ∧ Tagged (WG [(1, t), (2, t), (119, u)]) [1, 2] (fun _ => t)
        ∧ Tagged (WG [(1, t), (2, t), (119, u)]) [119] (fun _ => u) := ⟨vecReady_of h, tagged_of h1, tagged_of h2⟩
  constructor
  · intro t ht
    have : t = 2 ∨ t = 3 ∨ t = 4 ∨ t = 5 := by revert ht; revert t; decide
    rcases this with rfl | rfl | rfl | rfl <;> exact go _ 1 (by decide +kernel) (by decide +kernel) (by decide +kernel)
  · intro t ht
    have : t = 10 ∨ t = 11 ∨ t = 12 ∨ t = 13 := by revert ht; revert t; decide
    rcases this with rfl | rfl | rfl | rfl <;> exact go _ 0 (by decide +kernel) (by decide +kernel) (by decide +kernel)

/-- A seed whose low half is popped from q0, and one of two registers; a fraction pushed to a queue, and a number to the last register. -/
theorem witness_random : VecReady (WV 0) [120, 1] [] ∧ Tagged (WV 0) [120] (fun _ => 0) ∧ Tagged (WV 0) [1] (fun _ => 0) ∧ (0 : BitVec 4) ≠ tRef
    ∧ VecReady (WV 1) [] [126] ∧ (WV 1).mine.qtag 6 = 1 ∧ VecReady (WV 1) [] [119] :=
  ⟨vecReady_of (by decide +kernel), tagged_of (by decide +kernel), tagged_of (by decide +kernel), by decide, vecReady_of (by decide +kernel), tag_q6.2,
    vecReady_of (by decide +kernel)⟩

/-- An F32 source and an I32 exponent; results to a register and to q6. -/
theorem witness_special_functions : (let s := WG [(1, 1), (2, 0)]
    Issues s ∧ Tagged s [1] (fun _ => tF32) ∧ Tagged s [2] (fun _ => tI32) ∧ VecReady s [1] [126] ∧ PushTag s 126 (fun _ => tF32) ∧ VecReady s [1, 2] [119]
    ∧ PushTag s 119 (fun _ => tI32)) :=
  ⟨by unfold Issues; decide +kernel, tagged_of (by decide +kernel), tagged_of (by decide +kernel), vecReady_of (by decide +kernel),
    fun _ => group_zero (.inr (by decide +kernel)) (by decide +kernel), vecReady_of (by decide +kernel), fun h => absurd h (by decide)⟩

/-- Shuffles and broadcasts from a tagged register, ballots, conflicts and intersections of two tags. -/
theorem witness_cross_lane : (let s := WG [(1, 14), (2, 0), (3, 15), (4, 15)]
    Issues s ∧ Tagged s [1] (fun _ => tRef) ∧ Tagged s [2] (fun _ => tI32) ∧ VecReady s [1, 2] [119] ∧ (∀ g, ActiveGroup s g → (0 : BitVec 4) = tI32)
    ∧ PredsReady s [7] ∧ VecReady s [] [1] ∧ VecReady s [3] [3] ∧ Tagged s [3, 4] (fun _ => tRaw) ∧ VecReady s [3, 4] [3] ∧ Active s 0)
    ∧ (∀ l, Active (WG [(1, 14), (2, 0), (3, 15), (4, 15)]) l → (((WG [(1, 14), (2, 0), (3, 15), (4, 15)]).mine.vr 2 l).toNat % 1024) / 32 = l / 32) :=
  ⟨⟨by unfold Issues; decide +kernel, tagged_of (by decide +kernel), tagged_of (by decide +kernel), vecReady_of (by decide +kernel), fun _ _ => rfl,
    by unfold PredsReady; decide +kernel, vecReady_of (by decide +kernel), vecReady_of (by decide +kernel), tagged_of (by decide +kernel),
    vecReady_of (by decide +kernel), by show _ < _ ∧ _; decide +kernel⟩,
    lanes_of (fun l => decide ((((WG [(1, 14), (2, 0), (3, 15), (4, 15)]).mine.vr 2 l).toNat % 1024) / 32 = l / 32)) (fun _ h => of_decide_eq_true h) (by decide +kernel)⟩

/-- Reductions and scans: each operation with a tag that it takes. -/
theorem witness_reductions : (let s := WV 0
    VecReady s [1] [119] ∧ Tagged s [1] (fun _ => 0) ∧ Active s 31)
    ∧ (∀ m : BitVec 3, m.toNat < 6 → (redOfM m.toNat).tagOk 0 = true) ∧ (∀ m : BitVec 3, (scanOfM (m.toNat % 4)).tagOk 0 = true) :=
  ⟨⟨vecReady_of (by decide +kernel), tagged_of (by decide +kernel), by show _ < _ ∧ _; decide +kernel⟩, by decide, by decide⟩

theorem witness_saliency : (let s := WG [(1, 2), (2, 2), (119, 0)]
    VecReady s [1, 2, 119] [119] ∧ Tagged s [1, 2] (fun _ => 2) ∧ Tagged s [119] (fun _ => tI32)) :=
  ⟨vecReady_of (by decide +kernel), tagged_of (by decide +kernel), tagged_of (by decide +kernel)⟩

/-! Division, joining and ending. -/

/-- p1 holds lane 0 alone. -/
def WP : State := WT (fun T => T.setPred 1 (firstLanes 32) 1)
/-- Every split record but one, or but two, in use. -/
def WR (n : Nat) (ovf : List OvfEntry) : State :=
  (WT (fun T => { T.setPred 1 (firstLanes 32) 1 with ovf := ovf })).onCore 0 (fun c => { c with active := { c.active with
    split := (List.range n).map (fun i => (i, { Strand.free with st := .waiting, team := W.cur.team })) } })
def WO (running : Bool) (join : Option W64) (barr : Option Nat) : OvfEntry :=
  { owner := none, strm := .c, running := running, pc := 0x60000C, dmask := 1, amask := 2, join := join, wmark := 0, pwm := 0, barr := barr }

/-- Lanes taken: none, all, and some; targets in the code extent. -/
theorem witness_division : Issues WP ∧ PredsReady WP [1, 0] ∧ WP.me.st = .running ∧ WP.me.mask &&& WP.mine.pred 1 ≠ 0
    ∧ WP.me.mask &&& ~~~(WP.me.mask &&& WP.mine.pred 1) ≠ 0 ∧ WP.me.mask &&& ~~~WP.mine.pred 0 = 0 ∧ WP.me.mask &&& ~~~(WP.me.mask &&& WP.mine.pred 0) = 0
    ∧ InCode WP (target WP.me.pc (1 : BitVec 20)) := by
  refine ⟨?_, ?_, ?_, ?_, ?_, ?_, ?_, ?_⟩ <;> first | decide +kernel | (unfold Issues; decide +kernel) | (unfold PredsReady; decide +kernel) | (unfold InCode; decide +kernel)

/-- Two FREE records, the last two; one; an overflow stack of 63 and of 64 entries. -/
theorem witness_division_records : (let r (k : Nat) : Strand := SMap.get Strand.free ((WR 254 []).core (WR 254 []).mine.core).active.split k
      (254 : Nat) ≠ 255 ∧ (r 254).st = .free ∧ (r 255).st = .free)
    ∧ (let s := WR 255 (List.replicate 63 (WO false none none))
       Issues s ∧ PredsReady s [1] ∧ s.mine.ovf.length < 64
       ∧ ∀ j, j < 256 → (SMap.get Strand.free (s.core s.mine.core).active.split j).st = .free → j = 255) := by
  refine ⟨by decide +kernel, by unfold Issues; decide +kernel, by unfold PredsReady; decide +kernel, by decide +kernel, by decide +kernel⟩
theorem witness_division_full : (let s := WR 255 (List.replicate 64 (WO false none none))
    64 ≤ s.mine.ovf.length ∧ s.untranslated s.cur = false
    ∧ ∀ j, j < 256 → (SMap.get Strand.free (s.core s.mine.core).active.split j).st = .free → j = 255) := by
  refine ⟨by decide +kernel, by decide +kernel, by decide +kernel⟩

/-- A child in record 3 and its sibling in record 7; a root that owns an entry under one of another strand. -/
def WK : State :=
  let x (m : Mask) : Strand := { Strand.free with st := .running, team := W.cur.team, pc := 0x600000, mask := m }
  { (WT (fun T => { T with cs := { T.cs with root := { T.cs.root with st := .suspended } } })).onCore 0 (fun c => { c with active := { c.active with
      split := [(3, x 1), (7, x 2)] } }) with cur := { W.cur with sid := some 3 } }
def WE (e : OvfEntry) : State := WT (fun T => { T with ovf := [{ WO false none none with owner := some 9 }, e, WO false none none] })

theorem witness_joins : Issues WK ∧ OwnsNone WK ∧ WK.cur.sid = some 3 ∧ (∃ y, Sibling WK 7 y ∧ y.st ≠ .waiting
      ∧ SMap.get Strand.free (WK.core WK.mine.core).active.split 7 = y) ∧ WK.mine.cs.wmZero = false ∧ OwnsNone W ∧ W.cur.sid = none := by
  refine ⟨by unfold Issues; decide +kernel, by unfold OwnsNone; decide +kernel, rfl, ⟨SMap.get Strand.free (WK.core WK.mine.core).active.split 7, ?_, by decide +kernel, rfl⟩,
    by decide +kernel, by unfold OwnsNone; decide +kernel, rfl⟩
  unfold Sibling
  decide +kernel
theorem witness_joins_of_owners (e : OvfEntry) (he : e.owner = none ∧ e.strm = .c) : Issues (WE e) ∧ Owns (WE e) [{ WO false none none with owner := some 9 }] e [WO false none none] := by
  refine ⟨rfl, rfl, he.1, he.2, ?_⟩
  intro f hf
  rw [List.mem_singleton] at hf
  subst hf
  intro h
  exact absurd h.1 (show ¬ ((some 9 : Option Nat) = none) by decide)
theorem witness_join_entries : (WO false none none).running = false ∧ (WO true none none).join = none ∧ (WO true (some 0x600000) none).join = some (WE (WO true none none)).me.pc
    ∧ (0x60000C : W64) ≠ (WE (WO true (some 0x60000C) none)).me.pc ∧ (WE (WO true (some 0x60000C) none)).untranslated (WE (WO true (some 0x60000C) none)).cur = false
    ∧ (WO true (some 0x60000C) none).amask ≠ 0 := by decide +kernel

/-! Traps, calls, register blocks, queues and barriers. -/

theorem witness_calls : Issues W ∧ ScalarsReady W [48, 49, 50, 51, 52, 53, 54, 55] ∧ W.mine.accs = [] ∧ W.myStream.calls = []
    ∧ assigned 0x0031 = true ∧ assigned 0x0032 = false ∧ assigned 0x0000 = true := by unfold Issues ScalarsReady; decide +kernel

/-- The trap queue of the first context with PROD and CONS. -/
def WQ (prod cons : Nat) (f : Team → Team) : State := ((WT f).storeNat 0x400000 8 prod).storeNat 0x400008 8 cons
def oneAcc (st : LaneState) : AccessOp :=
  { id := 0, strm := .c, sid := none, pc := 0x600000, mask := 1, kind := .load, size := 4, ord := 0, scope := 0, policy := 0, dest := .regs 1 1 (some 15)
    coal := false, once := false, one := false, parked := false
    lanes := [{ lane := 0, e := 0x1000, at_ := .global, st := st, data := 0, cmp := 0, res := 0, tag := false, pops := [] }] }
theorem witness_trap_taken : (let s := WQ 63 0 (fun T => { T with accs := [oneAcc (.ready 0x1000)] })
    Issues s ∧ s.heldTraps = [] ∧ s.me.replay = none ∧ (s.ctx s.mine.ctx).handler ≠ some s.mine.grid ∧ s.mine.live = true ∧ 0 < (s.ctx s.mine.ctx).trapqN
    ∧ (let c := s.ctx s.mine.ctx; c.trapqVa.toNat % 64 = 0 ∧ c.trapqPages.Nodup ∧ (∀ p ∈ c.trapqPages, p % 4096 = 0)
        ∧ c.trapqVa.toNat % 4096 + 64 + 192 * c.trapqN ≤ 4096 * c.trapqPages.length)
    ∧ (∀ a ∈ s.mine.accs, a.strm = s.cur.strm → a.id ≤ s.lastOp) ∧ ∃ a ∈ s.mine.accs, a.strm = s.cur.strm ∧ a.performed = false) := by
  unfold Issues
  decide +kernel
/-- Room for one more record in a queue of 64 slots, no room, and a load not performed. -/
theorem witness_trap_room : (let s := WQ 63 0 id
      Issues s ∧ (s.ctx s.mine.ctx).handler ≠ some s.mine.grid ∧ s.memNat ((s.ctx s.mine.ctx).trapqAt 0) 8 - s.memNat ((s.ctx s.mine.ctx).trapqAt 8) 8 < (s.ctx s.mine.ctx).trapqN ∧ s.mine.accs = [])
    ∧ (let s := WQ 64 0 id
       let c := s.ctx s.mine.ctx
       s.memNat (c.trapqAt 8) 8 < s.memNat (c.trapqAt 0) 8 ∧ c.trapqN ≤ s.memNat (c.trapqAt 0) 8 - s.memNat (c.trapqAt 8) 8)
    ∧ (oneAcc (.ready 0x1000)).performed = false ∧ (oneAcc .toTranslate).id ≤ W.lastOp := by
  refine ⟨⟨by unfold Issues; decide +kernel, by decide +kernel, by decide +kernel, by decide +kernel⟩, by decide +kernel, by decide, by decide +kernel⟩

/-- A team's pool and its core's free blocks, and the requests of the bank; the strand maps n blocks. -/
def WB (held pool free n : Nat) (reqs : List RegReq) : State :=
  ((WT (fun T => { T with heldBlocks := held, pool := pool })).onStrand W.cur (fun x => { x with cnt := n })).onCore 0 (fun c =>
    { c with active := { c.active with pool := free, reqs := reqs } })
def WQ1 (claim : Bool) : RegReq := { r := W.cur, claim := claim, pd := 1, n := 15 }

/-- REGACQ past the bank, to its last block, behind another and short of blocks; REGREL, REGGIVE, REGCLAIM to their limits. -/
theorem witness_register_blocks :
    (let s := WB 754 0 768 0 []; Issues s ∧ PredsReady s [7] ∧ 768 < (s.mine.heldBlocks + 15) * s.mine.ngroups)
    ∧ (let s := WB 753 0 15 0 [WQ1 true]; Issues s ∧ (s.mine.heldBlocks + 15) * s.mine.ngroups ≤ 768 ∧ (∀ q ∈ (s.core s.mine.core).active.reqs, q.claim = true)
        ∧ 15 * s.mine.ngroups ≤ (s.core s.mine.core).active.pool)
    ∧ (let s := WB 753 0 14 0 [WQ1 false]; (s.mine.heldBlocks + 15) * s.mine.ngroups ≤ 768 ∧ (∃ q ∈ (s.core s.mine.core).active.reqs, q.claim = false)
        ∧ (s.core s.mine.core).active.pool < 15 * s.mine.ngroups) := by
  unfold Issues PredsReady
  refine ⟨by decide +kernel, by decide +kernel, by decide +kernel⟩
theorem witness_register_moves :
    (let s := WB 14 14 0 11 []; s.mine.pool < 15 ∧ 14 ≤ s.mine.pool ∧ s.me.cnt - s.me.wm < 12 ∧ 11 ≤ s.me.cnt - s.me.wm ∧ 11 < s.me.cnt + 1)
    ∧ (let s := WB 9 9 0 2 [WQ1 true]; s.me.cnt + 9 ≤ 11 ∧ ∃ q ∈ (s.core s.mine.core).active.reqs, q.claim = true ∧ q.r.team = s.cur.team)
    ∧ (let s := WB 9 9 0 2 [WQ1 false]; s.me.cnt + 9 ≤ 11 ∧ (∀ q ∈ (s.core s.mine.core).active.reqs, ¬ (q.claim = true ∧ q.r.team = s.cur.team)) ∧ 9 ≤ s.mine.pool) := by
  refine ⟨by decide +kernel, by decide +kernel, by decide +kernel⟩

/-- Requests that can be granted: one REGACQ behind a REGCLAIM, one REGCLAIM behind a REGACQ; a denial after 64 cycles of condition D. -/
theorem witness_request_answers :
    (let s := WB 0 0 15 0 [WQ1 true, WQ1 false]
     let s0 := { s with cur := (WQ1 false).r }
     Issues s0 ∧ s0.mine.core = 0 ∧ (s.core 0).active.reqs = [WQ1 true] ++ WQ1 false :: [] ∧ (∀ o ∈ [WQ1 true], o.claim = true)
       ∧ (WQ1 false).n * s0.mine.ngroups ≤ (s.core 0).active.pool)
    ∧ (let s := WB 15 15 0 0 [WQ1 false, WQ1 true]
       let s0 := { s with cur := (WQ1 true).r }
       (s.core 0).active.reqs = [WQ1 false] ++ WQ1 true :: [] ∧ (∀ o ∈ [WQ1 false], ¬ (o.claim = true ∧ o.r.team = (WQ1 true).r.team)) ∧ (WQ1 true).n ≤ s0.mine.pool) := by
  unfold Issues
  refine ⟨by decide +kernel, by decide +kernel⟩
theorem witness_denial :
    (let s := { (WB 0 0 0 0 [WQ1 false]).onCore 0 (fun c => { c with active := { c.active with dSince := some 0 } }) with clock := 64 }
     let s1 := s.onStrand W.cur (fun x => { x with st := .blocked, wait := .register })
     (s1.core 0).active.reqs = [] ++ [WQ1 false] ∧ (s1.core 0).active.dSince = some 0 ∧ 0 + 64 ≤ s1.clock ∧ s1.condD (s1.core 0).active = true) := by
  decide +kernel

theorem witness_queue_words : (let s := WV 0
    Issues s ∧ ScalarsReady s [63] ∧ (15 : BitVec 4) ≠ tRef ∧ s.untranslated s.cur = false
    ∧ (let occ := (s.mine.lanesOf s.me.mask).map (fun l => (s.mine.queue 0 l).length); 1 ∈ occ ∧ (∀ n ∈ occ, 1 ≤ n) ∧ ∀ n ∈ occ, n ≤ 1)) := by
  unfold Issues ScalarsReady
  refine ⟨by decide +kernel, by decide +kernel, by decide, by decide +kernel, by decide +kernel⟩

/-- A team of one strand, without an A-stream. -/
def WL : State := WT (fun T => { T with as := Stream.absent })
theorem witness_barriers_alone : Issues WL ∧ Alone WL :=
  ⟨by unfold Issues; decide +kernel, ⟨by decide +kernel, by decide +kernel, by decide +kernel, by decide +kernel, by decide +kernel, by decide +kernel⟩⟩
theorem witness_barriers : OwnsNone WL ∧ (WL.onStrand WL.cur (fun y => { y.advance with st := .blocked, wait := .tbar 15 })).mismatched WL.cur.team WL.cur.strm = false
    ∧ (WL.onStrand WL.cur (fun y => { y.advance with st := .blocked, wait := .cbar })).mismatched WL.cur.team WL.cur.strm = false
    ∧ (WO true none none).running = true ∧ (WO false none (some 3)).barr ≠ none ∧ (WO false none none).barr = none ∧ WL.untranslated WL.cur = false := by
  unfold OwnsNone
  refine ⟨by decide +kernel, by decide +kernel, by decide +kernel, rfl, by decide, rfl, by decide +kernel⟩
/-- Two children of the root at two barriers: they do not match. -/
theorem witness_barriers_mismatched : (let s := WK.onCore 0 (fun c => { c with active := { c.active with
      split := c.active.split.map (fun p => if p.1 = 7 then (7, { p.2 with st := .blocked, wait := .tbar 1 }) else p) } })
    (s.onStrand s.cur (fun y => { y.advance with st := .blocked, wait := .tbar 0 })).mismatched s.cur.team s.cur.strm = true
    ∧ s.untranslated s.cur = false ∧ OwnsNone s) := by
  unfold OwnsNone
  refine ⟨by decide +kernel, by decide +kernel, by decide +kernel⟩

/-! Accesses at issue. -/

/-- What AccessReady asks, as a test. -/
def accReady (s : State) (f : Claims.Form) (p : BitVec 4 → Bool) : Bool :=
  let n := Claims.regsOf f.size
  let regs := match f.kind with | .cas => Claims.dataRegs f.v (2 * n) | _ => Claims.dataRegs f.v n
  let srcs := f.offs ++ (match f.kind with | .load => [] | _ => regs)
  let ls := s.mine.lanesOf s.me.mask
  let tags (fs : List Nat) (q : BitVec 4 → Bool) : Bool := fs.all (fun x => ls.all (fun l => q (s.mine.fieldTag s.me.mask x (l / s.mine.gw))))
  decide (s.mine.held = .active) && s.me.replay.isNone
  && (List.range 8).all (fun i => let c := SMap.get Comparator.reset (s.core s.mine.core).cmps i; !c.regs.ctl.getLsbD 0 && c.olds.all (fun p => !p.1.ctl.getLsbD 0))
  && vecReady s srcs (match f.kind with | .store => [] | _ => regs)
  && tags f.offs (fun t => decide (t = 0)) && (decide (f.kind = .load) || tags regs p) && ls.all (fun l => decide ((f.addr l).toNat % f.size = 0))

theorem accessReady_of {s : State} {f : Claims.Form} {dtags : BitVec 4 → Prop} (p : BitVec 4 → Bool) (hp : ∀ t, p t = true → dtags t)
    (h : accReady s f p = true) : Claims.AccessReady s f dtags := by
  unfold accReady at h
  simp only [Bool.and_eq_true] at h
  obtain ⟨⟨⟨⟨⟨⟨h1, h2⟩, h3⟩, h4⟩, h5⟩, h6⟩, h7⟩ := h
  refine ⟨of_decide_eq_true (p := s.mine.held = .active) h1, by simpa using h2, fun i hi => ?_, vecReady_of h4, fieldTags_of (fun t => decide (t = 0)) (fun t h => of_decide_eq_true h) h5,
    fun hk => ?_, lanes_of (fun l => decide ((f.addr l).toNat % f.size = 0)) (fun _ h => of_decide_eq_true h) h7⟩
  · have := all_at h3 (List.mem_range.mpr hi)
    simpa using this
  · rw [Bool.or_eq_true] at h6
    rcases h6 with q | q
    · exact absurd (of_decide_eq_true q) hk
    · exact fieldTags_of p hp q

/-- A window of 4 KiB; v1 to v4 hold I32 but v2 RAW, v8 F32; s0 is the last word but one of the window, s2 the same in its cluster's rank 15, s4 an
address in memory, s6 in the aperture, with policies; the last lane's index is 1. -/
def WA : State :=
  (WT (fun T => { T with vtags := [(64, 0), (128, 15), (192, 0), (256, 0), (512, 1)], w := 4096, cs := { T.cs with sregs :=
    [(0, 4088), (2, 0xF00000FF8), (4, 0x100000), (5, 0x5400), (6, 0xFFFFFE0F00000FF8), (8, 0x40000000)] } })).onStrand W.cur (fun x => { x with cnt := 11 })
def formS (kind : AccKind) (v n off k : Nat) (place : State → W64 → Option (Nat × Nat)) : Claims.Form :=
  { kind := kind, v := v, size := n, offs := [off], pol := 0, addr := fun l => WA.sreg (BitVec.ofNat 6 (2 * k)) + (WA.mine.field off l).signExtend 64
    place := place WA, coal := false, once := false, spad := true }

/-- LDS into the last register and a queue, STS of two registers, ATOMS and CASS, at the window's last bytes; LDSC and STSC in rank 15. -/
theorem witness_scratchpad : ScalarsReady WA [0, 1, 2, 3]
    ∧ (let own (n : Nat) (s : State) (e : W64) := s.ownPlace s.cur.team e n
       let any (n : Nat) (s : State) (e : W64) := s.clusterPlace s.cur.team e n
       (∀ f ∈ [formS .load 119 8 1 0 (own 8), formS .load 126 4 1 0 (own 4), formS .load 119 1 1 1 (any 1)],
          accReady WA f (fun _ => true) = true ∧ (WA.mine.lanesOf WA.me.mask).all (fun l => (f.place (f.addr l)).isSome) = true)
       ∧ (∀ f ∈ [formS .store 3 8 1 0 (own 8), formS .cas 3 4 1 0 (own 4), formS .store 3 2 1 1 (any 2)],
          accReady WA f (fun t => decide (t ≠ 14)) = true ∧ (WA.mine.lanesOf WA.me.mask).all (fun l => (f.place (f.addr l)).isSome) = true)
       ∧ accReady WA (formS (.atomic 4) 3 4 1 0 (own 4)) (atomTagOk 4) = true ∧ accReady WA (formS (.atomic 9) 8 4 1 0 (own 4)) (atomTagOk 9) = true)
    ∧ WA.mine.live = true ∧ WA.mine.retiring = false ∧ (4088 : W64) >>> 40 ≠ 0xFFFFFE ∧ 4092 + 4 ≤ WA.mine.w := by
  unfold ScalarsReady
  refine ⟨by decide +kernel, ?_, by decide +kernel, by decide +kernel, by decide +kernel, by decide +kernel⟩
  refine ⟨by decide +kernel, by decide +kernel, by decide +kernel, by decide +kernel⟩

/-- A test that passes gives the hypotheses: the first of the forms above, and an atomic. -/
theorem witness_scratchpad_ready : Claims.AccessReady WA (formS .load 119 8 1 0 (fun s e => s.ownPlace s.cur.team e 8)) (fun _ => True)
    ∧ Claims.AccessReady WA (formS (.atomic 4) 3 4 1 0 (fun s e => s.ownPlace s.cur.team e 4)) (fun t => atomTagOk 4 t = true) :=
  ⟨accessReady_of (fun _ => true) (fun _ _ => trivial) (by decide +kernel), accessReady_of (atomTagOk 4) (fun _ h => h) (by decide +kernel)⟩

def formG (kind : AccKind) (v n off k : Nat) : Claims.Form :=
  { kind := kind, v := v, size := n, offs := [off], pol := 0, addr := fun l => WA.sreg (BitVec.ofNat 6 (2 * k)) + (WA.mine.field off l).signExtend 64
    place := fun e => WA.aperturePlace WA.cur.team e n, coal := false, once := true, spad := false }
def formLD (kind : AccKind) (v n stride : Nat) : Claims.Form :=
  { kind := kind, v := v, size := n, offs := [], pol := 0, addr := fun l => WA.sreg 4 + BitVec.ofNat 64 (l * n * stride)
    place := fun e => WA.aperturePlace WA.cur.team e n, coal := true, once := true, spad := false }

/-- Gathers and strided words in memory, with order 4 and scope 5, and in the aperture with order 0. -/
theorem witness_global : ScalarsReady WA [4, 5, 6, 7] ∧ (0x5400 : W32) &&& 0xFF = 0 ∧ ((0x5400 : W32) >>> 12).toNat % 16 = 5 ∧ ((0x5400 : W32) >>> 8).toNat % 16 = 4
    ∧ (∀ f ∈ [formG .load 119 8 1 2, formG .load 126 4 1 2, formLD .load 119 4 1, formLD .load 119 8 127], accReady WA f (fun _ => true) = true
        ∧ (WA.mine.lanesOf WA.me.mask).all (fun l => !aperture (f.addr l) && canonical (f.addr l)) = true)
    ∧ (∀ f ∈ [formG .store 3 8 1 2, formG .cas 3 4 1 2, formLD .store 3 4 1], accReady WA f (fun t => decide (t ≠ 14)) = true
        ∧ (WA.mine.lanesOf WA.me.mask).all (fun l => !aperture (f.addr l) && canonical (f.addr l)) = true)
    ∧ accReady WA (formG (.atomic 10) 2 8 1 2) (fun t => decide (t ≠ 14)) = true := by
  unfold ScalarsReady
  refine ⟨by decide +kernel, by decide, by decide, by decide, by decide +kernel, by decide +kernel, by decide +kernel⟩
theorem witness_global_aperture : accReady WA (formG .load 119 8 1 3) (fun _ => true) = true
    ∧ (WA.mine.lanesOf WA.me.mask).all (fun l => aperture ((formG .load 119 8 1 3).addr l) && ((formG .load 119 8 1 3).place ((formG .load 119 8 1 3).addr l)).isSome) = true
    ∧ ((WA.sreg 7).setWidth 32 >>> 8).toNat % 16 = 0 := by
  refine ⟨by decide +kernel, by decide +kernel, by decide +kernel⟩

/-- A frame of 64 bytes at level 0, an index of 60 in every lane. -/
def WF : State :=
  (WT (fun T => { T with vtags := [(64, 0), (192, 0), (512, 1)], displays := [(0, 0x20000)], frameSizes := [(0, 64)]
                         vregs := (List.range 32).map (fun l => (1024 + l, 60)) })).onStrand W.cur (fun x => { x with cnt := 11 })
def formF (kind : AccKind) (v : Nat) : Claims.Form :=
  { kind := kind, v := v, size := 4, offs := [1], pol := 0, addr := fun l => (WF.mine.field 1 l).setWidth 64, place := fun _ => none, coal := false, once := true, spad := false }
theorem witness_frames : accReady WF (formF .load 119) (fun _ => true) = true ∧ accReady WF (formF .store 3) (fun t => decide (t ≠ 14)) = true
    ∧ accReady WF (formF (.atomic 0) 3) (atomTagOk 0) = true ∧ (0 : BitVec 3).toNat ≤ WF.mine.level
    ∧ (WF.mine.lanesOf WF.me.mask).all (fun l => decide ((WF.mine.field 1 l).toNat + 4 ≤ SMap.get 0 WF.mine.frameSizes 0)) = true
    ∧ vecReady WF [1] [118, 119] = true := by
  refine ⟨by decide +kernel, by decide +kernel, by decide +kernel, by decide +kernel, by decide +kernel, by decide +kernel⟩

/-- v1 an I32 offset, v2 and v3 a pair of references, s10 a reference; no line is private. -/
def WRef : State :=
  (WT (fun T => { T with vtags := [(64, 0), (128, 14), (192, 14)], cs := { T.cs with sregs := [(4, 0x100000), (5, 0x5400), (10, 0x200000)], srefs := [(10, ())] } })).onStrand W.cur
    (fun x => { x with cnt := 11 })
theorem witness_references : Issues WRef ∧ WRef.me.replay = none ∧ ScalarsReady WRef [4, 5, 10] ∧ WRef.myStream.sref 10 = true
    ∧ vecReady WRef [1] [118, 119] = true ∧ vecReady WRef [1, 2, 3] [] = true
    ∧ (WRef.mine.lanesOf WRef.me.mask).all (fun l => decide ((WRef.sreg 4 + (WRef.mine.field 1 l).signExtend 64).toNat % 8 = 0)
        && canonical (WRef.sreg 4 + (WRef.mine.field 1 l).signExtend 64)) = true
    ∧ WRef.mine.privateLine 0x200000 = false ∧ (WRef.sreg 4 + BitVec.ofNat 64 (8 * 119)).toNat % 8 = 0 := by
  unfold Issues ScalarsReady
  refine ⟨by decide +kernel, by decide +kernel, by decide +kernel, by decide +kernel, by decide +kernel, by decide +kernel, by decide +kernel, by decide +kernel, by decide +kernel⟩
/-- A line that is private, stored into the team's own window and into the line itself. -/
theorem witness_escape_passes : (let T := { WRef.mine with spans := [{ base := 0x200000, next := 0x200080, priv := 1 }] }
    T.privateLine 0x200000 = true ∧ T.ownWindow 0xFFFFFE0F00000000 = true ∧ aperture 0x200008 = false ∧ T.privateLine 0x200008 = true) := by decide +kernel

/-- Accesses to a window that are done, and that are not; accesses to memory performed, and not; an operation issued and a count. -/
def oneBank (st : LaneState) : AccessOp := { oneAcc st with lanes := [{ lane := 0, e := 0, at_ := .window W.cur.team 0, st := st, data := 0, cmp := 0, res := 0, tag := false, pops := [] }] }
def WW (l : List AccessOp) : State := WT (fun T => { T with accs := l })
theorem witness_waits : (match W.me.wait with | .drain m => m | _ => W.lastOp + 1) = W.lastOp + 1
    ∧ (∀ a ∈ [oneBank .done], a.atBanks = true → ∀ l ∈ a.lanes, l.st = .done)
    ∧ (∃ a ∈ (WW [oneBank .performed]).mine.accs.filter (fun a => decide (a.id < W.lastOp + 1)), a.atBanks = true ∧ ∃ l ∈ a.lanes, l.st ≠ .done)
    ∧ (oneAcc .performed).performed = true
    ∧ (∃ a ∈ (WW [oneAcc .toTranslate]).mine.accs.filter (fun a => decide (a.id < W.lastOp + 1)), a.strm = W.cur.strm ∧ a.performed = false) := by
  refine ⟨by decide +kernel, by decide +kernel, by decide +kernel, by decide, by decide +kernel⟩
def oneEng (cls : Nat) (k : EngKind) (st : EngStage) : EngOp :=
  { id := 0, strm := .c, sid := none, pc := 0x600000, mask := firstLanes 32, cls := cls, kind := k, stage := st, since := 0, cats := [], fault := none, buffer := none }
theorem witness_counters : (¬ ∃ e ∈ W.mine.engs, e.strm = W.cur.strm ∧ e.cls = 4 ∧ e.stage = .issued) ∧ SMap.get 0 W.myStream.counters 4 ≤ 0
    ∧ (let s := WT (fun T => { T with engs := [oneEng 4 (.tpref 0 0 0 0) .issued] }); ∃ e ∈ s.mine.engs, e.strm = s.cur.strm ∧ e.cls = 4 ∧ e.stage = .issued)
    ∧ (let s := WT (fun T => { T with cs := { T.cs with counters := [(4, 64)] } }); (63 : BitVec 6).toNat < SMap.get 0 s.myStream.counters 4) := by
  refine ⟨by decide +kernel, by decide +kernel, by decide +kernel, by decide +kernel⟩

theorem witness_prefetch : Issues WA ∧ ScalarsReady WA [6, 7, 8, 9] ∧ VecReady WA [1] [] ∧ Claims.FieldTags WA [1] (fun t => t = 0)
    ∧ ((WA.sreg 7).setWidth 32 : W32) &&& 0xFFF = 0 ∧ aperture (WA.sreg 6 + (WA.mine.field 1 31).signExtend 64) = true ∧ canonical 0x800000000000 = false :=
  ⟨by unfold Issues; decide +kernel, by unfold ScalarsReady; decide +kernel, vecReady_of (by decide +kernel),
    fieldTags_of (fun t => decide (t = 0)) (fun _ h => of_decide_eq_true h) (by decide +kernel), by decide +kernel, by decide +kernel, by decide⟩

/-- One lane, whose line is found, or whose address does not translate. -/
def WPref (base : W64) : State :=
  (WT (fun T => { T with vtags := [(64, 0)], cs := { T.cs with sregs := [(8, base), (9, 0x5000)] } })).onStrand W.cur (fun x => { x with mask := 1 })
theorem witness_prefetch_lane : (let s := WPref 0x100000
      s.mine.lanesOf s.me.mask = [0] ∧ aperture (s.sreg 8 + (s.mine.field 1 0).signExtend 64) = false ∧ canonical (s.sreg 8 + (s.mine.field 1 0).signExtend 64) = true
      ∧ (match s.resolve s.cur.team (s.sreg 8) { r := true, w := false } with | .ok pa _ => !(s.openWays (homeLinear pa)).isEmpty | .fail _ => false) = true)
    ∧ (let s := WPref 0x8000000000; (match s.resolve s.cur.team (s.sreg 8) { r := true, w := false } with | .ok _ _ => false | .fail _ => true) = true) := by
  refine ⟨by decide +kernel, by decide +kernel⟩

/-! The Catalogue and the engine words. -/

def okAnd {ε α : Type} (x : Except ε α) (p : α → Bool) : Bool := match x with | .ok a => p a | .error _ => false
theorem ok_of {ε α : Type} {x : Except ε α} (p : α → Bool) : okAnd x p = true → ∃ a, x = .ok a ∧ p a = true :=
  match x with
  | .ok found => fun held => Exists.intro found (And.intro rfl held)
  | .error _ => fun never => Bool.noConfusion never

/-- At 0x100000 the image of a tensor of one element; s10 holds that address, s11 the last number. -/
def WC : State := (WS [(10, 0x100000), (11, 4095), (12, 0)]).store 0x100000 (bytesOfNat 64 (0x8000000000000101 * 2 ^ 448 + 2 ^ 64 + 0x200000))
theorem witness_catalogue : Issues WC ∧ ScalarsReady WC [10, 11, 12] ∧ WC.sreg 11 = BitVec.ofNat 64 4095 ∧ WC.sreg 12 = BitVec.ofNat 64 0
    ∧ (∃ u, checkRun WC (WC.sreg 10) 64 64 = .ok u ∧ true = true)
    ∧ ∃ a, spotHere WC (WC.sreg 10) 64 { r := true, w := false } = .ok a ∧ Entry.sound (BitVec.ofNat 512 (natOfBytes (a.2.getSpot a.1 64))) = true := by
  unfold Issues ScalarsReady
  exact ⟨by decide +kernel, by decide +kernel, by decide +kernel, by decide +kernel, ok_of (fun _ => true) (by decide +kernel),
    ok_of (fun a : Spot × State => Entry.sound (BitVec.ofNat 512 (natOfBytes (a.2.getSpot a.1 64)))) (by decide +kernel)⟩

/-- Operands of the engine words: runs in memory, to the end of the lower half, in the window, and of no bytes; policies. -/
def WD : State := (WT (fun T => { T with w := 4096, cs := { T.cs with sregs := [(10, 0x100000), (11, 0xFFFFFE0F00000FC0), (12, 64), (20, 0x5000), (30, 0x7FFFFFFFFFC0), (31, 0x100000), (32, 64)], srefs := [(30, ())] } }))
theorem witness_runs : Issues WD ∧ Claims.RunOk WD (WD.sreg 10) 64 64 ∧ Claims.RunOk WD (WD.sreg 11) 64 64 ∧ Claims.RunOk WD (WD.sreg 30) 64 64 ∧ Claims.RunOk WD 0x800000000000 0 1 := by
  refine ⟨by unfold Issues; decide +kernel, ⟨by decide +kernel, .inr (.inr (by decide +kernel))⟩, ⟨by decide +kernel, .inr (.inl ⟨by decide +kernel, 1, 4032, by decide +kernel, by decide +kernel⟩)⟩,
    ⟨by decide +kernel, .inr (.inr (by decide +kernel))⟩, ⟨by decide +kernel, .inl rfl⟩⟩
theorem witness_copies : ScalarsReady WD [10, 11, 12, 13, 14, 20, 30, 31, 32] ∧ (WD.sreg 12).toNat % 2 ^ 40 = 64 ∧ ((WD.sreg 20).setWidth 32 : W32) &&& 0xFFF = 0
    ∧ (((WD.sreg 20).setWidth 32 : W32) >>> 12).toNat % 16 = 5 ∧ WD.myStream.sref 30 = true ∧ (WD.sreg 31).toNat % 8 = 0 ∧ canonical (WD.sreg 31) = true ∧ aperture (WD.sreg 31) = false := by
  unfold ScalarsReady
  decide +kernel
theorem witness_fabric : (WD.sreg 32).toNat / 2 ^ 54 % 64 = 0 ∧ canonical (WD.sreg 30) = true ∧ aperture (WD.sreg 30) = false ∧ (WD.sreg 30).toNat % 64 = 0
    ∧ (WD.sreg 32).toNat / 2 ^ 60 = 0 ∧ (WD.sreg 32).toNat % 2 ^ 40 = 64 ∧ (0x6000000000000000 : W64).toNat / 2 ^ 60 ≤ 6 ∧ (0x6000000000000000 : W64).toNat % 2 ^ 40 = 0
    ∧ (0x1000000000000000 : W64).toNat / 2 ^ 60 ≤ 1 := by decide +kernel

/-- Generator contexts: none, a released one, a live one; a list of 256 words at the window's start; a pattern. -/
def WGc (rel : Bool) : State := WT (fun T => { T with w := 266240, gcs := [{ GenCtx.empty 0 5 with rel := rel }], cs := { T.cs with sregs := [(10, 4), (11, 0xFF00000000), (12, 0x100000)] } })
theorem witness_ephemeris : Issues (WGc true) ∧ ScalarsReady (WGc true) [9, 10, 11, 12] ∧ (∃ g ∈ (WGc false).mine.gcs, g.rel = false)
    ∧ (∀ g ∈ (WGc true).mine.gcs, g.rel = true) ∧ ((WGc true).sreg 10).toNat = 4 ∧ 4 ≤ ((WGc true).quad (quadOf (WGc true).mine.core)).contexts
    ∧ (WGc true).mine.engs = [] ∧ (WGc false).mine.gc? 0 = some { GenCtx.empty 0 5 with rel := false }
    ∧ ((WGc false).sreg 11).toNat / 2 ^ 32 % 256 + 1 = 256 ∧ (WGc false).ownPlace (WGc false).cur.team ((WGc false).sreg 9) (4 * 257 + 1024 * 256) = some ((WGc false).cur.team, 0) := by
  unfold Issues ScalarsReady
  refine ⟨by decide +kernel, by decide +kernel, by decide +kernel, by decide +kernel, by decide +kernel, by decide +kernel, by decide +kernel, by decide +kernel,
    by decide +kernel, by decide +kernel⟩
/-- An ACQ before and after that of another team in its cycle. -/
def WAcq (k : Nat) : State := (WGc true).onQuad 0 (fun Q => { Q with acqAt := some (0, k) })
theorem witness_acquire_turns : ((WAcq 0).quad (quadOf (WAcq 0).mine.core)).acqAt = some (0, 0) ∧ 0 ≤ 64 * (WAcq 0).mine.core + (WAcq 0).mine.slot
    ∧ ((WAcq 1).quad (quadOf (WAcq 1).mine.core)).acqAt = some (0, 1) ∧ (WAcq 1).clock = 0 ∧ ¬ 1 ≤ 64 * (WAcq 1).mine.core + (WAcq 1).mine.slot := by decide +kernel
/-- A pattern that is read to its end. -/
theorem witness_pattern : Claims.RunOk (WGc false) ((WGc false).sreg 12) 8 8
    ∧ ∃ a, spotHere (WGc false) ((WGc false).sreg 12) 8 { r := true, w := false } = .ok a
      ∧ (match readPattern (BitVec.ofNat 64 (natOfBytes (a.2.getSpot a.1 8))) ((WGc false).sreg 12) 33 [] a.2 with | .ok _ => true | .error _ => false) = true :=
  ⟨⟨by decide +kernel, .inr (.inr (by decide +kernel))⟩,
    ok_of (fun a : Spot × State => match readPattern (BitVec.ofNat 64 (natOfBytes (a.2.getSpot a.1 8))) ((WGc false).sreg 12) 33 [] a.2 with | .ok _ => true | .error _ => false) (by decide +kernel)⟩

/-! The matrix engine. -/

def resvOf (n : Nat) (kinds : SMap Nat) : Resv := { n := n, kinds := kinds, latch := none, urgent := false, headAt := 0 }
/-- A reservation, posted operations, the panel v1 to v18 with a tag. -/
def WM (v : Option Resv) (l : List EngOp) (t : BitVec 4) : State :=
  (WT (fun T => { T with resv := v, engs := l, vtags := (List.range 18).map (fun i => (64 * (i + 1), t)) })).onStrand W.cur (fun x => { x with cnt := 11 })

/-- MRSV for all tiles and one too many, on a team with a reservation and without; MREL with an operation posted and without. -/
theorem witness_reservations : Issues W ∧ PredsReady W [7] ∧ W.mine.resv = none
    ∧ (let Q := W.quad (quadOf W.mine.core); Q.waits = [] ∧ 1 ≤ Q.entries ∧ (64 : BitVec 7).toNat ≤ Q.tiles ∧ ¬ (65 : BitVec 7).toNat ≤ Q.tiles)
    ∧ (WM (some (resvOf 64 [])) [] 2).mine.resv ≠ none ∧ (WM (some (resvOf 64 [])) [] 2).mine.engs = []
    ∧ (∃ e ∈ (WM (some (resvOf 64 [])) [oneEng 1 (.mzero 0 0) .issued] 2).mine.engs, e.matrix = true ∧ ¬ (e.half = true ∧ e.stage = .done)) := by
  unfold Issues PredsReady
  refine ⟨by decide +kernel, by decide +kernel, by decide +kernel, by decide +kernel, by decide +kernel, by decide +kernel, by decide +kernel⟩

/-- One whole group; the last tile and the last pair; a product from the file, scaled, and from the A latch; registers for MRD. -/
theorem witness_matrix_words : (let s := WM (some (resvOf 64 [(62, 2)])) [] 10
      Issues s ∧ ScalarsReady s [60, 61, 62, 63] ∧ PredsReady s [7] ∧ s.mine.groupsOf s.me.mask = [0] ∧ s.mine.groupMask 0 = s.me.mask ∧ s.mine.gw = 32
      ∧ (63 : BitVec 6).toNat < 64 ∧ (62 : BitVec 6).toNat % 2 = 0 ∧ (62 : BitVec 6).toNat + 1 < 64)
    ∧ (let s := WM (some (resvOf 64 [])) [] 10
       s.mine.vtag 1 0 = 10 ∧ aData 10 0 = 16 ∧ tagKind 10 true = some 0 ∧ tagKind 10 false = some 1
       ∧ (∀ r ∈ (List.range 17).map (fun r => 1 + r), s.mine.regBusy r s.me.mask = false ∧ (r < 32 ∨ (r ≤ 119 ∧ (r - 32) / 8 < s.me.cnt)))
       ∧ panelTags s.mine 0 1 16 true 10 = false ∧ panelTags s.mine 0 1 16 false 10 = true)
    ∧ (let v := { resvOf 64 [] with latch := some { group := 0, va := 1, tag := 15, regs := [] } }; v.latch.any (fun l => l.group == 0 && l.va == (1 : BitVec 7).toNat) = true)
    ∧ (let s := WM (some (resvOf 64 [(62, 2)])) [] 10; ∀ i, i < 16 → s.mine.regBusy (104 + i) s.me.mask = false ∧ ((104 + i) - 32) / 8 < s.me.cnt) := by
  unfold Issues ScalarsReady PredsReady
  refine ⟨by decide +kernel, by decide +kernel, by decide, by decide +kernel⟩

def mzeroOp : EngOp := oneEng 1 (.mzero 0 2) .accepted
def waitOf (w : Nat) (n : Nat) : MrsvReq := { r := W.cur, pd := 1, n := n, waited := w }
def WQd (waits : List MrsvReq) (v : Option Resv) (l : List EngOp) : State := (WM v l 2).onQuad 0 (fun Q => { Q with waits := waits })

/-- A wait that is granted its 64 tiles in the last cycle, one that is denied since its team has a reservation, one that has waited too long. -/
theorem witness_matrix_events : (let s := WQd [waitOf 65535 64] none []
      (s.quad 0).waits = [] ++ waitOf 65535 64 :: [] ∧ (s.team W.cur.team).held = .active ∧ quadOf (s.team W.cur.team).core = 0 ∧ (s.team W.cur.team).resv = none
      ∧ (∀ o ∈ (s.quad 0).waits, o.r.team = W.cur.team → o.r = W.cur) ∧ (waitOf 65535 64).n ≤ (s.quad 0).tiles ∧ 1 ≤ (s.quad 0).entries
      ∧ (waitOf 65535 64).waited < 65536)
    ∧ ((WQd [waitOf 0 64] (some (resvOf 1 [])) []).team W.cur.team).resv ≠ none
    ∧ (let s := WQd [waitOf 65536 64] none []
       (∀ o ∈ (s.quad 0).waits, o.r = W.cur → o = waitOf 65536 64) ∧ waitOf 65536 64 ∈ (s.quad 0).waits ∧ 65536 ≤ (waitOf 65536 64).waited) := by
  refine ⟨by decide +kernel, by decide +kernel, by decide +kernel⟩
def mrdOp : EngOp := oneEng 5 (.mrd 63 1 0 104 15) .accepted
theorem one_team {v : Option Resv} {l : List EngOp} {ws : List MrsvReq} : ∀ p ∈ (WQd ws v l).teams, p.1 = W.cur.team ∧ p.2 = (WQd ws v l).team W.cur.team := by
  intro p hp
  have h : (WQd ws v l).teams = [(W.cur.team, (WQd ws v l).team W.cur.team)] := rfl
  rw [h, List.mem_singleton] at hp
  rw [hp]
  exact ⟨rfl, rfl⟩
/-- The only ready entry, with MZERO or MRD at its head, and an entry that becomes urgent after 4,096 cycles. -/
theorem witness_matrix_head (e : EngOp) (he : e = mzeroOp ∨ e = mrdOp) : (let s := WQd [] (some (resvOf 64 [])) [e]
      let T := s.team W.cur.team
      T.live = true ∧ T.resv = some (resvOf 64 []) ∧ quadOf T.core = 0 ∧ T.matrixQueue = e :: [] ∧ (∀ p ∈ s.teams, p.1 = W.cur.team → p.2 = T)
      ∧ s.ready W.cur.team e = true ∧ Claims.First s 0 (W.cur.team, e) ∧ e.half = false ∧ T.eng? e.id = some e ∧ T.groupsOf e.mask = [0]
      ∧ (resvOf 64 []).headAt + 4096 ≤ ({ s with clock := 4096 } : State).clock) := by
  rcases he with rfl | rfl <;>
    exact ⟨by decide +kernel, by decide +kernel, by decide +kernel, by decide +kernel, fun p hp _ => (one_team p hp).2, by decide +kernel,
      fun p hp h => absurd (one_team p hp).1 h, by decide +kernel, by decide +kernel, by decide +kernel, by decide +kernel⟩
def halfOp (send : Bool) (partner : W32) (st : EngStage) : EngOp := oneEng 1 (.mpair send 0 0 0 1 partner 7 []) st
theorem witness_pair_abort : (let s := { WQd [] (some (resvOf 1 [])) [halfOp true 5 .accepted] with clock := 65536 }
    (s.team W.cur.team).eng? 0 = some (halfOp true 5 .accepted) ∧ (halfOp true 5 .accepted).pendingHalf = true ∧ s.teamAt W.cur.team 5 = none
    ∧ (halfOp true 5 .accepted).since + 65536 ≤ s.clock ∧ s.partnerHalf W.cur.team (halfOp true 5 .accepted) = none) := by
  refine ⟨by decide +kernel, by decide +kernel, by decide +kernel, by decide +kernel, by decide +kernel⟩

/-! Units. -/

/-- A team that has issued one word for a unit, number 4095 of the Catalogue a tensor of one element. -/
def WUnit (e : EngOp) : State :=
  (WM (some (resvOf 64 [])) [e] 2).onCtx W.mine.ctx (fun c => { c with cat := [(4095, 0x8000000000000101 * 2 ^ 448 + 2 ^ 64 + 0x200000)] })
/-- A word that its unit can accept. -/
def acceptable (e : EngOp) : Prop :=
  let s := WUnit e
  let T := s.team W.cur.team
  T.eng? 0 = some e ∧ e.id = 0 ∧ e.stage = .issued ∧ s.hub.railsOn = true ∧ (∀ o ∈ T.engs, o.id < 0 → o.strm = e.strm → o.stage ≠ .issued)
  ∧ (e.cls ≤ 4 → (T.stream e.strm).counter e.cls < 63) ∧ (e.matrix = true → T.matrixQueue.length < 8)
/-- A word of each kind of clause; a word whose tensor is valid and one whose tensor is not. -/
theorem witness_acceptance : (∀ e ∈ [oneEng 0 (.cpy 0x100000 0x200000 64 0) .issued, oneEng 2 (.epld 5 0 []) .issued, oneEng 2 (.epgen false 5 0 0) .issued,
      oneEng 5 (.epstat none false 63) .issued, mzeroOp, mrdOp].map (fun e => { e with stage := .issued }), acceptable e)
    ∧ acceptable (oneEng 3 (.publish 0x100000 0x200000) .issued)
    ∧ (acceptable (halfOp true 0 .issued) ∧ (WUnit (halfOp true 0 .issued)).teamAt W.cur.team 0 ≠ none)
    ∧ (acceptable (halfOp true 5 .issued) ∧ (WUnit (halfOp true 5 .issued)).teamAt W.cur.team 5 = none)
    ∧ (let e := oneEng 4 (.fabric 5 0x100000 0 0 0 0) .issued; acceptable e ∧ e.fab.isSome = true ∧ ∀ v, e.fab = some v → v.fn = 5)
    ∧ (let e := oneEng 0 (.tpref 4095 0 0 0) .issued
       acceptable e ∧ (match (WUnit e).readEntries W.cur.team e with | .ok _ => true | .error _ => false) = true ∧ e.half = false ∧ e.fab = none)
    ∧ (let e := oneEng 0 (.cpyt 4095 0 4094 0 0 0) .issued
       acceptable e ∧ (match (WUnit e).readEntries W.cur.team e with | .ok _ => false | .error _ => true) = true ∧ (WUnit e).fabWaits W.cur.team e = false
       ∧ e.sid ≠ some Config.splitRecords ∧ (WUnit e).stoppable { team := W.cur.team, strm := e.strm, sid := e.sid } 0 = true) := by
  unfold acceptable
  refine ⟨by decide +kernel, by decide +kernel, by decide +kernel, by decide +kernel, ⟨by decide +kernel, rfl, ?_⟩, by decide +kernel, by decide +kernel⟩
  intro v h
  exact congrArg FabView.fn (Option.some.inj h).symm
/-- Ranges of the touch words: a whole line, one that is not mapped; a tensor of memory. -/
theorem witness_touches : (let s := WUnit (oneEng 0 (.tpref 0 0x100000 128 0) .accepted)
      (∀ u ∈ W.cur.team :: (s.team W.cur.team).cluster, (s.team u).unrestored = []) ∧ aperture 0x100000 = false ∧ canonical 0x100000 = true
      ∧ (match s.resolve W.cur.team 0x100000 { r := true, w := false } with | .ok pa _ => decide (pa % 128 + 128 ≤ 128) && !(s.openWays (homeLinear pa)).isEmpty | .fail _ => false) = true
      ∧ (match s.resolve W.cur.team 0x8000000000 { r := true, w := false } with | .ok _ _ => false | .fail _ => true) = true)
    ∧ (let x : Machine.Entry := 0x8000000000000101 * 2 ^ 448 + 2 ^ 64 + 0x200000; x.valid = true ∧ x.spad = false) := by
  refine ⟨by decide +kernel, by decide +kernel⟩
def WCp (k : EngKind) : State := (WM none [oneEng 0 k .accepted] 2).onMine (fun T => { T with w := 8192 })
theorem witness_copy_runs : (let dst : W64 := 0xFFFFFE0F00001000
      let src : W64 := 0xFFFFFE0F00000FC0
      let s := WCp (.cpy dst src 64 0)
      (∀ u ∈ W.cur.team :: (s.team W.cur.team).cluster, (s.team u).unrestored = [])
      ∧ (s.mapRuns W.cur.team 0 (oneEng 0 (.cpy dst src 64 0) .accepted).copyRuns).overlaps = false
      ∧ s.aperturePlace W.cur.team dst 0 = some (W.cur.team, 4096) ∧ s.aperturePlace W.cur.team src 0 = some (W.cur.team, 4032)
      ∧ (s.team W.cur.team).live = true ∧ dst.toNat % 4096 + 64 ≤ 4096 ∧ src.toNat % 4096 + 64 ≤ 4096) := by
  refine ⟨by decide +kernel, by decide +kernel, by decide +kernel, by decide +kernel, by decide +kernel, by decide, by decide⟩
theorem witness_ephemeris_unit : (let e := oneEng 2 (.epld 5 0 []) .accepted
      let T := { (WM none [e] 2).mine with gcs := [GenCtx.empty 0 5] }
      e.stage = .accepted ∧ T.ephReady e = true ∧ T.gcBy 5 = some (GenCtx.empty 0 5))
    ∧ (let e := oneEng 2 (.epgen false 5 0 0) .accepted; (WM none [e] 2).mine.ephReady e = true)
    ∧ (let e := oneEng 5 (.epstat none false 63) .accepted; (WM none [e] 2).mine.ephReady e = true)
    -- a context that is not ready, and a ready one that is not invertible; the band of one diagonal, four rows and columns
    ∧ (GenCtx.empty 0 5).st ≠ 1 ∧ (match loadState 0x400000004 [0x10000000, 0] with | .ready P => P.row 0x400000004 3 == [3] | _ => false) = true
    ∧ ((0 : W64) >>> 32).toNat % 256 = 0 := by decide +kernel
/-- A retirement, with and without a fault; a deferred trap whose strand runs. -/
theorem witness_retirement : (let e := { oneEng 0 (.cpy 0 0 0 0) .done with fault := some { cause := 0x21, detail := 0, code := 0, addr := 0 } }
      let s := WM none [e] 2
      e.stage = .done ∧ (s.team W.cur.team).retiring = false ∧ (s.team W.cur.team).engs.find? (fun o => decide (o.strm = e.strm) && o.cls == e.cls) = some e)
    ∧ (let d : DeferredTrap := { strm := .c, mask := 1, pc := 0x600000, fault := { cause := 0x21, detail := 0, code := 0, addr := 0 } }
       let s := WT (fun T => { T with deferred := [d] })
       (s.team W.cur.team).deferred = d :: [] ∧ s.stoppedBy W.cur.team d = some W.cur ∧ (s.strand W.cur).st = .running ∧ (s.strand W.cur).early = []
       ∧ s.untranslated W.cur = false ∧ (s.team W.cur.team).held = .active ∧ (s.team W.cur.team).retiring = false
       ∧ ∀ p ∈ (s.core (s.team W.cur.team).core).active.slots, p.2 ≠ W.cur.team → (s.team p.2).deferred = []) := by
  refine ⟨by decide +kernel, by decide +kernel⟩
/-- Two teams of one grid whose halves name each other, of one kind and of two. -/
def WPair (kindB : Nat) : State :=
  let a := { halfOp true 1 .accepted with id := 1 }
  let b := { oneEng 1 (.mpair false 0 kindB 0 1 0 7 []) .accepted with id := 2 }
  let T (e : EngOp) (x : Nat) (U : Team) : Team := { U with engs := [e], resv := some (resvOf 2 []), gdim := (2, 1, 1), tidx := (x, 0, 0) }
  (W.onMine (T a 0)).setTeam 9 (T b 1 W.mine)
theorem witness_pairs (kindB : Nat) (h : kindB = 0 ∨ kindB = 1) : (let s := WPair kindB
    let a := { halfOp true 1 .accepted with id := 1 }
    let b := { oneEng 1 (.mpair false 0 kindB 0 1 0 7 []) .accepted with id := 2 }
    (s.team W.cur.team).eng? 1 = some a ∧ (s.team 9).eng? 2 = some b ∧ (s.team W.cur.team).matrixQueue = [a] ∧ (s.team 9).matrixQueue = [b]
    ∧ s.teamAt W.cur.team 1 = some 9 ∧ s.teamAt 9 0 = some W.cur.team
    ∧ (s.team W.cur.team).oldestHalf (true, 1, 7) = some a ∧ (s.team 9).oldestHalf (false, 0, 7) = some b) := by
  rcases h with rfl | rfl <;> decide +kernel

/-- The receiving half goes before the sending one, the head of the only other entry: both are as old, on one core and in one slot. -/
theorem witness_pair_first : Claims.First (WPair 0) 0 (9, { oneEng 1 (.mpair false 0 0 0 1 0 7 []) .accepted with id := 2 })
    ∧ (WPair 0).clock < 0 + 65536 ∧ (EngStage.accepted = .granted ∨ EngStage.accepted = .accepted) := by
  refine ⟨?_, by decide +kernel, .inr rfl⟩
  intro p hp hne _ _ _ f rest hq _
  have ht : (WPair 0).teams.all (fun p => p.1 == 9 || p.1 == W.cur.team) = true := by decide +kernel
  have hk : (p.1 == 9 || p.1 == W.cur.team) = true := List.all_eq_true.mp ht p hp
  have h1 : p.1 = W.cur.team := by
    rcases Bool.or_eq_true _ _ ▸ hk with h | h
    · exact absurd (beq_iff_eq.mp h) hne
    · exact beq_iff_eq.mp h
  have hs : (WPair 0).teams.all (fun p => p.1 == 9 || p.2.matrixQueue == [{ halfOp true 1 .accepted with id := 1 }]) = true := by decide +kernel
  have hf : f = { halfOp true 1 .accepted with id := 1 } := by
    rcases (Bool.or_eq_true _ _).mp (List.all_eq_true.mp hs p hp) with h | h
    · exact absurd (beq_iff_eq.mp h) hne
    · rw [hq] at h
      exact (List.cons.inj (beq_iff_eq.mp h)).1
  rw [h1, hf]
  exact .inr ⟨Iff.rfl, .inr ⟨rfl, .inr ⟨rfl, .inr ⟨rfl, Nat.le_refl _⟩⟩⟩⟩

/-! The memory pipe. -/

/-- A team with one access: of a kind, to memory or the window, its lane in a state; a window of 64 bytes. -/
def WAcc (k : AccKind) (size : Nat) (dest : Dest) (at_ : Space) (st : LaneState) : State :=
  WT (fun T => { T with w := 64, accs := [{ oneAcc st with
    kind := k, size := size, dest := dest, lanes := [{ lane := 0, e := 0x100000, at_ := at_, st := st, data := 5, cmp := 0, res := 9, tag := true, pops := [] }] }] })

/-- Lanes to be translated, and not mapped; to be performed in memory and in the window; performed, for each destination; unfinished. -/
theorem witness_translation : (let s := WAcc .load 4 .nowhere .global .toTranslate
      ((s.team W.cur.team).acc? 0).isSome = true ∧ (Claims.laneOp s W.cur.team 0 0).isSome = true
      ∧ (match s.resolve W.cur.team 0x100000 AccKind.load.need with | .ok _ _ => true | .fail _ => false) = true)
    ∧ (let s := WAcc .load 4 .nowhere .global .toTranslate
       (match s.resolve W.cur.team 0x8000000000 AccKind.load.need with | .ok _ _ => true | .fail _ => false) = false) := by
  refine ⟨by decide +kernel, by decide +kernel⟩
def Performable (s : State) : Prop := ∃ a l, (s.team W.cur.team).acc? 0 = some a ∧ a.lane? 0 = some l ∧ s.mayPerform W.cur.team a (a.together (s.team W.cur.team) l) = true
  ∧ s.misuses W.cur.team a (a.together (s.team W.cur.team) l) = false ∧ a.ord ≠ 4 ∧ a.superseded l = false
theorem performable_of {s : State} (h : ((s.team W.cur.team).acc? 0).any (fun a => (a.lane? 0).any (fun l =>
      s.mayPerform W.cur.team a (a.together (s.team W.cur.team) l) && (!(s.misuses W.cur.team a (a.together (s.team W.cur.team) l))
      && (decide (a.ord ≠ 4) && !a.superseded l)))) = true) : Performable s :=
  have ⟨a, ha, h1⟩ := (Option.any_eq_true _ _).mp h
  have ⟨l, hl, h2⟩ := (Option.any_eq_true _ _).mp h1
  ⟨a, l, ha, hl, by simpa using h2⟩
theorem witness_performed : (∀ k ∈ [AccKind.load, .store, .atomic 4, .cas, .loadRef, .storeRef], Performable (WAcc k 8 .nowhere .global (.ready 0x100000)))
    ∧ (∀ k ∈ [AccKind.load, .store, .atomic 4, .cas, .loadRef, .storeRef], Performable ((WAcc k 8 .nowhere (.window W.cur.team 56) (.ready 56)).onCore 0
        (fun c => { c with stripes := [(0, 1)] }))) := by
  constructor <;> intro k hk <;>
    (have : k = .load ∨ k = .store ∨ k = .atomic 4 ∨ k = .cas ∨ k = .loadRef ∨ k = .storeRef := by simpa using hk) <;>
    rcases this with rfl | rfl | rfl | rfl | rfl | rfl <;> exact performable_of (by decide +kernel)
theorem witness_unpoisoned : (let s := WAcc .load 8 .nowhere .global (.ready 0x100000); s.poisoned 0x100000 8 = false ∧ (s.core (s.team W.cur.team).core).l1 (0x100000 / 128) = none) := by
  decide +kernel
theorem witness_written : (∀ d ∈ [Dest.regs 118 2 (some 15), .queue 7, .scalar 63, .refPair 118 []], ∃ a l, ((WAcc .load 8 d .global .performed).team W.cur.team).acc? 0 = some a
    ∧ a.lane? 0 = some l ∧ l.st = .performed ∧ a.dest = d ∧ a.lanes = [l] ∧ l.tag = true) := by
  intro d hd
  have : d = .regs 118 2 (some 15) ∨ d = .queue 7 ∨ d = .scalar 63 ∨ d = .refPair 118 [] := by simpa using hd
  rcases this with rfl | rfl | rfl | rfl <;> exact ⟨_, _, rfl, rfl, rfl, rfl, rfl, rfl⟩
theorem witness_unfinished : ∃ a l, ((WAcc .load 8 .nowhere .global (.unfinished 1)).team W.cur.team).acc? 0 = some a ∧ a.lane? 0 = some l ∧ a.parked = false
    ∧ a.lanes.filter LaneAcc.faulted = l :: [] ∧ l.st = .unfinished 1 := ⟨_, _, rfl, rfl, rfl, rfl, rfl⟩

/-! Objects, launches, rings and tasks. -/

def words (l : List Nat) : List Byte := l.flatMap (fun w => bytesOfNat 8 w)
/-- A block that fits at the start of an arena is supplied, whichever place is drawn. -/
theorem placeBlock_some {b : SMap Nat} {cap size align n : Nat} (h : blockFits b cap 0 size = true) : ∃ o, placeBlock b cap size align n = some o := by
  unfold placeBlock
  by_cases hp : blockFits b cap (Config.pick n * align) size = true
  · exact ⟨_, if_pos hp⟩
  · refine ⟨0, (if_neg hp).trans ?_⟩
    exact List.find?_cons_of_pos (p := fun o => blockFits b cap o size) h
theorem startTeam_some {s : State} {g lin rank : Nat} {cluster : List Nat} {p : Place}
    (h : blockFits (s.ctx (s.grid g).ctx).frames (s.ctx (s.grid g).ctx).frameSize 0 64 = true) : ∃ t, s.startTeam g lin rank cluster p = some t := by
  obtain ⟨o, ho⟩ := placeBlock_some (align := 64) (n := s.nonce) h
  unfold State.startTeam State.takeFrame
  simp only [ho]
  exact ⟨_, rfl⟩
theorem launchFrom_some {s : State} {L : Launch} {K : Kernel} {task : Bool} {job : Option (Space × Nat)} (hs : L.hspans = 0)
    (h : blockFits (s.ctx s.mine.ctx).frames (s.ctx s.mine.ctx).frameSize 0 (64 + K.frame) = true) : ∃ g t, s.launchFrom L K task job = some (g, t) := by
  obtain ⟨o, ho⟩ := placeBlock_some (align := 64) (n := s.nonce) h
  unfold State.launchFrom State.newGrid State.makeFrame State.takeFrame State.takeSpans
  simp only [ho, hs]
  exact ⟨_, _, rfl⟩

/-- Arenas for frames and a heap; a descriptor at 0x100000 for one team of 32 lanes; s10 names it, s11 a job record, s12 a length. -/
def WH (prio : Nat) : State :=
  (((((WS [(10, 0x100000), (11, 0x100200), (12, 262128)]).onCtx W.mine.ctx (fun c => { c with frameVa := 0x800000, framePa := 0x800000, frameSize := 0x10000, heapVa := 0x1000000, heapSize := 0x100000 })).store 0x100000
    (words [0x100080, 0, 1 + 2 ^ 21 + 2 ^ 42, prio * 16, 0, 0, 0, 0])).store 0x100080 (words [0x600000, 0, 0x600000, 0x600300, 0, 0, 32, 0, 0, 0])).store 0x800000
    (words [0, 128, 1, 0x1000000, 0x1000000, 0x1100000, 0, 0])).onMine (fun T => { T with record := 0x100300, displays := [(0, 0x800000)] })

theorem witness_objects : Issues (WH 0) ∧ ScalarsReady (WH 0) [0, 10, 12] ∧ ((WH 0).sreg 0).toNat = 0 ∧ ((WH 0).sreg 12).toNat = 262128 ∧ 262128 < ((WS [(1, 262129)]).sreg 1).toNat
    ∧ W.allocate 128 = none
    ∧ ((WH 0).allocate (128 * ((16 + 262128 + 127) / 128))).isSome = true
    ∧ (match (WH 0).allocate (128 * ((16 + 112 + 127) / 128)) with
       | some (x, s1) => (match spotHere s1 x 128 { r := false, w := true } with | .ok (.mem [(_, n)], _) => n == 128 | _ => false)
       | none => false) = true := by
  unfold Issues ScalarsReady
  refine ⟨by decide +kernel, by decide +kernel, by decide +kernel, by decide +kernel, by decide +kernel, by decide +kernel, by decide +kernel, by decide +kernel⟩
theorem witness_object_header : (let s := WRef
    s.myStream.sref 10 = true ∧ (s.sreg 10).toNat % 128 = 0 ∧ canonical (s.sreg 10) = true ∧ aperture (s.sreg 10) = false
    ∧ (match spotHere s (s.sreg 10) 16 { r := true, w := false } with | .ok (.mem ((_, 16) :: _), _) => true | _ => false) = true) := by
  refine ⟨by decide +kernel, by decide +kernel, by decide +kernel, by decide +kernel, by decide +kernel⟩
/-- A walk of an object whose header names itself PRIVATE of another team's, and of one on a page that is not mapped. -/
def WWalk (root slot : W64) : State :=
  { (WT (fun T => { T with engs := [oneEng 3 (.publish root slot) .accepted] })) with walks := [(0, W.cur.team, 0)] }
theorem witness_walks : (let s := WWalk 0x200000 0x300000
      s.walks.find? (fun w => w.1 == 0) = some (0, W.cur.team, 0) ∧ s.walks.find? (fun w => w.2.1 == W.cur.team) = some (0, W.cur.team, 0)
      ∧ (s.team W.cur.team).eng? 0 = some (oneEng 3 (.publish 0x200000 0x300000) .accepted) ∧ (s.team W.cur.team).releasedBefore .c 0 = true) := by
  refine ⟨by decide +kernel, by decide +kernel, by decide +kernel, by decide +kernel⟩

/-- The same walk with its first event behind it, of one object. -/
theorem witness_walk_marks : (let s := { WWalk 0x200000 0 with walking := [(0, { objs := [(0x200000, 0x200000)], left := [] })] }
    (WWalk 0x200000 0).walking.find? (fun p => p.1 == 0) = none ∧ s.walking.find? (fun p => p.1 == 0) = some (0, { objs := [(0x200000, 0x200000)], left := [] })
    ∧ s.poisoned 0x200000 8 = false) := by
  refine ⟨by decide +kernel, by decide +kernel, by decide +kernel⟩

theorem witness_launch_read (n : Nat) (spawn : Bool) (h : okAnd (readLaunch (WH n) ((WH n).sreg 10) spawn) (fun a =>
      decide (a.1.prio = n) && decide (a.2.1.lanes = 32) && decide (a.1.hspans = 0)
          && blockFits (a.2.2.ctx a.2.2.mine.ctx).frames (a.2.2.ctx a.2.2.mine.ctx).frameSize 0 (64 + a.2.1.frame)) = true) :
    ∃ L K s1 g s2, readLaunch (WH n) ((WH n).sreg 10) spawn = .ok (L, K, s1) ∧ s1.launchFrom L K spawn none = some (g, s2) ∧ L.prio = n ∧ K.lanes = 32 := by
  obtain ⟨⟨L, K, s1⟩, h1, h2⟩ := ok_of (fun a : Launch × Kernel × State => decide (a.1.prio = n) && decide (a.2.1.lanes = 32) && decide (a.1.hspans = 0)
          && blockFits (a.2.2.ctx a.2.2.mine.ctx).frames (a.2.2.ctx a.2.2.mine.ctx).frameSize 0 (64 + a.2.1.frame)) h
  simp only [Bool.and_eq_true, decide_eq_true_eq] at h2
  obtain ⟨g, t, ht⟩ := launchFrom_some (task := spawn) (job := none) h2.1.2 h2.2
  exact ⟨L, K, s1, g, t, h1, ht, h2.1.1.1, h2.1.1.2⟩
theorem witness_launch : ScalarsReady (WH 0) [10, 20] ∧ ((WH 0).sreg 10).toNat % 64 = 0 ∧ (WH 0).mine.releasedBefore (WH 0).cur.strm (Claims.releaseMark (WH 0)) = true
    ∧ (∃ L K s1 g s2, readLaunch (WH 3) ((WH 3).sreg 10) false = .ok (L, K, s1) ∧ s1.launchFrom L K false none = some (g, s2) ∧ L.prio = 3 ∧ K.lanes = 32)
    ∧ (let s := WW [oneAcc .toTranslate]; s.mine.releasedBefore s.cur.strm (Claims.releaseMark s) = false) := by
  unfold ScalarsReady
  exact ⟨by decide +kernel, by decide +kernel, by decide +kernel, witness_launch_read 3 false (by decide +kernel), by decide +kernel⟩
theorem witness_waitch : (WH 0).poisoned (WH 0).mine.record 16 = false ∧ (WH 0).memNat (WH 0).mine.record 8 = 0
    ∧ ((WH 0).storeNat 0x100300 8 1).memNat (WH 0).mine.record 8 ≠ 0 := by
  refine ⟨by decide +kernel, by decide +kernel, by decide +kernel⟩

/-- A ring header at 0x100000 with these words, and s10 to s12. -/
def WRing (ws : List Nat) (x y : Nat) : State := (WS [(10, 0x100000), (11, BitVec.ofNat 64 x), (12, BitVec.ofNat 64 y)]).store 0x100000 (words ws)
def ringIs (s : State) (ws : List Nat) : Bool :=
  match spotHere s (s.sreg 10) 64 { r := true, w := true } with
  | .ok (p, s1) => (List.range 8).map (s1.ringWord p.place.1 p.place.2) == ws && s1.rings.isEmpty
  | .error _ => false
/-- Rings of 8 entries: the last entry claimed and awaited; full and empty ones; commits and retirements in and out of order; an unsound header. -/
theorem witness_rings : (∀ s ∈ [WRing [11, 0, 8, 7, 4, 0, 3, 0] 1 0, WRing [12, 0, 8, 8, 4, 0, 3, 0] 1 0], Issues s ∧ ScalarsReady s [9, 10, 11, 12])
    ∧ Claims.RunOk (WRing [11, 0, 8, 7, 4, 0, 3, 0] 1 0) ((WRing [11, 0, 8, 7, 4, 0, 3, 0] 1 0).sreg 10) 64 64
    ∧ (ringIs (WRing [11, 0, 8, 7, 4, 0, 3, 0] 1 0) [11, 0, 8, 7, 4, 0, 3, 0] = true ∧ 11 + 1 ≤ 8 + 4 ∧ 7 + 1 ≤ 8)
    ∧ (ringIs (WRing [12, 0, 8, 8, 4, 0, 3, 0] 1 0) [12, 0, 8, 8, 4, 0, 3, 0] = true ∧ 8 + 4 < 12 + 1 ∧ 8 < 8 + 1)
    ∧ (ringIs (WRing [0, 1, 0, 0, 0, 0, 3, 0] 1 0) [0, 1, 0, 0, 0, 0, 3, 0] = true ∧ ¬ 1 = 0)
    ∧ (ringIs (WRing [12, 0, 8, 8, 4, 0, 3, 0] 8 4) [12, 0, 8, 8, 4, 0, 3, 0] = true ∧ 8 + 4 ≤ 12 ∧ (WRing [12, 0, 8, 8, 4, 0, 3, 0] 8 4).mine.releasedBefore .c 1 = true)
    ∧ (ringIs (WRing [12, 0, 8, 8, 4, 0, 3, 0] 4 4) [12, 0, 8, 8, 4, 0, 3, 0] = true ∧ 4 + 4 ≤ 8 ∧ 4 < 8)
    ∧ (ringIs (WRing [12, 0, 8, 8, 4, 0, 3, 0] 9 3) [12, 0, 8, 8, 4, 0, 3, 0] = true ∧ 9 + 3 ≤ 12 ∧ 8 ≠ 9 ∧ 8 < 9 + 3) := by
  unfold Issues ScalarsReady
  refine ⟨by decide +kernel, ⟨by decide +kernel, .inr (.inr (by decide +kernel))⟩, by decide +kernel, by decide +kernel, by decide +kernel, by decide +kernel, by decide +kernel, by decide +kernel⟩
/-- The same header in the team's window, with nothing under way. -/
def WOwn (ws : List Nat) : State :=
  (WT (fun T => { T with w := 4096, win := SMap.ofRun 0 4032 (words ws), cs := { T.cs with sregs := [(10, 0xFFFFFE0F00000FC0), (11, 1)] } })).onCore 0
    (fun c => { c with stripes := [(0, 1)] })
theorem witness_own_ring : Claims.Quiet (WOwn [11, 0, 8, 7, 4, 0, 3, 0]) ∧ (let s := WOwn [11, 0, 8, 7, 4, 0, 3, 0]
    s.aperturePlace s.cur.team (s.sreg 10) 0 = some (s.cur.team, 4032) ∧ (s.sreg 10).toNat % 64 = 0 ∧ 4032 + 64 ≤ s.mine.w
    ∧ (List.range 8).map (fun i => natOfBytes (s.mine.winBytes (4032 + 8 * i) 8)) = [11, 0, 8, 7, 4, 0, 3, 0]) := by
  refine ⟨⟨by decide +kernel, by decide +kernel, fun r hr => .inr fun n h => ?_, by decide +kernel, by decide +kernel⟩, by decide +kernel⟩
  have all : ∀ r ∈ (WOwn [11, 0, 8, 7, 4, 0, 3, 0]).strandsOf W.cur.team W.cur.strm, ((WOwn [11, 0, 8, 7, 4, 0, 3, 0]).strand r).wait = .nothing := by decide +kernel
  rw [all r hr] at h
  cases h

/-- Waits that can be granted, the oldest of their kind. -/
theorem witness_ring_waits : (let q : RingWait := { r := W.cur, fn := 5, hdr := 0x100000, at_ := .global, pa := 0x100000, sd := 1, g := 0, n := 1, before := 1 }
    let s := { WRing [11, 0, 8, 7, 4, 0, 3, 0] 1 0 with rings := [q] }
    s.rings.find? (fun o => o.r == q.r) = some q ∧ (s.team q.r.team).held = .active ∧ s.poisoned q.pa 64 = false ∧ s.rings.find? (fun o => o.fn == q.fn && o.at_ == q.at_ && o.pa == q.pa) = some q
    ∧ (s.team q.r.team).releasedBefore q.r.strm q.before = true ∧ (List.range 8).map (s.ringWord q.at_ q.pa) = [11, 0, 8, 7, 4, 0, 3, 0]) := by
  refine ⟨by decide +kernel, by decide +kernel, by decide +kernel, by decide +kernel, by decide +kernel, by decide +kernel⟩

/-- A job record that is made, one that is done and one that counts a task; a task that is spawned, and a full die. -/
theorem witness_jobs : ScalarsReady (WH 0) [11] ∧ Claims.RunOk (WH 0) ((WH 0).sreg 11) 64 64 ∧ (WH 0).mine.enqueuing (WH 0).cur.strm = false
    ∧ (match spotHere (WH 0) ((WH 0).sreg 11) 64 { r := false, w := true } with | .ok (.mem [(0x100200, 64)], _) => true | _ => false) = true
    ∧ (match spotHere (WH 0) ((WH 0).sreg 11) 64 { r := true, w := false } with | .ok (p, s1) => s1.ringWord p.place.1 p.place.2 0 == 0 | _ => false) = true
    ∧ (let s := (WH 0).storeNat 0x100200 8 1
       (match spotHere s (s.sreg 11) 64 { r := true, w := false } with | .ok (p, s1) => s1.ringWord p.place.1 p.place.2 0 == 1 | _ => false) = true) := by
  unfold ScalarsReady
  refine ⟨by decide +kernel, ⟨by decide +kernel, .inr (.inr (by decide +kernel))⟩, by decide +kernel, by decide +kernel, by decide +kernel, by decide +kernel⟩
theorem witness_spawn : (∃ L K s1 g s2, readLaunch (WH 0) ((WH 0).sreg 10) true = .ok (L, K, s1) ∧ s1.launchFrom L K true none = some (g, s2) ∧ L.prio = 0 ∧ K.lanes = 32)
    ∧ (let s := (WH 0).onStrand W.cur (fun x => { x with wait := .push 9 }); s.me.wait = .push 9 ∧ s.pushTo s.mine.core s.mine.ctx = some 0)
    ∧ ((WH 0).onCore 0 (fun c => { c with deque := List.replicate Config.dequeEntries { grid := W.mine.grid, bypass := 0 } })).pushTo 0 W.mine.ctx = none := by
  refine ⟨witness_launch_read 0 true (by decide +kernel), by decide +kernel, by decide +kernel⟩
/-- A grid of one team, a task in core 1's deque, core 0 in the same context. -/
def WTask : State :=
  let K : Kernel := { Kernel.none with lanes := 32, centry := 0x600000, cb := 0x600000, ce := 0x600300 }
  (((WH 0).setGrid 9 { Grid.none with live := true, ctx := W.mine.ctx, id := 9, kernel := K, task := true, launch := { Launch.none with gdim := (1, 1, 1) } }).onCore 1
    (fun c => { c with active := { c.active with ctx := some W.mine.ctx }, deque := [{ grid := 9, bypass := 0 }] }))
theorem witness_dispatch : (let s := WTask
      s.dispatchCtx 1 = some W.mine.ctx ∧ s.choose 1 W.mine.ctx = some { grid := 9, bypass := 0 } ∧ s.fitsAt W.mine.ctx (s.grid 9).kernel { core := 1, slot := 63, base := 0 } = true
      ∧ ∃ t, s.startTeam 9 0 0 [s.lastTeam + 1] { core := 1, slot := 63, base := 0 } = some t) := by
  refine ⟨by decide +kernel, by decide +kernel, by decide +kernel, startTeam_some (by decide +kernel)⟩
theorem witness_steal : (let s := WTask
      (s.core 0).active.ctx = some W.mine.ctx ∧ dieOf 1 = dieOf 0 ∧ (∀ x ∈ s.dequeOf 0 W.mine.ctx, s.taskFits 0 x = false)
      ∧ (s.dequeOf 1 W.mine.ctx).find? (s.taskFits 0) = some { grid := 9, bypass := 0 } ∧ 0 < s.dequeFree 0 W.mine.ctx
      -- the last entry, which its owner takes, and one of two
      ∧ ((s.dequeOf 1 W.mine.ctx).length = 1 ∧ s.dispatchCtx 1 = some W.mine.ctx ∧ s.choose 1 W.mine.ctx = some { grid := 9, bypass := 0 })
      ∧ ((s.onCore 1 (fun c => { c with deque := c.deque ++ [{ grid := 9, bypass := 1 }] })).dequeOf 1 W.mine.ctx).length ≠ 1
      ∧ ∀ v, v < 24 → v ≠ 0 → (∃ x ∈ s.dequeOf v W.mine.ctx, s.taskFits 0 x = true) → stealKey 0 1 ≤ stealKey 0 v) := by
  refine ⟨by decide +kernel, by decide, by decide +kernel, by decide +kernel, by decide +kernel, by decide +kernel, by decide +kernel, ?_⟩
  intro v hv h0 ⟨x, hx, _⟩
  have : ∀ v, v < 24 → v ≠ 1 → WTask.dequeOf v W.mine.ctx = [] := by decide +kernel
  by_cases h : v = 1
  · exact Nat.le_of_eq (congrArg _ h.symm)
  · rw [this v hv h] at hx; exact absurd hx (by simp)
theorem witness_task_end : (let s := (WT (fun T => { T with retiring := true, grid := 9 })).setGrid 9 { Grid.none with live := true, task := true }
    let U := s.team W.cur.team
    U.live = true ∧ U.retiring = true ∧ U.accs = [] ∧ U.engs = [] ∧ U.deferred = [] ∧ (s.grid U.grid).live = true ∧ (s.grid U.grid).task = true ∧ (s.grid U.grid).remote = none) := by
  refine ⟨by decide +kernel, by decide +kernel, by decide +kernel, by decide +kernel, by decide +kernel, by decide +kernel, by decide +kernel, by decide +kernel⟩

/-! The distributor, Farder's services, banks and power. -/

/-- A grid of two teams whose first unit waits since cycle 0. -/
def WGrid : State :=
  let K : Kernel := { Kernel.none with lanes := 32, centry := 0x600000, cb := 0x600000, ce := 0x600300 }
  { (WH 0).setGrid 9 { Grid.none with live := true, handed := true, ctx := W.mine.ctx, id := 9, kernel := K, launch := { Launch.none with gdim := (2, 1, 1) } } with clock := 1048576 }
theorem witness_placement : (let s := WGrid
      let G := s.grid 9
      let p : Place := { core := 191, slot := 63, base := 0 }
      let rivals := (s.grids.map Prod.snd).filter Grid.waits
      Grid.waits G = true ∧ (∀ k ∈ rivals, k.urgent = false) ∧ placesShape G.launch.clus [p] = true ∧ s.fitsAt G.ctx G.kernel p = true
      ∧ (∀ h ∈ rivals, Grid.before h G = false) ∧ nthUnit G.launch G.placed = some 0 ∧ G.since + 1048576 ≤ s.clock
      ∧ ∃ t, s.startUnit 9 0 [s.lastTeam + 1] 0 [p] = some t) := by
  refine ⟨by decide +kernel, by decide +kernel, by decide +kernel, by decide +kernel, by decide +kernel, by decide +kernel, by decide +kernel, ?_⟩
  obtain ⟨t, ht⟩ := startTeam_some (s := WGrid) (g := 9) (lin := 0) (rank := 0) (cluster := [WGrid.lastTeam + 1]) (p := { core := 191, slot := 63, base := 0 }) (by decide +kernel)
  exact ⟨t, by unfold State.startUnit; rw [Nat.add_zero, ht]; rfl⟩
theorem witness_grid_end : (let s := WGrid.onGrid 9 (fun G => { G with retired := 2 })
      let G := s.grid 9
      G.live = true ∧ G.task = false ∧ G.handed = true ∧ G.launch.gdim.1 * G.launch.gdim.2.1 * G.launch.gdim.2.2 ≤ G.retired)
    ∧ (let s := { W with clock := 2048 }; s.candidate W.cur = true ∧ (s.strand W.cur).st = .running ∧ (s.strand W.cur).readyAt + 2048 ≤ s.clock)
    ∧ (let s := WX (fun x => { x with st := .blocked, wait := .yield, yieldLeft := 0 }); (s.team W.cur.team).held = .active ∧ (s.strand W.cur).wait = .yield ∧ (s.strand W.cur).yieldLeft = 0) := by
  refine ⟨by decide +kernel, by decide +kernel, by decide +kernel⟩

/-- A record of the parked C root: a cause, and whether it is held. -/
def recOf (cause detail : Nat) : TrapRec :=
  { cause := cause, detail := detail, code := 0, strm := .c, defer := false, lw := false, ctxid := W.mine.ctx, gridid := 1, tidx := (0, 0, 0), sid9 := 0x100, core := 0, slot := 0
    seq := 7, pc := 0x600000, spc := 0x600000, addr := 0, mask := 1, team := W.cur.team, sid := none, op := none, lanes := 32, rank := 1, before := 0, own := false, todo := none, cycle := 0 }
def WRec (q : TrapRec) (held : Bool) : State :=
  let s := (W.onStrand W.cur (fun x => { x with st := .parked })).onCtx W.mine.ctx (fun c => { c with recs := if held then [] else [q] })
  { s with heldTraps := if held then [q] else [] }
theorem witness_held_record : (let s := WRec (recOf 0x06 0) true
    s.heldTraps.filter (fun h => h.ctxid == W.mine.ctx && (match s.heldTraps.find? (fun k => k.sameLine h) with | some k => k.rank == h.rank | none => false) && s.recReady h) ≠ []) := by
  decide +kernel
theorem witness_resume : (let q := recOf 0x06 0
      let s := WRec q false
      let r := q.strand
      (s.ctx W.mine.ctx).recs.find? (fun h => h.seq == 7 && h.todo.isNone) = some q
      ∧ (∀ a ∈ [ResumeAct.resume, .skip, .kill, .killteam], permitted q a = true) ∧ permitted (recOf 0x2B 1) .publish = decide (cEscape = 0x2B)
      ∧ (s.team q.team).live = true ∧ (s.team q.team).retiring = false ∧ (s.team q.team).held = .active ∧ (s.strand r).st = .parked)
    ∧ (let q := recOf 0x06 0
       let s := WRec q false
       let r := q.strand
       (match oldestRec (s.openRecs W.mine.ctx r) with | some h => h.rank == q.rank | none => false) = true ∧ (s.strand r).act = none ∧ (s.strand r).replay = none ∧ q.defer = false
       ∧ q.ctxid = W.mine.ctx ∧ s.heldTraps = [] ∧ (∀ h ∈ s.openRecs W.mine.ctx r, h.rank = q.rank) ∧ (s.team q.team).inCall = false) := by
  refine ⟨by decide +kernel, by decide +kernel⟩
theorem witness_resume_publish : permitted (recOf cEscape 1) .publish = true
    ∧ (let s := WRec (recOf cEscape 1) false
       (s.team W.cur.team).engs = [] ∧ (s.ctx W.mine.ctx).recs.find? (fun h => h.rank == 1) = some (recOf cEscape 1)) := by
  refine ⟨by decide +kernel, by decide +kernel⟩

/-- Core 0 may exchange its banks; its outgoing bank is quiet and its arena mapped. -/
def WSave : State :=
  (W.onCore 0 (fun k => { k with active := Bank.empty, shadow := k.active, saving := true })).onMine (fun T => { T with held := .shadow })
theorem witness_banks : [0].Nodup ∧ W.canSwitch 0 = true ∧ W.clusterIn [0] 0 = true
    ∧ (let k := WSave.core 0
       k.shadow.ctx = some W.mine.ctx ∧ k.saving = true ∧ (∀ p ∈ k.shadow.slots, (WSave.team p.2).quiet = true)) := by
  refine ⟨by decide, by decide +kernel, by decide +kernel, by decide +kernel⟩
theorem witness_arena : WSave.arenaStands W.mine.ctx ((WSave.ctx W.mine.ctx).freeImage) (WSave.core 0).shadow = true := by decide +kernel
def WLoad : State :=
  (WSave.onCore 0 (fun k => { k with shadow := { Bank.empty with loaded := true }, saving := false })).onCtx W.mine.ctx
    (fun c => { c with saved := [{ image := 0, bank := (WSave.core 0).shadow }] })
theorem witness_load : (let s := WLoad
      let k := s.core 0
      let b : SavedBank := { image := 0, bank := (WSave.core 0).shadow }
      (s.ctx W.mine.ctx).saved.find? (fun b => b.image == 0) = some b ∧ k.shadow.slots = [] ∧ k.saving = false ∧ s.keepsShape W.cur.team 0 = true
      ∧ s.placesFit 0 (b.bank.slots.map Prod.snd) [(W.cur.team, { core := 0, slot := 63, base := 8372224 })] = true
      ∧ b.bank.slots = [(0, W.cur.team)] ∧ (s.team W.cur.team).quadUse = (0, 0, 0)) := by
  refine ⟨by decide +kernel, by decide +kernel, by decide +kernel, by decide +kernel, by decide +kernel, by decide +kernel, by decide +kernel⟩
theorem witness_windows_and_stripes : (let s := WT (fun T => { T with unrestored := [0, 511] })
      0 ∈ (s.team W.cur.team).unrestored ∧ (∀ p ∈ (s.core 0).active.slots, s.stalledSets p.2 = []) ∧ (s.team W.cur.team).unrestored.head? = some 0 ∧ (s.core 0).saving = false)
    ∧ (let s := { W.onCore 0 (fun k => { k with stripes := [(63, 2)] }) with clock := 2048 }; SMap.get 0 (s.core 0).stripes 63 = 0 + 2 ∧ 0 + 2048 ≤ s.clock)
    ∧ (∀ p ∈ W.gatedWays, p.1 ≠ 8 * 383 + 7)
    ∧ (let s := { W with gatedWays := [(3071, 1)], clock := 1024 }; s.gatedWays.find? (fun p => p.1 == 8 * 383 + 7) = some (8 * 383 + 7, 1) ∧ 1 + 1023 ≤ s.clock)
    ∧ (let s := { W with gatedWays := [(3071, 0)] }; s.gatedWays.find? (fun p => p.1 == 8 * 383 + 7) = some (8 * 383 + 7, 0)) := by
  refine ⟨by decide +kernel, by decide +kernel, by decide +kernel, by decide +kernel, by decide +kernel⟩

/-! The hub. -/

def WHub (f : Hub → Hub) : State := { W with hub := f W.hub }
/-- SEMA free, held by a reader and by another; a trigger that is due; firmware on trial to the last cycle of its 60 s, and past it. -/
theorem witness_guarded : W.hub.semaHeld = false ∧ (∀ k, W.hub.semaAt = some (W.now, k) → k ≤ 0)
    ∧ (let s := WHub (fun h => { h with semaHeld := true, semaHolder := .port1, portUp := (true, true) }); s.hub.portUp.1 = true ∧ s.hub.portUp.2 = true ∧ s.hub.semaHeld = true
        ∧ s.hub.semaHolder = .port1 ∧ ¬ (s.hub.semaHeld = true ∧ s.hub.semaHolder = .port0))
    ∧ (191 < 192 ∧ 31 < 32 ∧ (0x101 : W64).getLsbD 8 = true ∧ (0x100 : W64).getLsbD 0 = false ∧ (1 : W64).getLsbD 0 = true)
    ∧ (let s := { WHub (fun h => { h with shPending := some 0 }) with clock := 32 }; s.hub.shPending = some 0 ∧ 0 + 32 ≤ s.now)
    ∧ (let s := { WHub (fun h => { h with booted := true, trial := true }) with clock := 78000000000 }; s.hub.booted = true ∧ s.hub.trial = true ∧ s.now ≤ s.hub.leftReset + 78000000000)
    ∧ (let s := { WHub (fun h => { h with booted := true, trial := true }) with clock := 78000000001 }; s.hub.leftReset + 78000000000 < s.now) := by
  refine ⟨by decide +kernel, ?_, by decide +kernel, by decide, by decide +kernel, by decide +kernel, by decide +kernel⟩
  intro k hk
  have : W.hub.semaAt = none := by decide +kernel
  rw [this] at hk
  exact absurd hk (by simp)
/-- Slots that boot, the wanted one and the other; no slot; a port in recovery; each level of the SPDM order. -/
theorem witness_firmware : (let h := { Hub.reset with farder := ({ signed := true, svn := 0, measure := 0 }, noImage), sched := (noImage, { signed := true, svn := 0, measure := 0 }), schedNext := false }
      h.farder.1.signed = true ∧ h.svnMin ≤ h.farder.1.svn ∧ h.slotFailed.1 = false ∧ h.farderNext = false ∧ h.sched.2.signed = true ∧ h.sched.1.signed = false)
    ∧ (∀ b : Bool, (if b then Hub.reset.farder.2 else Hub.reset.farder.1).signed = false)
    ∧ (let h := { Hub.reset with recovery := true, portUp := (true, false) }; h.recovery = true ∧ h.portUp.1 = true)
    ∧ Hub.reset.recovery = false ∧ SMap.get 0 Hub.reset.spdm 0 = 0 ∧ SMap.get 0 ({ Hub.reset with spdm := [(0, 3)] } : Hub).spdm 0 = 3
    ∧ (6 : Nat) ≤ 6 ∧ 16 ∈ [1, 2, 4, 8, 16] := by decide +kernel

/-! Errors, links and the fabric. -/

theorem witness_errors : (let s := { W with l2 := [{ slice := 0, tile := none, line := 0x1000, sec0 := true, sec1 := true, cls := 0, way := 0, runs := [] }] }
      ∃ l ∈ s.l2, runsMeet l.bytes [(0x1000FF, 1)] = true)
    ∧ 0xBFFFFFFFFF < 0xC000000000 ∧ ErrorKind.corrected ≠ .uncorrectable
    ∧ SMap.get 0 ({ W with links := [(0, 62)] } : State).links 0 < 63 ∧ SMap.get 0 ({ W with links := [(0, 63)] } : State).links 0 = 63
    ∧ (let e := oneEng 0 (.cpy 0 0 0 0) .accepted; let s := WM none [e] 2; (s.team W.cur.team).acc? 0 = none ∧ (s.team W.cur.team).eng? 0 = some e ∧ e.id = 0 ∧ e.stage = .accepted)
    ∧ (let w : RingWait := { r := W.cur, fn := 5, hdr := 0x100000, at_ := .global, pa := 0x100000, sd := 1, g := 0, n := 1, before := 9 }
       let s := { W with rings := [w] }
       (s.team W.cur.team).acc? 9 = none ∧ (s.team W.cur.team).eng? 9 = none ∧ s.rings.find? (fun w => w.r.team == W.cur.team && w.before == 9) = some w)
    ∧ SMap.has W.removed 31 = false ∧ W.me.st = .running ∧ (1 : Mask) &&& W.me.mask ≠ 0 ∧ W.untranslated W.cur = false := by
  refine ⟨by decide +kernel, by decide, by decide, by decide +kernel, by decide +kernel, by decide +kernel, by decide +kernel, by decide +kernel, by decide +kernel, by decide +kernel, by decide +kernel⟩

/-- A context in group 3 with a window of one page for the last accesses in it, and an operation of the fabric to a package. -/
def WFab (fn : Nat) (remote loc : W64) (pkg : BitVec 14) (low : W64) : State :=
  ((WM none [oneEng 4 (.fabric fn remote loc (pkg.setWidth 64 <<< 40 ||| low) 0 0) .accepted] 2).onCtx W.mine.ctx
    (fun c => { c with group := some 3, windows := [{ va := 0x100000, len := 4096, perms := 7 }] })).onMine (fun T => { T with w := 64 })
theorem ctlPkg_of (pkg : BitVec 14) (low : W64) (h : low.toNat < 2 ^ 40) : ctlPkg (pkg.setWidth 64 <<< 40 ||| low) = pkg.toNat := by
  have e : fld (pkg.setWidth 64 <<< 40 ||| low) 40 14 = pkg := by
    apply BitVec.eq_of_getLsbD_eq
    intro i hi
    have : low.getLsbD (40 + i) = false := by
      rw [BitVec.getLsbD]
      exact Nat.testBit_lt_two_pow (Nat.lt_of_lt_of_le h (Nat.pow_le_pow_right (by decide) (Nat.le_add_right 40 i)))
    have h64 : 40 + i < 64 := by omega
    unfold fld
    rw [BitVec.getLsbD_extractLsb', BitVec.getLsbD_or, this, BitVec.getLsbD_shiftLeft, BitVec.getLsbD_setWidth]
    have h2 : i < 64 := by omega
    simp [hi, h64, h2]
  unfold ctlPkg
  rw [e]
theorem witness_incoming : (let s := WFab 5 0x100FF8 1 0 0
      s.member (some 3) = some W.mine.ctx ∧ (s.walk W.mine.ctx (va48 0x100FF8)).isSome = true ∧ (0x100FF8 : W64).toNat % 4096 + 8 ≤ 4096 ∧ (0x100FF8 : W64).toNat % 8 = 0
      ∧ (∃ w ∈ (s.ctx W.mine.ctx).windows, w.va ≤ 0x100FF8 ∧ 0x100FF8 + 8 ≤ w.va + w.len ∧ w.perms.getLsbD 2 = true ∧ w.perms.getLsbD 1 = true)
      ∧ (∀ w ∈ (s.ctx W.mine.ctx).windows, ¬ (w.va ≤ 0x100FFF ∧ 0x100FFF + 8 ≤ w.va + w.len)) ∧ s.poisoned 0x100FF8 8 = false ∧ s.member (some 4) = none) := by
  refine ⟨by decide +kernel, by decide +kernel, by decide, by decide, by decide +kernel, by decide +kernel, by decide +kernel, by decide +kernel⟩
/-- FSIG to this package, wherever it is numbered; FGET from another of 64 bytes into the window. -/
theorem witness_own_signal (p : BitVec 14) : ∃ e v, ((WFab 5 0x100FF8 1 p 0).team W.cur.team).eng? 0 = some e ∧ e.id = 0 ∧ e.fab = some v ∧ e.stage = .accepted
    ∧ v.fn = 5 ∧ v.remote = 0x100FF8 ∧ v.pkg = p.toNat := ⟨_, _, rfl, rfl, rfl, rfl, rfl, rfl, ctlPkg_of p 0 (by decide)⟩

/-- A package that is not this one. -/
def elsewhere : BitVec 14 := Config.packageNumber + 1
theorem elsewhere_ne : elsewhere.toNat ≠ Config.packageNumber.toNat := by
  intro h
  have h2 : Config.packageNumber + 1 = Config.packageNumber := BitVec.eq_of_toNat_eq h
  simp at h2
/-- FGET of 64 bytes from another package into the window. -/
theorem witness_answers : ∃ e v, ((WFab 1 0x200000 0xFFFFFE0F00000000 elsewhere 64).team W.cur.team).eng? 0 = some e ∧ e.id = 0 ∧ e.fab = some v ∧ e.stage = .accepted
    ∧ v.fn = 1 ∧ v.pkg ≠ Config.packageNumber.toNat ∧ (WFab 1 0x200000 0xFFFFFE0F00000000 elsewhere 64).removed.length ≠ 32 :=
  ⟨_, _, rfl, rfl, rfl, rfl, rfl, (by rw [FabView.pkg]; exact ctlPkg_of elsewhere 64 (by decide) ▸ elsewhere_ne), by decide +kernel⟩
theorem witness_answer_places : (let s := WFab 1 0x200000 0xFFFFFE0F00000000 0 64
      s.aperturePlace W.cur.team 0xFFFFFE0F00000000 0 = some (W.cur.team, 0) ∧ (s.team W.cur.team).live = true ∧ (0xFFFFFE0F00000000 : W64).toNat % 4096 + 64 ≤ 4096
      ∧ s.clusterWhole W.cur.team = true ∧ (s.ctx (s.team W.cur.team).ctx).group ≠ none ∧ ctlLen 64 = 64)
    ∧ ((WFab 0 0x200000 0x100000 0 64).localRun W.cur.team 0x100000 64 { r := true, w := false }).fault = none := by
  refine ⟨by decide +kernel, by decide +kernel⟩
/-- An all-reduce that waits for its group too long; remote tasks; contexts with and without a group; a last window. -/
theorem witness_remote_tasks : (let e := oneEng 4 (.fabric 4 0x100000 0 0 0 0) .accepted
      let s := { WM none [e] 2 with clock := 2147483648 }
      (s.team W.cur.team).eng? 0 = some e ∧ e.stage = .accepted ∧ e.since + 2147483648 ≤ s.clock)
    ∧ (let q : RemoteTask := { team := 1, op := 3, at_ := .global, pa := 0x100200, pkg := 0, grid := none, ended := some true }
       let s := { W with remotes := [q] }
       s.remotes.find? (fun r => r.team == 1 && r.op == 3) = some q ∧ q.ended = some true)
    ∧ (W.ctx W.mine.ctx).live = true ∧ (W.ctx W.mine.ctx).group = none ∧ W.member (some 3) = none ∧ (W.ctx W.mine.ctx).windows.length < 64
    ∧ rangeOk 0x7FFFFFFFF000 4096 = true ∧ W.mapped W.mine.ctx 0x7FFFFF000 4096 (windowGrants 7) = true
    ∧ (let s := WFab 5 0 0 0 0; 0 < (s.ctx W.mine.ctx).windows.length)
    ∧ ({ W with teams := [] } : State).teams = [] := by
  refine ⟨by decide +kernel, by decide +kernel, by decide +kernel, by decide +kernel, by decide +kernel, by decide +kernel, by decide, by decide +kernel, by decide +kernel, rfl⟩
theorem witness_remote_enqueue : (let s := (WH 0).onCtx W.mine.ctx (fun c => { c with group := some 3, windows := [{ va := 0x100000, len := 4096, perms := 1 }] })
    (match s.target (some 3) 0x100000 64 permR with | .ok _ => true | .error _ => false) = true ∧ s.member (some 3) = some W.mine.ctx
    ∧ (s.core 0).active.ctx = some W.mine.ctx ∧ 0 < s.dequeFree 0 W.mine.ctx) := by
  refine ⟨by decide +kernel, by decide +kernel, by decide +kernel, by decide +kernel⟩

/-! Contexts and calls. -/

def plan (n : Nat) : ContextPlan :=
  { satpRoot := 0x1000, trapqVa := 0x400000, trapqPages := (List.range 4).map (fun i => 0x400000 + 4096 * i), trapqN := 2 ^ (6 + n), walkVa := 0x10000000, saveVa := 0, frameVa := 0x800000, framePa := 0x800000, frameSize := 0x10000, heapVa := 0x1000000
    heapSize := 0x100000, notifyHart := 15 }
/-- A context with the longest trap queue, and the places of one of 64 records; a descriptor for the root grid and one that is not sound. -/
theorem witness_create : (let s := { W with hub := { W.hub with booted := true } }
      s.hub.booted = true ∧ (s.ctx 65535).live = false ∧ (plan 10).satpRoot % 4096 = 0 ∧ (plan 10).trapqN = 2 ^ (6 + 10) ∧ (plan 10).trapqVa.toNat % 64 = 0 ∧ (plan 10).frameVa.toNat % 64 = 0
      ∧ (plan 10).heapVa.toNat % 262144 = 0 ∧ (plan 10).notifyHart < 16
      ∧ (s.setCtx 65535 (planContext (plan 0))).pinnedPages 65535 (plan 0).trapqVa (64 + 192 * (plan 0).trapqN) (plan 0).trapqPages = true
      ∧ rangeOk (plan 0).walkVa (8 * (4 * 2 ^ 20 + 4096)) = true
      ∧ (s.setCtx 65535 (planContext (plan 0))).mapped 65535 (plan 0).walkVa (8 * (4 * 2 ^ 20 + 4096)) (fun _ => true) = true
      ∧ (s.setCtx 65535 (planContext (plan 0))).oneRun 65535 (plan 0).frameVa (plan 0).framePa (plan 0).frameSize = true) := by
  refine ⟨by decide +kernel, by decide +kernel, by decide, by decide, by decide, by decide, by decide, by decide, by decide +kernel, by decide +kernel, by decide +kernel, by decide +kernel⟩
theorem witness_root_launch : ((WH 0).serviceLaunch W.mine.ctx 0x100000 false).isSome = true ∧ W.serviceLaunch W.mine.ctx 0x100000 false = none ∧ ((WH 0).ctx W.mine.ctx).exited = none
    ∧ ∃ g t, (WH 0).newGrid { Grid.none with ctx := W.mine.ctx } 0 [] [] = some (g, t) := by
  refine ⟨by decide +kernel, by decide +kernel, by decide +kernel, ?_⟩
  obtain ⟨o, ho⟩ := placeBlock_some (b := ((WH 0).ctx W.mine.ctx).frames) (cap := ((WH 0).ctx W.mine.ctx).frameSize) (size := 64) (align := 64) (n := (WH 0).nonce) (by decide +kernel)
  unfold State.newGrid State.makeFrame State.takeFrame State.takeSpans
  simp only [Grid.none, Kernel.none, Launch.none, Nat.add_zero, ho]
  exact ⟨_, _, rfl⟩
def image : KernelImage :=
  { kernel := { Kernel.none with centry := 0x600000, cb := 0x600000, ce := 0x60000C, lanes := 1024, level := 7, regs := 11, spad := 8355840, frame := 1048576, roles := List.replicate 32 0 }
    krec := 0x100080, code := [0x01000000, 0x01000000, 0x01000000], spdata := [], daddr := 0, data := [] }
/-- Two kernels, the first of which names the record of the second in its data. -/
def bundle : List KernelImage := [{ image with data := [.word 1, .krecLo 1, .krecHi 1], daddr := 0x100400 }, { image with krec := 0x100200 }]
theorem witness_bundle : (∀ i ∈ bundle, KernelImage.sound i 2 = true ∧ ∀ x ∈ i.spdata ++ i.data, InitItem.named bundle.length x = true)
    ∧ (∀ r ∈ imageRuns bundle, rangeOk r.1 r.2.length = true ∧ W.mapped W.mine.ctx r.1 r.2.length (fun _ => true) = true)
    ∧ (∀ i ∈ bundle, ((W.storeNat 0x1000 8 0xDB)).mapped W.mine.ctx i.krec 128 (fun p => !p.getLsbD 2) = true)
    ∧ (0 : Nat) ≠ 1 ∧ (0x100000 : W64).toNat % 4096 + 4096 ≤ 4096 ∧ (W.walk W.mine.ctx (va48 0x100000)).isSome = true := by
  refine ⟨by decide +kernel, by decide +kernel, by decide +kernel, by decide, by decide, by decide +kernel⟩
/-- The second 512 GiB mapped by a service; the copy of a page that another page of the context's space now names. -/
theorem witness_page_fault : (let s := W
      let ptes : List PteWrite := [{ pa := 0x1008, val := 0xDF }]
      (s.ctx W.mine.ctx).live = true ∧ s.resolvedIn W.mine.ctx (4096 * 0x8000000) 4096 = false
      ∧ ((((s.revokeIn W.mine.ctx (4096 * 0x8000000) 4096).dropTlbs W.mine.ctx (4096 * 0x8000000) 4096).writePtes ptes).walk W.mine.ctx (4096 * 0x8000000)).isSome = true)
    ∧ (match W.walk W.mine.ctx (4096 * 0x200) with | some f => f.pa (4096 * 0x200) == 0x200000 | none => false) = true := by
  refine ⟨by decide +kernel, by decide +kernel⟩
/-- The entries of a copy: a table tree in which page 0x200 is 0x300000, while it was 0x200000 before; none of them lies in the copied page. -/
theorem witness_copy_on_write : (let ptes : List PteWrite := [{ pa := 0x1000, val := 0x801 }, { pa := 0x2000, val := 0xC01 }, { pa := 0x3008, val := 0x1001 }, { pa := 0x4000, val := 0xC00DF }]
    (match ((((W.revokeIn W.mine.ctx (4096 * 0x200) 4096).dropTlbs W.mine.ctx (4096 * 0x200) 4096).writePtes ptes).walk W.mine.ctx (4096 * 0x200)) with
     | some f => f.pa (4096 * 0x200) == 0x300000 | none => false) = true ∧ ∀ p ∈ ptes, p.pa + 8 ≤ 0x300000) := by decide +kernel
theorem witness_revocation : (let s := WT (fun T => { T with extents := [{ va := 0x100000, len := 4096, pa := 0x100000, r := true, w := true, valid := true }] })
    (s.team W.cur.team).extents[0]?.isSome = true ∧ (s.team W.cur.team).accs = [] ∧ ∀ p ∈ s.teams, p.2.accs = []) := by decide +kernel

/-- A strand that waits in a call, with arguments. -/
def WCall (n : Nat) (args : List (Nat × W64)) : State :=
  (WT (fun T => { T with cs := { T.cs with calls := [{ sid := none, n := n }], sregs := args } })).onStrand W.cur (fun x => { x with st := .blocked, wait := .farder n })
theorem witness_served (n : Nat) (args : List (Nat × W64)) : (let s := WCall n args
    (s.team W.cur.team).live = true ∧ (s.team W.cur.team).retiring = false ∧ (s.strand W.cur).st = .blocked ∧ (s.strand W.cur).wait = .farder n
    ∧ (∃ rest, ((s.team W.cur.team).stream W.cur.strm).calls = { sid := W.cur.sid, n := n } :: rest) ∧ (s.team W.cur.team).held = .active) :=
  ⟨rfl, rfl, rfl, rfl, ⟨[], rfl⟩, rfl⟩
/-- A log of 4,096 bytes and of one more; a map to the last page below 512 GiB by an entry for the second; an unmapping; handlers. -/
theorem witness_call_arguments : (let s := WCall 1 [(48, 0x100000), (49, 4096)]
      (s.callArg W.cur 1).toNat ≤ 4096 ∧ rangeOk (s.callArg W.cur 0) (s.callArg W.cur 1).toNat = true ∧ s.mapped W.mine.ctx (s.callArg W.cur 0) (s.callArg W.cur 1).toNat (fun p => p.getLsbD 1) = true)
    ∧ (let s := WCall 1 [(48, 0x100000), (49, 4097)]; ¬ (s.callArg W.cur 1).toNat ≤ 4096)
    ∧ (let s := WCall 0x10 [(49, 4096), (50, 3)]
       let ptes : List PteWrite := [{ pa := 0x1008, val := 0xDF }]
       0 < (s.callArg W.cur 1).toNat ∧ permsOk (s.callArg W.cur 2) = true ∧ permsOk 2 = false ∧ (0x8000000000 : W64).toNat % 4096 = 0 ∧ rangeOk 0x8000000000 4096 = true
       ∧ s.unmapped W.mine.ctx 0x8000000000 4096 = true ∧ (s.writePtes ptes).mapped W.mine.ctx 0x8000000000 4096 (grantsAs 3) = true)
    ∧ (let s := WCall 0x11 [(48, 0x100000), (49, 4096)]
       let ptes : List PteWrite := [{ pa := 0x1000, val := 0 }]
       s.mapped W.mine.ctx 0x100000 4096 (fun _ => true) = true ∧ s.resolvedIn W.mine.ctx (va48 0x100000 / 4096 * 4096) (4096 + 8192) = false
       ∧ (s.remap W.mine.ctx 0x100000 4096 ptes).unmapped W.mine.ctx 0x100000 4096 = true)
    ∧ (let s := WCall 0x12 [(48, 0x100000), (49, 4096), (50, 1)]
       let ptes : List PteWrite := [{ pa := 0x1000, val := 0xDB }]
       (s.remap W.mine.ctx 0x100000 4096 ptes).mapped W.mine.ctx 0x100000 4096 (grantsAs 1) = true) := by
  refine ⟨by decide +kernel, by decide +kernel, by decide +kernel, by decide +kernel, by decide +kernel⟩
theorem witness_more_calls : (let s := WCall 0x20 [(48, 1)]
      s.callArg W.cur 0 ≠ 0 ∧ ∃ p ∈ s.grids, p.2.live = true ∧ p.2.ctx = W.mine.ctx ∧ p.2.id = s.callArg W.cur 0 ∧ ∀ q ∈ s.grids, q.2.live = true → q.2.ctx = W.mine.ctx → q.2.id = s.callArg W.cur 0 → q = p)
    ∧ (let s := WCall 0x20 [(48, 2)]; ∀ p ∈ s.grids, p.2.live = true → p.2.ctx = W.mine.ctx → p.2.id ≠ s.callArg W.cur 0)
    ∧ (let s := WCall 0x22 [(48, 63)]; (s.callArg W.cur 0).toNat ≤ 63) ∧ (let s := WCall 0x22 [(48, 64)]; 63 < (s.callArg W.cur 0).toNat)
    ∧ (W.grid 9).task = false := by
  refine ⟨by decide +kernel, by decide +kernel, by decide +kernel, by decide +kernel, by decide +kernel⟩
/-- RESUMEREC of a record of another strand of the team, its A root: resumed, and not permitted. -/
def WResume (cause : Nat) (k : W64) : State :=
  ((WCall 0x21 [(48, 7), (49, k)]).onTeam W.cur.team (fun T => { T with as := { T.as with root := { T.as.root with st := .parked } } })).onCtx W.mine.ctx
    (fun c => { c with recs := [{ recOf cause 0 with strm := .a }] })
theorem witness_resumerec : (let s := WResume 0x06 0
      (s.ctx W.mine.ctx).recs.find? (fun q => !q.own && q.todo.isNone && q.seq % 2 ^ 24 == (s.callArg W.cur 0).toNat % 2 ^ 24) = some { recOf 0x06 0 with strm := .a }
      ∧ (match s.service W.mine.ctx 7 .resume { step := false, freeze := false } with | some s1 => s1.calling W.cur 0x0021 | none => false) = true
      ∧ s.service W.mine.ctx 7 .publish { step := false, freeze := false } = none ∧ 4 ≤ ((WResume 6 4).callArg W.cur 1).toNat) := by
  refine ⟨by decide +kernel, by decide +kernel, by decide +kernel, by decide +kernel⟩

/-! Traps of vector words, steps, memory. -/

/-- The first register past the strand's blocks with another below it; unequal tags; a reference. -/
theorem witness_vector_traps : (let s := (WG [(1, 0), (2, 13)]).onStrand W.cur (fun x => { x with cnt := 0 })
      s.untranslated s.cur = false ∧ ¬ Mapped s 32 ∧ ¬ Mapped s 119 ∧ Mapped s 31 ∧ s.mine.regBusy 32 s.me.mask = false ∧ s.mine.regBusy 119 s.me.mask = false)
    ∧ Tagged (WG [(1, 0), (2, 13)]) [1] (fun _ => 0) ∧ Tagged (WG [(1, 0), (2, 13)]) [2] (fun _ => 13) ∧ VecReady (WG [(1, 0), (2, 13)]) [1, 2] [119]
    ∧ ActiveGroup (WG [(1, 0), (2, 13)]) 0 ∧ Tagged (WG [(1, 14)]) [1] (fun _ => tRef) ∧ VecReady (WG [(1, 14)]) [1] [119] := by
  refine ⟨by unfold Mapped; decide +kernel, tagged_of (by decide +kernel), tagged_of (by decide +kernel), vecReady_of (by decide +kernel), ?_, tagged_of (by decide +kernel), vecReady_of (by decide +kernel)⟩
  exact ⟨by decide +kernel, 0, by decide +kernel, by decide +kernel⟩

/-- A machine whose next step fetches a word. -/
def WStep (w : Nat) : State := State.reset.withFetchWord 32 w
theorem witness_fetch : (let s := WStep 0x10082040
      (match s.agenda with
       | .word r :: rest =>
         let q : State := { s with agenda := rest, cur := r }
         let p := q.onStrand r (fun x => { x with st := .running })
         let x := p.strand r
         q.selectable r && !(q.strand r).stepDue && !(q.untranslated r && q.steersNext r) && x.skipAt.isNone && x.early.isEmpty && decide (x.checked = 0)
           && s.recsNow.isEmpty
           && decide ((p.team r.team).cb ≤ packetOf x.pc) && decide (packetOf x.pc < (p.team r.team).ce)
           && (match p.fetch r.team x.pc with | .ok ws _ => (match decodeWord (ws.getD 0 0) with | .ok i => i == .sadd 2 2 1 && i.wf && !chainBit (ws.getD 0 0) | .error _ => false) | _ => false)
       | _ => false) = true) := by decide +kernel
/-- A packet that no instruction store holds, each word in a sound line; one whose line is poisoned. -/
theorem witness_packet : (let s := WStep 0x10082040
      let T := s.team s.cur.team
      (∀ e ∈ (s.core T.core).l1i, e.1 ≠ l1iKey T.ctx 0x600000)
      ∧ (match s.wordPlaces T.core T.ctx [0x600000, 0x600004, 0x600008] with
         | some (pas, s1) => pas.all (fun a => a % 4 == 0 && (s1.storeLine (dieOf T.core) (a / 128)).isNone && !s1.poisoned a 4) | none => false) = true)
    ∧ (let s := (WStep 0x10082040).poisonAt 0x600000
       (match s.fetch s.cur.team 0x600000 with | .poisoned pa _ => pa == 0x600000 | _ => false) = true) := by
  refine ⟨by decide +kernel, by decide +kernel⟩
theorem witness_step_trap : (let q := W.onStrand W.cur (fun x => { x with stepDue := true }); q.selectable W.cur = true ∧ q.untranslated W.cur = false ∧ (q.strand W.cur).stepDue = true)
    ∧ (let q := W.onStrand W.cur (fun x => { x with pc := 0x600300 })
       q.selectable W.cur = true ∧ ¬ (packetOf (q.strand W.cur).pc < (q.team W.cur.team).ce))
    ∧ State.reset.agenda = [] ∧ isEvent (.gridEnd 0) = true ∧ Claims.Unwatched W := by
  refine ⟨by decide +kernel, by decide +kernel, rfl, by decide +kernel, by unfold Claims.Unwatched; decide +kernel⟩
theorem witness_encoding : encode false (.sysc 2) = some 0x0E000002 := by decide +kernel
theorem witness_memory : memoryWf (WStep 0x01000000) = true ∧ ∃ t, step (WStep 0x01000000) = .next t := by
  refine ⟨by decide +kernel, ?_⟩
  have h : (match step (WStep 0x01000000) with | .next _ => true | _ => false) = true := by decide +kernel
  cases e : step (WStep 0x01000000) with
  | next t => exact ⟨t, rfl⟩
  | fault f => rw [e] at h; exact absurd h (by simp)
  | refused r => rw [e] at h; exact absurd h (by simp)

/-! Single steps. The expected values are worked out by hand from the rules that each comment names. -/

/-- One step from a state with a word placed where it is fetched; what the step leaves, or nothing where it does not go on. -/
def stepOn (s : State) (i : Instr) : Option State :=
  match encode false i with
  | some w => (match step (s.withFetchWord 32 w.toNat) with | .next t => some t | _ => none)
  | none => none
def left {α : Type} (s : State) (i : Instr) (f : State → α) : Option α := (stepOn s i).map f
/-- Vector registers whose lanes hold one value each, with a tag. -/
def WVals (t : BitVec 4) (l : List (Nat × W32)) : State :=
  (WT (fun T => { T with vtags := l.map (fun p => (64 * p.1, t)), vregs := l.flatMap (fun p => (List.range 32).map (fun i => (1024 * p.1 + i, p.2))) })).onStrand W.cur
    (fun x => { x with cnt := 11 })

/-- 05 R111: sums wrap; the word goes on by 4 bytes (02 R37). -/
theorem test_sadd_wraps : left (WS [(1, 0xFFFFFFFFFFFFFFFF), (2, 1), (3, 7)]) (.sadd 3 1 2) (fun t => (t.sreg 3, t.me.pc)) = some (0, 0x600004) := by decide +kernel
/-- 05 R111: the high half of a signed product: −1 × −1 is 1, −1 × 1 is −1. -/
theorem test_smulh_signed : left (WS [(1, 0xFFFFFFFFFFFFFFFF), (2, 1)]) (.smulh 3 1 1) (fun t => t.sreg 3) = some 0
    ∧ left (WS [(1, 0xFFFFFFFFFFFFFFFF), (2, 1)]) (.smulh 3 1 2) (fun t => t.sreg 3) = some 0xFFFFFFFFFFFFFFFF := by decide +kernel
/-- 05 R111: shift amounts are taken modulo 64. -/
theorem test_sshl_modulo : left (WS [(1, 3), (2, 65)]) (.sshl 3 1 2) (fun t => t.sreg 3) = some 6 := by decide +kernel
/-- 05 R111: signed and unsigned comparison of −1 with 1. -/
theorem test_slt_and_sltn : left (WS [(1, 0xFFFFFFFFFFFFFFFF), (2, 1)]) (.slt 3 1 2) (fun t => t.sreg 3) = some 1
    ∧ left (WS [(1, 0xFFFFFFFFFFFFFFFF), (2, 1)]) (.sltn 3 1 2) (fun t => t.sreg 3) = some 0 := by decide +kernel
/-- 05 R112: the immediate of SLUI is signed and stands above 12 zeros. -/
theorem test_slui_sign : left W (.slui 3 0x20000) (fun t => t.sreg 3) = some 0xFFFFFFFFE0000000 := by decide +kernel
/-- 05 R102, R110: CALL leaves the next packet in s63 and goes to a packet; LOOP falls through at 0. -/
theorem test_call : left W (.call 2) (fun t => (t.sreg 63, t.me.pc)) = some (0x60000C, 0x600018) := by decide +kernel
theorem test_loop_ends : left (WS [(1, 1)]) (.loop 1 1 2) (fun t => (t.sreg 1, t.me.pc)) = some (0, 0x60000C) := by decide +kernel
/-- 01 R21: a DIVB that some lanes take suspends its strand; one that none takes falls through to the next packet. -/
theorem test_divb : left WP (.divb 1 0 2) (fun t => t.me.st) = some .suspended ∧ left WP (.divb 0 1 2) (fun t => t.me.pc) = some 0x60000C := by decide +kernel

/-- 03 R61, 06 R120: I32 wraps, or saturates and raises OF (bit 2 of FPFLAGS in 03 Table 3-8). -/
theorem test_vadd_wraps : left (WVals 0 [(1, 0x7FFFFFFF), (2, 1)]) (.vadd 0 3 1 2) (fun t => (t.mine.vr 3 31, t.mine.vtag 3 0)) = some (0x80000000, 0) := by decide +kernel
theorem test_vadd_saturates : left (WVals 0 [(1, 0x7FFFFFFF), (2, 1)]) (.vadd 1 3 1 2) (fun t => (t.mine.vr 3 31, t.myStream.fpflags)) = some (0x7FFFFFFF, 4) := by decide +kernel
/-- 06 R120: F32 1 + 1 is 2; BF16 pairs add element by element. -/
theorem test_vadd_floats : left (WVals 1 [(1, 0x3F800000), (2, 0x3F800000)]) (.vadd 0 3 1 2) (fun t => (t.mine.vr 3 0, t.myStream.fpflags)) = some (0x40000000, 0) := by decide +kernel
theorem test_vadd_bf16 : left (WVals 2 [(1, 0x3F804000), (2, 0x40003F80)]) (.vadd 0 3 1 2) (fun t => t.mine.vr 3 0) = some 0x40404040 := by decide +kernel
/-- 06 R121: a shift by the width gives 0, or copies of the top bit. -/
theorem test_vector_shifts : left (WVals 0 [(1, 0x80000000), (2, 32)]) (.vshl 3 1 2) (fun t => t.mine.vr 3 0) = some 0
    ∧ left (WVals 0 [(1, 0x80000000), (2, 32)]) (.vsra 3 1 2) (fun t => t.mine.vr 3 0) = some 0xFFFFFFFF := by decide +kernel
/-- 06 R134: 5 ones; 27 leading zeros. -/
theorem test_counts : left (WVals 0 [(1, 0x1F)]) (.vpopc 3 1) (fun t => t.mine.vr 3 0) = some 5 ∧ left (WVals 0 [(1, 0x1F)]) (.vclz 3 1) (fun t => t.mine.vr 3 0) = some 27 := by decide +kernel
/-- 06 R126: 1 < 2 in every lane. -/
theorem test_vcmp : left (WVals 0 [(1, 1), (2, 2)]) (.vcmp 1 2 1 2 0) (fun t => t.mine.pred 1) = some (firstLanes 32) := by decide +kernel
/-- 07 R141: the exponent of 8.0 is 3. -/
theorem test_vexpx : left (WVals 1 [(1, 0x41000000)]) (.vexpx 3 1) (fun t => (t.mine.vr 3 0, t.mine.vtag 3 0)) = some (3, 0) := by decide +kernel
/-- 08 R159: a result that is pushed is at the end of every lane's queue. -/
theorem test_push : left (WT (fun T => { T with qtags := [(7, 0)] })) (.vmovi 127 5) (fun t => (t.mine.queue 7 31).map (fun e => e.val)) = some [some 5] := by decide +kernel
/-- 11 Table 11-1, R219 to R221: the first record: PROD is 1, the cause TRAP with its code, the pc, lanes 0 to 31. -/
theorem test_trap_record : left W (.trap 0xBEEF) (fun t => (t.memNat 0x400000 8, t.memNat 0x400040 4, t.memNat 0x400060 8, t.memNat 0x401040 4, t.me.st))
    = some (1, 0xBEEF0006, 0x600000, 0xFFFFFFFF, .parked) := by decide +kernel
/-- 02 R39: a zero word is the zero-word trap, cause 0x01. -/
theorem test_zero_word : ((match step (State.reset.withFetchWord 32 0) with | .next t => some (t.memNat 0x400040 1, t.me.st) | _ => none) = some (0x01, .parked)) := by decide +kernel
/-- 09 R187, R189: an atomic add performed in memory leaves the sum and reads the old value. -/
theorem test_atomic_add : (match exec (.memoryAccessPerform W.cur.team 0 0 false) ((WAcc (.atomic 0) 4 .nowhere .global (.ready 0x100000)).storeNat 0x100000 4 0xFFFFFFFE) with
    | .next t => some (t.memNat 0x100000 4) | _ => none) = some 3 := by decide +kernel
/-- 13 R242: 64 tiles of the quad are reserved and none is left. -/
theorem test_mrsv : left W (.mrsv 1 64) (fun t => (t.mine.pred 1, (t.quad 0).tiles)) = some (firstLanes 32, 0) := by decide +kernel
/-- 04 R86, R91: two blocks of a team of one group leave 766 of 768. -/
theorem test_regacq : left W (.regacq 1 2) (fun t => (t.mine.pool, (t.core 0).active.pool)) = some (2, 766) := by decide +kernel

end
end

section
/-! What the words that divide, join and end share: the bank of an issuing strand, the end of a word that traps. -/

namespace Sys2Proof.Machine

open Claims

theorem bank_of_issues {s : State} (ha : Issues s) : s.bank s.cur.team = (s.core s.mine.core).active := by
  unfold State.bank
  rw [show (s.team s.cur.team).held = .active from ha]; rfl

theorem finish_trap {s : State} (hu : s.untranslated s.cur = false) (t : TrapInfo) :
    finish s (.error (.trap t)) = .next (s.trapHere t) := by
  simp only [finish, hu, Bool.false_eq_true, if_false]

end Sys2Proof.Machine
end

section
/-! What DIVB does: the strand alone moves, two FREE records take its lanes, an overflow entry holds the deferred ones, or it traps
(01 R21; 04 R88; 05 R108). -/

namespace Sys2Proof.Machine

open Claims

/-! Writes to records of one core's active split table. -/

/-- t differs from s, among the cores, in the active split table of core k alone. -/
def SplitsOnly (s t : State) (k : Nat) : Prop :=
  ∀ c, t.core c = if c = k then { s.core c with active := { (s.core c).active with split := (t.core c).active.split } } else s.core c

theorem SplitsOnly.trans {s t u : State} {k : Nat} (h : SplitsOnly s t k) (g : SplitsOnly t u k) : SplitsOnly s u k := by
  intro c
  have hc := h c
  have gc := g c
  by_cases hk : c = k
  · rw [if_pos hk] at hc gc ⊢
    rw [hc] at gc
    exact gc
  · rw [if_neg hk] at hc gc ⊢
    exact gc.trans hc

theorem splitsOnly_of_onlyMine {s t : State} (h : OnlyMine s t) : SplitsOnly s t s.mine.core := by
  intro c
  rcases h.cores c with hsame | ⟨hk, i, z, -, hz, -⟩
  · rw [hsame, ite_self]
  · rw [if_pos hk, hz]

/-- t is s with x written to record i of core k's active bank. -/
structure RecordWritten (s t : State) (k i : Nat) (x : Strand) : Prop where
  rest : t = { s with cores := t.cores }
  splits : SplitsOnly s t k
  record : ∀ n, SMap.get Strand.free (t.core k).active.split n = if n = i then x else SMap.get Strand.free (s.core k).active.split n

theorem recordWritten_setStrand {s : State} {r : StrandRef} {i : Nat} (x : Strand) (h : (s.team r.team).held = .active)
    (hr : r.sid = some i) : RecordWritten s (s.setStrand r x) (s.team r.team).core i x := by
  refine ⟨?_, fun c => ?_, fun n => ?_⟩
  · rw [setStrand_record x h hr]; rfl
  · rw [core_setRecord x h hr]
    split <;> rfl
  · rw [core_setRecord x h hr, if_pos rfl]
    exact SMap.get_set _ _ _ _ _

theorem RecordWritten.team {s t : State} {k i : Nat} {x : Strand} (h : RecordWritten s t k i x) (v : Nat) : t.team v = s.team v := by
  rw [h.rest]; rfl

/-- Every other strand of a team of that core reads as before. -/
theorem RecordWritten.strand_ne {s t : State} {k i : Nat} {x : Strand} (h : RecordWritten s t k i x) {r : StrandRef}
    (ha : (s.team r.team).held = .active) (hk : (s.team r.team).core = k) (hr : r.sid ≠ some i) : t.strand r = s.strand r := by
  cases hs : r.sid with
  | none =>
    unfold State.strand
    rw [hs]
    simp only [h.team]
  | some n =>
    have hn : n ≠ i := fun e => hr (by rw [hs, e])
    rw [strand_record (by rw [h.team]; exact ha) hs, strand_record ha hs, h.team, hk, h.record, if_neg hn]

/-! A division onto two records. -/

/-- The issuing strand left as y, then two records written. -/
def State.divided (s : State) (i j : Nat) (y a b : Strand) : State :=
  (((s.setStrand s.cur y).setStrand { s.cur with sid := some i } a).setStrand { s.cur with sid := some j } b).drew 2

/-- u is s after a division onto records i and j: the strand is y, the records are a and b, nothing else has changed but the draws. -/
structure Divided (s u : State) (i j : Nat) (y a b : Strand) : Prop where
  first : SMap.get Strand.free (u.core s.mine.core).active.split i = a
  second : SMap.get Strand.free (u.core s.mine.core).active.split j = b
  others : ∀ n, n ≠ i → n ≠ j → s.cur.sid ≠ some n →
    SMap.get Strand.free (u.core s.mine.core).active.split n = SMap.get Strand.free (s.core s.mine.core).active.split n
  me : u.me = y
  stream : StreamKept s u
  team : TeamKept s u
  rest : u = { s with teams := u.teams, cores := u.cores, nonce := s.nonce + 2 }
  teams : ∀ v, v ≠ s.cur.team → u.team v = s.team v
  splits : SplitsOnly s u s.mine.core

/-- A strand's own record apart, an effect on the issuing strand leaves every record. -/
theorem record_of_onlyMine {s t : State} (h : OnlyMine s t) {n : Nat} (hn : s.cur.sid ≠ some n) :
    SMap.get Strand.free (t.core s.mine.core).active.split n = SMap.get Strand.free (s.core s.mine.core).active.split n := by
  rcases h.cores s.mine.core with hsame | ⟨-, i, z, hi, hz, hother⟩
  · rw [hsame]
  · rw [hz]
    exact hother n (fun e => hn (by rw [hi, e]))

theorem divided_spec {s : State} {i j : Nat} (ha : Issues s) (hij : i ≠ j) (hi : s.cur.sid ≠ some i) (hj : s.cur.sid ≠ some j)
    (y a b : Strand) : Divided s (s.divided i j y a b) i j y a b := by
  obtain ⟨hme, hstream, hteam, honly⟩ : StrandResult s (s.setStrand s.cur y) y := strandResult s ha (fun _ => y)
  unfold State.divided
  generalize s.setStrand s.cur y = s1 at hme hstream hteam honly ⊢
  have hcur := onlyMine_cur honly
  have hmine : s1.team s.cur.team = s1.mine := by rw [State.mine, hcur]
  have held1 : (s1.team s.cur.team).held = .active := by rw [hmine, hteam]; exact ha
  have core1 : (s1.team s.cur.team).core = s.mine.core := by rw [hmine, hteam]
  have w1 := recordWritten_setStrand (r := { s.cur with sid := some i }) a held1 rfl
  rw [core1] at w1
  generalize s1.setStrand { s.cur with sid := some i } a = s2 at w1 ⊢
  have held2 : (s2.team s.cur.team).held = .active := by rw [w1.team]; exact held1
  have core2 : (s2.team s.cur.team).core = s.mine.core := by rw [w1.team]; exact core1
  have w2 := recordWritten_setStrand (r := { s.cur with sid := some j }) b held2 rfl
  rw [core2] at w2
  generalize s2.setStrand { s.cur with sid := some j } b = s3 at w2 ⊢
  have hteams (v : Nat) : s3.team v = s1.team v := (w2.team v).trans (w1.team v)
  have hcur3 : s3.cur = s.cur := by rw [w2.rest, w1.rest]; exact hcur
  have hmine3 : s3.mine = s1.mine := by rw [State.mine, hcur3, hteams, hmine]
  have hstream3 : s3.myStream = s1.myStream := by rw [State.myStream, hcur3, hmine3, State.myStream, hcur]
  refine ⟨?_, ?_, fun n hni hnj hn => ?_, ?_, ?_, ?_, ?_, fun v hv => (hteams v).trans (honly.teams v hv), ?_⟩
  · exact (w2.record i).trans ((if_neg hij).trans ((w1.record i).trans (if_pos rfl)))
  · exact (w2.record j).trans (if_pos rfl)
  · exact (w2.record n).trans ((if_neg hnj).trans ((w1.record n).trans ((if_neg hni).trans (record_of_onlyMine honly hn))))
  · calc s3.strand s3.cur = s3.strand s.cur := by rw [hcur3]
      _ = s2.strand s.cur := w2.strand_ne held2 core2 hj
      _ = s1.strand s.cur := w1.strand_ne held1 core1 hi
      _ = s1.me := by rw [State.me, hcur]
      _ = y := hme
  · show s3.myStream = { s.myStream with root := s3.myStream.root }
    rw [hstream3]; exact hstream
  · show s3.mine = { s.mine with cs := s3.mine.cs, as := s3.mine.as }
    rw [hmine3]; exact hteam
  · have hrest := w2.rest
    rw [w1.rest, honly.rest] at hrest
    have hteams3 : s3.teams = s1.teams := by rw [hrest]
    show { s3 with nonce := s3.nonce + 2 } = _
    rw [hrest]; rfl
  · exact (splitsOnly_of_onlyMine honly).trans (w1.splits.trans w2.splits)

/-! The FREE records and the draw from them (log 2). -/

/-- The FREE records of the issuing team's bank. -/
def State.freeRecords (s : State) : List Nat :=
  (List.range Config.splitRecords).filter (fun i => decide ((SMap.get Strand.free (s.bank s.cur.team).split i).st = .free))

theorem mem_freeRecords {s : State} (ha : Issues s) (k : Nat) :
    k ∈ s.freeRecords ↔ k < 256 ∧ (SMap.get Strand.free (s.core s.mine.core).active.split k).st = .free := by
  simp [State.freeRecords, bank_of_issues ha, Config.splitRecords]

theorem two_le_length_iff {l : List Nat} (h : l.Nodup) : 2 ≤ l.length ↔ ∃ j k, j ≠ k ∧ j ∈ l ∧ k ∈ l := by
  constructor
  · intro hl
    match l, h, hl with
    | a :: b :: rest, h, _ =>
      have hab : a ≠ b := fun e => (List.nodup_cons.mp h).1 (e ▸ List.mem_cons_self)
      exact ⟨a, b, hab, List.mem_cons_self, List.mem_cons_of_mem _ List.mem_cons_self⟩
  · rintro ⟨j, k, hne, hj, hk⟩
    match l, hj, hk with
    | [a], hj, hk => exact absurd ((List.mem_singleton.mp hj).trans (List.mem_singleton.mp hk).symm) hne
    | _ :: _ :: rest, _, _ => exact Nat.le_add_left 2 rest.length

theorem freeRecords_nodup (s : State) : s.freeRecords.Nodup := List.nodup_range.filter _

theorem drawFrom_mem (nonce : Nat) {l : List Nat} (h : l ≠ []) : drawFrom nonce l ∈ l := by
  have hlt : Config.pick nonce % l.length < l.length := Nat.mod_lt _ (List.length_pos_iff.mpr h)
  unfold drawFrom
  rw [List.getD_eq_getElem?_getD, List.getElem?_eq_getElem hlt, Option.getD_some]
  exact List.getElem_mem hlt

/-- A strand of a division (01 R21): its lanes, where it goes on, and the watermark at the blocks that it takes over (04 R88). -/
def State.childOf (s : State) (m : Mask) (a : W64) : Strand :=
  { Strand.free with st := .running, team := s.cur.team, strm := s.cur.strm, parent := s.cur.sid, pc := a, mask := m, cnt := s.me.cnt,
                     wm := s.me.cnt, step := s.me.step, freeze := s.me.freeze, readyAt := s.clock, windows := (s.me.goto a).windows }

/-- The strand that a division suspends. -/
def Strand.suspend (x : Strand) : Strand := { x.goto x.pc with st := .suspended, stepDue := false, windows := [] }

/-- With two FREE records, a division draws two different ones. -/
theorem divideHere_draws {s : State} (t f : Mask) (target next : W64) (h : 2 ≤ s.freeRecords.length) :
    ∃ i ∈ s.freeRecords, ∃ j ∈ s.freeRecords, i ≠ j ∧
      s.divideHere t f target next = .ok (s.divided i j s.me.suspend (s.childOf t target) (s.childOf f next)) := by
  have hi : drawFrom s.nonce s.freeRecords ∈ s.freeRecords := drawFrom_mem _ (by intro e; simp [e] at h)
  generalize hdi : drawFrom s.nonce s.freeRecords = i at hi
  have hrest : s.freeRecords.filter (fun k => k ≠ i) ≠ [] := by
    obtain ⟨a, b, hab, ha, hb⟩ := (two_le_length_iff (freeRecords_nodup s)).mp h
    obtain ⟨c, hc, hci⟩ : ∃ c ∈ s.freeRecords, c ≠ i := by
      by_cases e : a = i
      · exact ⟨b, hb, fun e' => hab (e.trans e'.symm)⟩
      · exact ⟨a, ha, e⟩
    exact List.ne_nil_of_mem (List.mem_filter.mpr ⟨hc, by simpa using hci⟩)
  obtain ⟨hj, hji⟩ := List.mem_filter.mp (drawFrom_mem (s.nonce + 1) hrest)
  refine ⟨i, hi, _, hj, fun e => (of_decide_eq_true hji) e.symm, ?_⟩
  rw [← hdi]
  exact if_pos h

/-- A running strand does not stand in a FREE record. -/
theorem running_not_free {s : State} {i : Nat} (ha : Issues s) (hrun : s.me.st = .running) (hi : i ∈ s.freeRecords) : s.cur.sid ≠ some i := by
  intro hs
  have hme : s.me = SMap.get Strand.free (s.core s.mine.core).active.split i := strand_record ha hs
  rw [hme, ((mem_freeRecords ha i).mp hi).2] at hrun
  exact absurd hrun (by decide)

theorem divideHere_two {s : State} (ha : Issues s) (hrun : s.me.st = .running) (t f : Mask) (target next : W64)
    (h : ∃ j k, j ≠ k ∧ j ∈ s.freeRecords ∧ k ∈ s.freeRecords) :
    ∃ i ∈ s.freeRecords, ∃ j ∈ s.freeRecords, i ≠ j ∧ ∃ u, s.divideHere t f target next = .ok u
      ∧ Divided s u i j s.me.suspend (s.childOf t target) (s.childOf f next) := by
  obtain ⟨i, hi, j, hj, hij, hu⟩ := divideHere_draws t f target next ((two_le_length_iff (freeRecords_nodup s)).mpr h)
  exact ⟨i, hi, j, hj, hij, _, hu, divided_spec ha hij (running_not_free ha hrun hi) (running_not_free ha hrun hj) _ _ _⟩

/-! A division with fewer than two FREE records. -/

/-- The overflow entry of a division: its lanes f wait at an address (01 R20, R21). -/
def State.deferral (s : State) (f : Mask) (next : W64) : OvfEntry :=
  { owner := s.cur.sid, strm := s.cur.strm, running := false, pc := next, dmask := f, amask := 0, join := none, wmark := s.me.cnt,
    pwm := s.me.wm, barr := none }

theorem divideHere_defers {s : State} (t f : Mask) (target next : W64) (h : ¬ 2 ≤ s.freeRecords.length) (hovf : s.mine.ovf.length < 64) :
    s.divideHere t f target next = .ok ((s.onMine (fun T => { T with ovf := s.deferral f next :: T.ovf })).onStrand s.cur
      (fun y => { y.goto target with mask := t, wm := y.cnt })) :=
  (if_neg h).trans (if_pos hovf)

theorem divideHere_overflows {s : State} (t f : Mask) (target next : W64) (h : ¬ 2 ≤ s.freeRecords.length) (hovf : 64 ≤ s.mine.ovf.length) :
    s.divideHere t f target next = .error (.trap (trapOf cDivergence s.me.mask)) :=
  (if_neg h).trans (if_neg (Nat.not_lt.mpr hovf))

theorem ownResult_defers {s : State} (ha : Issues s) (e : OvfEntry) (t : Mask) (target : W64) :
    OwnResult s ((s.onMine (fun T => { T with ovf := e :: T.ovf })).onStrand s.cur (fun y => { y.goto target with mask := t, wm := y.cnt }))
      { s.mine with ovf := e :: s.mine.ovf } s.myStream { s.me.goto target with mask := t, wm := s.me.cnt } :=
  ownResult_onStrand (ownResult_onTeam (ownResult_start s) rfl (g := fun T => { T with ovf := e :: T.ovf })
    ⟨fun _ _ _ => rfl, fun _ => rfl, fun _ => rfl, fun _ => rfl⟩) ha rfl (fun y => { y.goto target with mask := t, wm := y.cnt })

/-! DIVB, case by case. -/

/-- The lanes that a DIVB takes (01 R21). -/
def State.divTaken (s : State) (p : BitVec 3) (i : BitVec 1) : Mask :=
  if i = 1 then s.me.mask &&& ~~~s.mine.pred p else s.me.mask &&& s.mine.pred p

theorem checkTarget_ok {s : State} {a : W64} (h : InCode s a) : checkTarget s a false = .ok () := by
  obtain ⟨hlo, hhi⟩ := h
  simp [checkTarget, require, hlo, hhi]

section
variable {s : State} {p : BitVec 3} {i : BitVec 1} {o : BitVec 20}

theorem divb_none (hp : PredsReady s [p]) (ht : s.divTaken p i = 0) : exec (.divb p i o) s = .next (s.goto (packetAfter s.me.pc)) := by
  show finish s (needPreds s [p] >>= _) = _
  rw [needPreds_ok hp, ok_bind]
  show finish s (if s.divTaken p i = 0 then _ else _) = _
  rw [if_pos ht]; rfl

theorem divb_taken (hp : PredsReady s [p]) (ht : s.divTaken p i ≠ 0) (hc : InCode s (target s.me.pc o)) :
    exec (.divb p i o) s = finish s (if s.me.mask &&& ~~~s.divTaken p i = 0 then .ok (s.goto (target s.me.pc o))
      else s.divideHere (s.divTaken p i) (s.me.mask &&& ~~~s.divTaken p i) (target s.me.pc o) (packetAfter s.me.pc)) := by
  show finish s (needPreds s [p] >>= _) = _
  rw [needPreds_ok hp, ok_bind]
  show finish s (if s.divTaken p i = 0 then _ else checkTarget s (target s.me.pc o) false >>= _) = _
  rw [if_neg ht, checkTarget_ok hc, ok_bind]
  rfl

theorem divb_all (hp : PredsReady s [p]) (ht : s.divTaken p i ≠ 0) (hc : InCode s (target s.me.pc o))
    (hf : s.me.mask &&& ~~~s.divTaken p i = 0) : exec (.divb p i o) s = .next (s.goto (target s.me.pc o)) := by
  rw [divb_taken hp ht hc, if_pos hf, finish_ok]

theorem divb_divides (hp : PredsReady s [p]) (ht : s.divTaken p i ≠ 0) (hc : InCode s (target s.me.pc o))
    (hf : s.me.mask &&& ~~~s.divTaken p i ≠ 0) : exec (.divb p i o) s
      = finish s (s.divideHere (s.divTaken p i) (s.me.mask &&& ~~~s.divTaken p i) (target s.me.pc o) (packetAfter s.me.pc)) := by
  rw [divb_taken hp ht hc, if_neg hf]

end

/-- Settles O19: DIVB is a move where one side has no lane; else `divideHere` draws two FREE records, pushes an entry, or traps. -/
theorem divisionOfStrands : Obligations.DivisionOfStrands := by
  intro s p i o ha hp hrun x pv t f next there rec_ isFree child
  refine ⟨fun ht => ⟨_, divb_none hp ht, strandResult s ha _⟩, fun ht hc => ⟨fun hf => ⟨_, divb_all hp ht hc hf, strandResult s ha _⟩, ?_, ?_⟩⟩
  · rintro hf ⟨a, b, hab, hfa, hfb⟩
    obtain ⟨j, hj, k, hk, hjk, u, hu, d⟩ := divideHere_two ha hrun t f there next
      ⟨a, b, hab, (mem_freeRecords ha a).mpr hfa, (mem_freeRecords ha b).mpr hfb⟩
    exact ⟨u, by rw [divb_divides hp ht hc hf]; exact congrArg (finish s) hu,
      ⟨j, k, hjk, (mem_freeRecords ha j).mp hj, (mem_freeRecords ha k).mp hk, d.first, d.second, d.others⟩,
      d.me, d.stream, d.team, d.rest, d.teams, d.splits⟩
  · intro hf hone
    have hfew : ¬ 2 ≤ s.freeRecords.length := by
      rw [two_le_length_iff (freeRecords_nodup s)]
      rintro ⟨j, k, hjk, hj, hk⟩
      exact hjk (hone j k ((mem_freeRecords ha j).mp hj) ((mem_freeRecords ha k).mp hk))
    refine ⟨fun hovf => ⟨_, ?_, ownResult_defers ha (s.deferral f next) t there⟩, fun hovf hu => ?_⟩
    · rw [divb_divides hp ht hc hf]
      exact congrArg (finish s) (divideHere_defers t f there next hfew hovf)
    · rw [divb_divides hp ht hc hf]
      exact (congrArg (finish s) (divideHere_overflows t f there next hfew hovf)).trans (finish_trap hu _)

end Sys2Proof.Machine
end

section
/-! What JOIN and END do to a strand that owns an overflow entry, and what they leave of a child that waits (01 R22, R23; 04 R88). -/

namespace Sys2Proof.Machine

open Claims

/-! The issuing strand and its team under the operations on overflow entries. -/

theorem ownResult_strand {s t : State} {T : Team} {m : Stream} {x : Strand} (h : OwnResult s t T m x) : t.strand s.cur = x := by
  rw [← onlyMine_cur h.rest]; exact h.strand

theorem ownResult_giveAbove {s t : State} {T : Team} {m : Stream} {x : Strand} (h : OwnResult s t T m x) (hT : T.held = .active)
    (hc : T.core = s.mine.core) (w : Nat) :
    OwnResult s (t.giveAbove s.cur w) { T with pool := T.pool + (x.cnt - w) } m { x with cnt := min x.cnt w } := by
  have hpool := ownResult_onTeam h hc (g := fun U => { U with pool := U.pool + (x.cnt - w) })
    ⟨fun _ _ _ => rfl, fun _ => rfl, fun _ => rfl, fun _ => rfl⟩
  have hcnt := ownResult_onStrand hpool hT hc (fun y => { y with cnt := min y.cnt w })
  rw [State.onMine, onlyMine_cur h.rest] at hcnt
  unfold State.giveAbove
  rw [ownResult_strand h]
  exact hcnt

/-- A rewriting of the overflow stack alone. -/
theorem ownResult_onOvf {s t : State} {T : Team} {m : Stream} {x : Strand} (h : OwnResult s t T m x) (hc : T.core = s.mine.core)
    (f : List OvfEntry → List OvfEntry) :
    OwnResult s (t.onTeam s.cur.team (fun U => { U with ovf := f U.ovf })) { T with ovf := f T.ovf } m x := by
  have hovf := ownResult_onTeam h hc (g := fun U => { U with ovf := f U.ovf }) ⟨fun _ _ _ => rfl, fun _ => rfl, fun _ => rfl, fun _ => rfl⟩
  rw [State.onMine, onlyMine_cur h.rest] at hovf
  exact hovf

theorem ownResult_onOwning {s t : State} {T : Team} {m : Stream} {x : Strand} {pre post : List OvfEntry} {e : OvfEntry}
    (h : OwnResult s t T m x) (hc : T.core = s.mine.core) (hovf : T.ovf = pre ++ e :: post)
    (he : e.owner = s.cur.sid ∧ e.strm = s.cur.strm) (hp : ∀ f ∈ pre, ¬ (f.owner = s.cur.sid ∧ f.strm = s.cur.strm))
    (f : OvfEntry → OvfEntry) : OwnResult s (t.onOwning s.cur f) { T with ovf := pre ++ f e :: post } m x := by
  have hedit := ownResult_onOvf h hc (editOwning s.cur f)
  rw [hovf, editOwning_eq f he hp] at hedit
  exact hedit

/-- What `State.switchTo` makes of a strand whose blocks have been given back. -/
def switched (x : Strand) (e : OvfEntry) : Strand :=
  let y := { x.goto e.pc with mask := e.dmask, wm := e.pwm }
  match e.barr with
  | some n => { y with st := .blocked, wait := waitAt n }
  | none => y

theorem switched_cnt (x : Strand) (e : OvfEntry) : switched { x with cnt := min x.cnt e.wmark } e = onto x e := by
  unfold switched onto waitAt
  cases e.barr <;> rfl

theorem ownResult_switchTo {s t : State} {T : Team} {m : Stream} {x : Strand} {pre post : List OvfEntry} {e' : OvfEntry}
    (h : OwnResult s t T m x) (hT : T.held = .active) (hc : T.core = s.mine.core) (hovf : T.ovf = pre ++ e' :: post)
    (he : e'.owner = s.cur.sid ∧ e'.strm = s.cur.strm) (hp : ∀ f ∈ pre, ¬ (f.owner = s.cur.sid ∧ f.strm = s.cur.strm)) (e : OvfEntry) :
    OwnResult s (t.switchTo s.cur e)
      { T with pool := T.pool + (x.cnt - e.wmark), ovf := pre ++ { e' with barr := none } :: post } m (onto x e) := by
  have hgive := ownResult_giveAbove h hT hc e.wmark
  have hclear := ownResult_onOwning hgive hc hovf he hp (fun e => { e with barr := none })
  have hmoved := ownResult_onStrand hclear hT hc (switched · e)
  rw [switched_cnt] at hmoved
  exact hmoved

/-- The owning entry taken off the stack, where no reset of WM is pending (04 R87). -/
theorem ownResult_removeEntry {s : State} {pre post : List OvfEntry} {e : OvfEntry} (ha : Issues s) (hz : s.mine.cs.wmZero = false)
    (ho : Owns s pre e post) :
    OwnResult s (s.removeEntry s.cur e) { s.mine with pool := s.mine.pool + (s.me.cnt - e.wmark), ovf := pre ++ post } s.myStream
      { s.me with cnt := min s.me.cnt e.wmark, wm := e.pwm } := by
  obtain ⟨hovf, hown, hstrm, hpre⟩ := ho
  have hgive := ownResult_giveAbove (ownResult_start s) ha rfl e.wmark
  have hdrop := ownResult_onOvf hgive rfl (dropOwning s.cur)
  rw [show dropOwning s.cur s.mine.ovf = pre ++ post by rw [hovf, dropOwning_eq ⟨hown, hstrm⟩ hpre]] at hdrop
  have hwm := ownResult_onStrand hdrop ha rfl (fun y => { y with wm := e.pwm })
  have hnow : (s.team s.cur.team).cs.wmZero = false := hz
  unfold State.removeEntry
  simp only [hnow, Bool.and_false, Bool.false_and, Bool.false_eq_true, if_false]
  exact hwm

theorem owns_owning {s : State} {pre post : List OvfEntry} {e : OvfEntry} (ho : Owns s pre e post) : s.mine.owning s.cur = some e := by
  obtain ⟨hovf, hown, hstrm, hpre⟩ := ho
  exact owning_some hovf ⟨hown, hstrm⟩ hpre

/-! JOIN, case by case. -/

theorem exec_join (s : State) : exec .join s = finish s s.joinHere := rfl

theorem joinHere_deferred {s : State} {e : OvfEntry} (ho : s.mine.owning s.cur = some e) (hr : e.running = false) :
    s.joinHere = .ok ((s.onOwning s.cur (fun e => { e with running := true, amask := s.me.mask, join := some s.me.pc })).switchTo s.cur e) := by
  unfold State.joinHere
  simp only [ho, hr, Bool.false_eq_true, if_false]

theorem joinHere_arrived {s : State} {e : OvfEntry} (ho : s.mine.owning s.cur = some e) (hr : e.running = true)
    (hj : e.join.getD s.me.pc = s.me.pc) :
    s.joinHere = .ok ((s.removeEntry s.cur e).onStrand s.cur (fun y => { y.advance with mask := e.amask ||| s.me.mask })) := by
  unfold State.joinHere
  simp only [ho, hr, hj, if_true]

theorem joinHere_elsewhere {s : State} {e : OvfEntry} {j : W64} (ho : s.mine.owning s.cur = some e) (hr : e.running = true)
    (hj : e.join = some j) (hne : j ≠ s.me.pc) :
    s.joinHere = .error (.trap { cause := cJoin, detail := 0, code := 0, mask := s.me.mask, addr := j }) := by
  unfold State.joinHere
  simp only [ho, hr, hj, hne, Option.getD_some, if_true, if_false]

theorem joinHere_root {s : State} (ho : s.mine.owning s.cur = none) (hr : s.cur.sid = none) : s.joinHere = .ok s.advance := by
  unfold State.joinHere
  simp only [ho, hr]

/-- A child with a sibling that does not wait yet gives back its blocks and waits. -/
theorem joinHere_waits {s : State} {i : Nat} {k : StrandRef} (ho : s.mine.owning s.cur = none) (hi : s.cur.sid = some i)
    (hk : k ∈ s.childrenOf (s.parentOf s.cur)) (hne : k ≠ s.cur) (hw : (s.strand k).st ≠ .waiting) :
    s.joinHere = .ok ((s.giveAbove s.cur s.me.wm).onStrand s.cur (fun y =>
      { y.wordDone false with st := .waiting, jpc := s.me.pc, checked := 0 })) := by
  have hsome : ((s.childrenOf (s.parentOf s.cur)).filter (fun k => k ≠ s.cur)).all
      (fun k => decide ((s.strand k).st = .waiting)) = false := by
    rw [List.all_eq_false]
    exact ⟨k, List.mem_filter.mpr ⟨hk, by simpa using hne⟩, by simpa using hw⟩
  unfold State.joinHere
  simp only [ho, hi, hsome, Bool.false_eq_true, if_false]

/-- A sibling stands among the children of the issuing strand's parent (01 R24). -/
theorem sibling_mem_childrenOf {s : State} {k : Nat} {y : Strand} (ha : Issues s) (hs : Sibling s k y)
    (hy : SMap.get Strand.free (s.core s.mine.core).active.split k = y) :
    { s.cur with sid := some k } ∈ s.childrenOf (s.parentOf s.cur) ∧ s.strand { s.cur with sid := some k } = y := by
  obtain ⟨hmem, hlive, hteam, hstrm, hparent, -⟩ := hs
  have hstrand : s.strand { s.cur with sid := some k } = y := (strand_record (r := { s.cur with sid := some k }) ha rfl).trans hy
  refine ⟨List.mem_filter.mpr ⟨?_, ?_⟩, hstrand⟩
  · refine List.mem_append_right _ (List.mem_map.mpr ⟨(k, y), List.mem_filter.mpr ⟨?_, ?_⟩, rfl⟩)
    · exact (congrArg Bank.split (bank_of_issues ha)).symm ▸ hmem
    · simp [State.parentOf, hlive, hteam, hstrm]
  · rw [hstrand]
    exact decide_eq_true hparent

/-! END of a strand that owns an entry. -/

theorem exec_endStrand (s : State) : exec .endStrand s = .next ((State.endOf (s.endFuel s.cur.team) s s.cur).reeval s.cur.team) := rfl

theorem endOf_deferred {s : State} {e : OvfEntry} (fuel : Nat) (ho : s.mine.owning s.cur = some e) (hr : e.running = false) :
    State.endOf (fuel + 1) s s.cur = (s.onOwning s.cur (fun e => { e with running := true, amask := 0 })).switchTo s.cur e := by
  have hown : (s.team s.cur.team).owning s.cur = some e := ho
  unfold State.endOf
  simp only [hown, hr, Bool.false_eq_true, if_false]

theorem endOf_arrived {s : State} {e : OvfEntry} {j : W64} (fuel : Nat) (ho : s.mine.owning s.cur = some e) (hr : e.running = true)
    (hm : e.amask ≠ 0) (hj : e.join = some j) :
    State.endOf (fuel + 1) s s.cur
      = (s.removeEntry s.cur e).onStrand s.cur (fun x => { x.goto (j + 4) with mask := e.amask, st := .running }) := by
  have hown : (s.team s.cur.team).owning s.cur = some e := ho
  unfold State.endOf
  simp only [hown, hr, hm, hj, if_true, ne_eq, not_false_eq_true, Option.getD_some]

/-- A strand's next word does not depend on its blocks or its watermark. -/
theorem Strand.advance_blocks (x : Strand) (n w : Nat) : Strand.advance { x with cnt := n, wm := w } = { x.advance with cnt := n, wm := w } := by
  cases h : x.after <;> simp only [Strand.advance, h] <;> rfl

/-- The strand of an entry whose deferred lanes have not run yet switches onto them, its own lanes and its JOIN kept in the entry. -/
theorem ownResult_defer {s : State} {pre post : List OvfEntry} {e : OvfEntry} (ha : Issues s) (ho : Owns s pre e post)
    (f : OvfEntry → OvfEntry) (hf : (f e).owner = e.owner ∧ (f e).strm = e.strm) :
    OwnResult s ((s.onOwning s.cur f).switchTo s.cur e)
      { s.mine with pool := s.mine.pool + (s.me.cnt - e.wmark), ovf := pre ++ { f e with barr := none } :: post } s.myStream (onto s.me e) := by
  obtain ⟨hovf, hown, hstrm, hpre⟩ := ho
  have hedit := ownResult_onOwning (ownResult_start s) rfl hovf ⟨hown, hstrm⟩ hpre f
  exact ownResult_switchTo hedit ha rfl rfl ⟨hf.1.trans hown, hf.2.trans hstrm⟩ hpre e

theorem join_root {s : State} (ha : Issues s) (hno : OwnsNone s) (hr : s.cur.sid = none) :
    Gives .join s (fun t => StrandResult s t s.me.advance) :=
  ⟨s.advance, by rw [exec_join, joinHere_root (owning_none hno) hr, finish_ok], strandResult s ha Strand.advance⟩

theorem join_child_waits {s : State} {i k : Nat} {y : Strand} (ha : Issues s) (hno : OwnsNone s) (hi : s.cur.sid = some i)
    (hs : Sibling s k y) (hw : y.st ≠ .waiting) (hy : SMap.get Strand.free (s.core s.mine.core).active.split k = y) :
    Gives .join s (fun t => OwnResult s t { s.mine with pool := s.mine.pool + (s.me.cnt - s.me.wm) } s.myStream
      { s.me.wordDone false with st := .waiting, jpc := s.me.pc, checked := 0, cnt := min s.me.cnt s.me.wm }) := by
  obtain ⟨hmem, hstrand⟩ := sibling_mem_childrenOf ha hs hy
  obtain ⟨-, -, -, -, -, hother⟩ := hs
  have hne : ({ s.cur with sid := some k } : StrandRef) ≠ s.cur := fun h => hother (congrArg StrandRef.sid h).symm
  have hgive := ownResult_giveAbove (ownResult_start s) ha rfl s.me.wm
  exact ⟨_, by rw [exec_join, joinHere_waits (owning_none hno) hi hmem hne (by rw [hstrand]; exact hw), finish_ok],
    ownResult_onStrand hgive ha rfl (fun y => { y.wordDone false with st := .waiting, jpc := s.me.pc, checked := 0 })⟩

theorem join_deferred {s : State} {pre post : List OvfEntry} {e : OvfEntry} (ha : Issues s) (ho : Owns s pre e post) (hr : e.running = false) :
    Gives .join s (fun t => OwnResult s t
      { s.mine with pool := s.mine.pool + (s.me.cnt - e.wmark),
                    ovf := pre ++ { e with running := true, amask := s.me.mask, join := some s.me.pc, barr := none } :: post }
      s.myStream (onto s.me e)) :=
  ⟨_, by rw [exec_join, joinHere_deferred (owns_owning ho) hr, finish_ok], ownResult_defer ha ho _ ⟨rfl, rfl⟩⟩

theorem join_arrived {s : State} {pre post : List OvfEntry} {e : OvfEntry} (ha : Issues s) (hz : s.mine.cs.wmZero = false)
    (ho : Owns s pre e post) (hr : e.running = true) (hj : e.join = none ∨ e.join = some s.me.pc) :
    Gives .join s (fun t => OwnResult s t { s.mine with pool := s.mine.pool + (s.me.cnt - e.wmark), ovf := pre ++ post } s.myStream
      { s.me.advance with mask := e.amask ||| s.me.mask, wm := e.pwm, cnt := min s.me.cnt e.wmark }) := by
  have hpc : e.join.getD s.me.pc = s.me.pc := by rcases hj with h | h <;> rw [h] <;> rfl
  have hres := ownResult_onStrand (ownResult_removeEntry ha hz ho) ha rfl (fun y => { y.advance with mask := e.amask ||| s.me.mask })
  rw [Strand.advance_blocks] at hres
  exact ⟨_, by rw [exec_join, joinHere_arrived (owns_owning ho) hr hpc, finish_ok], hres⟩

theorem join_elsewhere {s : State} {pre post : List OvfEntry} {e : OvfEntry} {j : W64} (ho : Owns s pre e post) (hr : e.running = true)
    (hj : e.join = some j) (hne : j ≠ s.me.pc) (hu : s.untranslated s.cur = false) :
    exec .join s = .next (s.trapHere { cause := 0x11, detail := 0, code := 0, mask := s.me.mask, addr := j }) := by
  rw [exec_join, joinHere_elsewhere (owns_owning ho) hr hj hne, finish_trap hu]
  rfl

theorem end_deferred {s : State} {pre post : List OvfEntry} {e : OvfEntry} (ha : Issues s) (ho : Owns s pre e post) (hr : e.running = false) :
    ∃ u, exec .endStrand s = .next (u.reeval s.cur.team) ∧ OwnResult s u
      { s.mine with pool := s.mine.pool + (s.me.cnt - e.wmark),
                    ovf := pre ++ { e with running := true, amask := 0, barr := none } :: post } s.myStream (onto s.me e) :=
  ⟨_, by rw [exec_endStrand, State.endFuel, endOf_deferred _ (owns_owning ho) hr], ownResult_defer ha ho _ ⟨rfl, rfl⟩⟩

theorem end_arrived {s : State} {pre post : List OvfEntry} {e : OvfEntry} {j : W64} (ha : Issues s) (hz : s.mine.cs.wmZero = false)
    (ho : Owns s pre e post) (hr : e.running = true) (hm : e.amask ≠ 0) (hj : e.join = some j) :
    ∃ u, exec .endStrand s = .next (u.reeval s.cur.team) ∧ OwnResult s u
      { s.mine with pool := s.mine.pool + (s.me.cnt - e.wmark), ovf := pre ++ post } s.myStream
      { s.me.goto (j + 4) with mask := e.amask, st := .running, wm := e.pwm, cnt := min s.me.cnt e.wmark } :=
  ⟨_, by rw [exec_endStrand, State.endFuel, endOf_arrived _ (owns_owning ho) hr hm hj],
    ownResult_onStrand (ownResult_removeEntry ha hz ho) ha rfl (fun x => { x.goto (j + 4) with mask := e.amask, st := .running })⟩

/-- Settles O20: each case of JOIN and END is the equation of its branch, then the rules for blocks, entries and strands in turn. -/
theorem joinsAndEnds : Obligations.JoinsAndEnds := by
  intro s ha hz
  refine ⟨fun hno => ⟨join_root ha hno, fun i k y hi hs hw hy => join_child_waits ha hno hi hs hw hy⟩, fun pre e post ho => ⟨?_, ?_, ?_, ?_⟩⟩
  · exact fun hr => ⟨join_deferred ha ho hr, end_deferred ha ho hr⟩
  · exact join_arrived ha hz ho
  · exact fun j hr hj hne hu => join_elsewhere ho hr hj hne hu
  · exact fun j hr hm hj => end_arrived ha hz ho hr hm hj

end Sys2Proof.Machine
end

section
/-! Register blocks: the free blocks and the requests of a bank, what a claim clears, and what an answer does to its strand (04 R86 to R92). -/

namespace Sys2Proof.Machine

open Claims

/-! The free blocks and the requests of the issuing team's bank. -/

/-- A change of a core that keeps its split tables, and with them every strand. -/
def KeepsSplits (f : Core → Core) : Prop := ∀ k, (f k).active.split = k.active.split ∧ (f k).shadow.split = k.shadow.split

theorem bank_split_onCore (s : State) (c : Nat) {f : Core → Core} (hf : KeepsSplits f) (u : Nat) :
    ((s.onCore c f).bank u).split = (s.bank u).split := by
  have hcore (k : Nat) : ((s.onCore c f).core k).active.split = (s.core k).active.split
      ∧ ((s.onCore c f).core k).shadow.split = (s.core k).shadow.split := by
    rw [State.core_onCore]
    split
    · exact hf _
    · exact ⟨rfl, rfl⟩
  unfold State.bank
  simp only [State.team_onCore, State.ctx_onCore]
  cases (s.team u).held with
  | active => exact (hcore _).1
  | shadow => exact (hcore _).2
  | saved => rfl

theorem strand_onCore (s : State) (c : Nat) {f : Core → Core} (hf : KeepsSplits f) (r : StrandRef) :
    (s.onCore c f).strand r = s.strand r := by
  unfold State.strand
  cases r.sid with
  | none => rfl
  | some i => simp only [bank_split_onCore s c hf]

theorem keepsSplits_withBank (pool : Nat) (reqs : List RegReq) :
    KeepsSplits (fun c => { c with active := { c.active with pool := pool, reqs := reqs } }) := fun _ => ⟨rfl, rfl⟩

theorem strand_withBank (s : State) (pool : Nat) (reqs : List RegReq) (r : StrandRef) : (withBank s pool reqs).strand r = s.strand r :=
  strand_onCore s _ (keepsSplits_withBank pool reqs) r

theorem core_withBank (s : State) (pool : Nat) (reqs : List RegReq) (c : Nat) : (withBank s pool reqs).core c =
    if c = s.mine.core then { s.core c with active := { (s.core c).active with pool := pool, reqs := reqs } } else s.core c :=
  State.core_onCore s _ c _

theorem setBank_eq_withBank {s : State} (ha : Issues s) (pool : Nat) (reqs : List RegReq) :
    s.setBank s.cur.team { s.bank s.cur.team with pool := pool, reqs := reqs } = withBank s pool reqs := by
  rw [bank_of_issues ha]
  unfold State.setBank
  rw [show (s.team s.cur.team).held = .active from ha]
  rfl

/-- A later write of the pool and the requests of the same bank replaces an earlier one. -/
theorem core_withBank_withBank (s : State) (pool pool' : Nat) (reqs reqs' : List RegReq) (c : Nat) :
    (withBank (withBank s pool reqs) pool' reqs').core c = (withBank s pool' reqs').core c := by
  rw [core_withBank, core_withBank, core_withBank]
  show (if c = s.mine.core then _ else _) = _
  split <;> rfl

theorem ownResult_withBank_withBank {s t : State} {T : Team} {m : Stream} {x : Strand} {pool pool' : Nat} {reqs reqs' : List RegReq}
    (h : OwnResult (withBank (withBank s pool reqs) pool' reqs') t T m x) : OwnResult (withBank s pool' reqs') t T m x := by
  refine ⟨h.team, h.stream, h.strand, ⟨h.rest.rest, h.rest.teams, fun c => ?_, h.rest.other, h.rest.root⟩⟩
  have hc := h.rest.cores c
  rw [core_withBank_withBank] at hc
  exact hc

/-- A change of the free blocks and the requests of the issuing team's bank, seen from a state with the same change. -/
theorem ownResult_setBank {s t : State} {T : Team} {m : Stream} {x : Strand} (h : OwnResult s t T m x) (hT : T.held = .active)
    (hc : T.core = s.mine.core) (pool : Nat) (reqs : List RegReq) :
    OwnResult (withBank s pool reqs) (t.setBank s.cur.team { t.bank s.cur.team with pool := pool, reqs := reqs }) T m x := by
  have hcur := onlyMine_cur h.rest
  have hcore : t.mine.core = s.mine.core := by rw [h.team]; exact hc
  have heq := setBank_eq_withBank (ownResult_issues h hT) pool reqs
  rw [hcur] at heq
  rw [heq]
  refine ⟨h.team, h.stream, ?_, ⟨?_, h.rest.teams, fun c => ?_, h.rest.other, h.rest.root⟩⟩
  · exact (strand_withBank t pool reqs _).trans h.strand
  · have hrest : ∀ z, { t with cores := z } = { s with teams := t.teams, cores := z } := fun z => by
      have := h.rest.rest
      generalize t.teams = y at this ⊢
      rw [this]
    exact hrest _
  · rw [core_withBank, core_withBank, hcore]
    by_cases hk : c = s.mine.core
    · rw [if_pos hk, if_pos hk]
      rcases h.rest.cores c with hsame | ⟨hk', i, z, hi, hz, hj⟩
      · exact .inl (by rw [hsame])
      · exact .inr ⟨hk', i, z, hi, by rw [hz], hj⟩
    · rw [if_neg hk, if_neg hk]
      exact (h.rest.cores c).imp_right (fun hr => absurd hr.1 hk)

/-- The issuing state with another free pool and other requests in its bank. -/
theorem ownResult_bank {s : State} (ha : Issues s) (pool : Nat) (reqs : List RegReq) :
    OwnResult (withBank s pool reqs) (withBank s pool reqs) s.mine s.myStream s.me := by
  have h := ownResult_setBank (ownResult_start s) ha rfl pool reqs
  rwa [setBank_eq_withBank ha] at h

/-! What an answer, an acquisition and a wait do. -/

theorem local_setPred (p : BitVec 3) (m v : Mask) : Local (fun U => U.setPred p m v) where
  streams U c a := by
    unfold Team.setPred
    split <;> rfl
  held U := by rw [Team.setPred_eq]
  core U := by rw [Team.setPred_eq]
  ctx U := by rw [Team.setPred_eq]

/-- GRANT and DENY: pd in the lanes of the strand's mask, and the strand goes on (04 R91). -/
theorem ownResult_answer {s t : State} {T : Team} {m : Stream} {x : Strand} (h : OwnResult s t T m x) (hT : T.held = .active)
    (hc : T.core = s.mine.core) (p : BitVec 3) (v : Bool) :
    OwnResult s (t.answer s.cur p v) (T.setPred p x.mask (if v then x.mask else 0)) m (answered s x) := by
  have hl := local_setPred p x.mask (if v then x.mask else 0)
  have hpred := ownResult_onTeam h hc hl
  rw [State.onMine, onlyMine_cur h.rest] at hpred
  have hT' := (hl.held T).trans hT
  have hc' := (hl.core T).trans hc
  have hgone := ownResult_onStrand (ownResult_onStrand hpred hT' hc' Strand.advance) hT' hc'
    (fun y => { y with st := .running, wait := .nothing, readyAt := s.clock, urgent := false })
  have hclock : t.clock = s.clock := by rw [h.rest.rest]
  unfold State.answer State.wake
  simp only [ownResult_strand h, State.onStrand_clock, State.onTeam_clock, hclock]
  exact hgone

theorem ownResult_acquire {s : State} (ha : Issues s) (n : Nat) :
    OwnResult (withBank s ((s.core s.mine.core).active.pool - n * s.mine.ngroups) (s.core s.mine.core).active.reqs) (s.acquire s.cur.team n)
      { s.mine with heldBlocks := s.mine.heldBlocks + n, pool := s.mine.pool + n } s.myStream s.me := by
  have hbank := ownResult_setBank (ownResult_start s) ha rfl ((s.core s.mine.core).active.pool - n * s.mine.ngroups)
    (s.core s.mine.core).active.reqs
  have hteam := ownResult_onTeam hbank rfl (g := fun U => { U with heldBlocks := U.heldBlocks + n, pool := U.pool + n })
    ⟨fun _ _ _ => rfl, fun _ => rfl, fun _ => rfl, fun _ => rfl⟩
  rw [State.onMine, State.setBank_cur] at hteam
  unfold State.acquire
  rw [bank_of_issues ha] at hteam ⊢
  exact hteam

theorem ownResult_await {s : State} (ha : Issues s) {q : RegReq} (hq : q.r = s.cur) :
    OwnResult (withBank s (s.core s.mine.core).active.pool ((s.core s.mine.core).active.reqs ++ [q])) (s.await q)
      s.mine s.myStream { s.me with st := .blocked, wait := .register } := by
  have hbank := ownResult_setBank (ownResult_start s) ha rfl (s.core s.mine.core).active.pool ((s.core s.mine.core).active.reqs ++ [q])
  have hwait := ownResult_onStrand hbank ha rfl (fun y => { y with st := .blocked, wait := .register })
  unfold State.await
  rw [hq]
  rw [bank_of_issues ha] at hwait ⊢
  exact hwait

/-! What a claim clears. -/

/-- One register as a claim empties it: 0 in every lane of a mask, with tag RAW in its groups. -/
def Team.clearReg (m : Mask) (T : Team) (v : Nat) : Team := T.putVec v m (fun _ => tRaw) ((T.lanesOf m).map (fun l => (l, 0)))

/-- The registers that a claim empties, one after another: the fold in `State.claim`. -/
def Team.clearRegs (m : Mask) (T : Team) (regs : List Nat) : Team := regs.foldl (Team.clearReg m) T

theorem claim_eq (s : State) (r : StrandRef) (n : Nat) : s.claim r n =
    (s.onTeam r.team (fun T => { T.clearRegs (s.claimed r) ((s.strand r).nextRegs n) with pool := T.pool - n })).onStrand r
      (fun x => { x with cnt := x.cnt + n }) := rfl

theorem Team.clearReg_eq (m : Mask) (T : Team) (v : Nat) :
    T.clearReg m v = { T with vregs := (T.clearReg m v).vregs, vtags := (T.clearReg m v).vtags, accs := (T.clearReg m v).accs } := by
  unfold Team.clearReg Team.putVec
  rw [Team.putLanes_eq, (Team.passes_eq T v (T.groupsOf m) (fun _ => tRaw)).1]

theorem Team.clearRegs_eq (m : Mask) (T : Team) (regs : List Nat) :
    T.clearRegs m regs = { T with vregs := (T.clearRegs m regs).vregs, vtags := (T.clearRegs m regs).vtags, accs := (T.clearRegs m regs).accs } := by
  unfold Team.clearRegs
  induction regs generalizing T with
  | nil => rfl
  | cons v rest ih => rw [List.foldl_cons, ih, Team.clearReg_eq]

theorem local_foldl {α : Type} {f : Team → α → Team} (hf : ∀ a, Local (f · a)) (as : List α) : Local (fun U => as.foldl f U) := by
  induction as with
  | nil => exact ⟨fun _ _ _ => rfl, fun _ => rfl, fun _ => rfl, fun _ => rfl⟩
  | cons a rest ih =>
    refine ⟨fun U c b => ?_, fun U => (ih.held _).trans ((hf a).held U), fun U => (ih.core _).trans ((hf a).core U),
      fun U => (ih.ctx _).trans ((hf a).ctx U)⟩
    have hstep := (hf a).streams U c b
    simp only [List.foldl_cons]
    rw [hstep]
    exact ih.streams _ _ _

theorem Team.tagPass_mate {T : Team} {r g : Nat} (t : BitVec 4) (h : T.vtag (partner r) g = tRef) : T.tagPass r g t =
    (Team.setVtag { T with accs := T.accs.map (fun a => a.strike r g) } (partner r) g tRaw).setVtag r g t :=
  congrArg (Team.setVtag · r g t) (if_pos h)

theorem Team.tagPass_alone {T : Team} {r g : Nat} (t : BitVec 4) (h : T.vtag (partner r) g ≠ tRef) : T.tagPass r g t =
    Team.setVtag { T with accs := T.accs.map (fun a => a.strike r g) } r g t :=
  congrArg (Team.setVtag · r g t) (if_neg h)

theorem local_tagPass (r g : Nat) (t : BitVec 4) : Local (fun U => U.tagPass r g t) where
  streams U c a := by
    by_cases hmate : U.vtag (partner r) g = tRef
    · rw [Team.tagPass_mate t hmate, Team.tagPass_mate (T := { U with cs := c, as := a }) t hmate]
      rfl
    · rw [Team.tagPass_alone t hmate, Team.tagPass_alone (T := { U with cs := c, as := a }) t hmate]
      rfl
  held U := by rw [Team.tagPass_eq]
  core U := by rw [Team.tagPass_eq]
  ctx U := by rw [Team.tagPass_eq]

theorem local_putLanes (r : Nat) (vals : List (Nat × W32)) : Local (fun U => U.putLanes r vals) :=
  local_foldl (f := fun (U : Team) (p : Nat × W32) => U.setVr r p.1 p.2) (fun _ => ⟨fun _ _ _ => rfl, fun _ => rfl, fun _ => rfl, fun _ => rfl⟩) vals

theorem local_clearReg (m : Mask) (v : Nat) : Local (fun U => U.clearReg m v) where
  streams U c a := by
    have hpass := (local_foldl (fun g => local_tagPass v g tRaw) (U.groupsOf m)).streams U c a
    have hlanes := (local_putLanes v ((U.lanesOf m).map (fun l => (l, 0)))).streams
      ((U.groupsOf m).foldl (fun V g => V.tagPass v g tRaw) U) c a
    exact (congrArg (Team.putLanes · v ((U.lanesOf m).map (fun l => (l, 0)))) hpass).trans hlanes
  held U := by rw [Team.clearReg_eq]
  core U := by rw [Team.clearReg_eq]
  ctx U := by rw [Team.clearReg_eq]

theorem local_clearRegs (m : Mask) (regs : List Nat) : Local (fun U => U.clearRegs m regs) := local_foldl (local_clearReg m) regs

theorem Team.vr_clearReg (m : Mask) (T : Team) (v r l : Nat) (hl : l < 1024) :
    (T.clearReg m v).vr r l = if r = v ∧ l ∈ T.lanesOf m then 0 else T.vr r l := by
  unfold Team.clearReg Team.putVec
  rw [Team.vr_putLanes _ v _ (fun _ => 0) (fun k hk => lane_lt ((Team.mem_lanesOf _ _ _).mp hk).2) _ _ hl,
    (Team.passes_eq T v (T.groupsOf m) (fun _ => tRaw)).1]
  rfl

theorem Team.vr_clearRegs (m : Mask) (T : Team) (regs : List Nat) (r l : Nat) (hl : l < 1024) :
    (T.clearRegs m regs).vr r l = if l ∈ T.lanesOf m ∧ r ∈ regs then 0 else T.vr r l := by
  unfold Team.clearRegs
  induction regs generalizing T with
  | nil => simp
  | cons v rest ih =>
    have hlanes : (T.clearReg m v).lanesOf m = T.lanesOf m := by rw [Team.clearReg_eq]; rfl
    rw [List.foldl_cons, ih, hlanes, Team.vr_clearReg _ _ _ _ _ hl]
    by_cases hm : l ∈ T.lanesOf m <;> by_cases hv : r = v <;> simp [hm, hv]

theorem partner_partner (r : Nat) : partner (partner r) = r := by
  unfold partner
  split <;> split <;> omega

theorem Team.vtag_clearReg (m : Mask) (T : Team) (v r g : Nat) (hg : g < 64) :
    (T.clearReg m v).vtag r g = if g ∈ T.groupsOf m ∧ (r = v ∨ r = partner v ∧ T.vtag r g = tRef) then tRaw else T.vtag r g := by
  unfold Team.clearReg Team.putVec
  rw [Team.putLanes_eq]
  show (List.foldl (fun T g => T.tagPass v g tRaw) T (T.groupsOf m)).vtag r g = _
  rw [Team.vtag_passes T v _ (fun _ => tRaw) (fun k hk => group_lt hk) _ _ hg]
  by_cases hm : g ∈ T.groupsOf m <;> by_cases hv : r = v <;> simp [hm, hv]

/-- A register of a claim, or a partner of one that holds REF, has tag RAW in the groups of the claim. -/
theorem Team.vtag_clearRegs (m : Mask) (T : Team) (regs : List Nat) (r g : Nat) (hg : g < 64) :
    (T.clearRegs m regs).vtag r g =
      if g ∈ T.groupsOf m ∧ (r ∈ regs ∨ partner r ∈ regs ∧ T.vtag r g = tRef) then tRaw else T.vtag r g := by
  unfold Team.clearRegs
  induction regs generalizing T with
  | nil => simp
  | cons v rest ih =>
    have hgroups : (T.clearReg m v).groupsOf m = T.groupsOf m := by rw [Team.clearReg_eq]; rfl
    have hmate : r = partner v ↔ partner r = v := by
      constructor <;> rintro rfl
      · exact partner_partner v
      · exact (partner_partner r).symm
    rw [List.foldl_cons, ih, hgroups, Team.vtag_clearReg _ _ _ _ _ hg]
    simp only [hmate]
    by_cases hm : g ∈ T.groupsOf m
    · by_cases hv : r = v
      · simp [hm, hv]
      · by_cases hp : partner r = v <;> by_cases ht : T.vtag r g = tRef <;> simp [hm, hv, hp, ht]
    · simp [hm]

theorem mem_nextRegs (x : Strand) (n r : Nat) : r ∈ x.nextRegs n ↔ 32 + 8 * x.cnt ≤ r ∧ r < 32 + 8 * (x.cnt + n) := by
  unfold Strand.nextRegs
  rw [List.mem_map]
  constructor
  · rintro ⟨i, hi, rfl⟩
    have := List.mem_range.mp hi
    omega
  · intro h
    exact ⟨r - (32 + 8 * x.cnt), List.mem_range.mpr (by omega), by omega⟩

/-- Blocks are whole pairs of registers. -/
theorem partner_mem_nextRegs (x : Strand) (n r : Nat) : partner r ∈ x.nextRegs n ↔ r ∈ x.nextRegs n := by
  rw [mem_nextRegs, mem_nextRegs]
  unfold partner
  split <;> omega

theorem ownResult_claim {s t : State} {T : Team} {m : Stream} {x : Strand} (h : OwnResult s t T m x) (hT : T.held = .active)
    (hc : T.core = s.mine.core) (n : Nat) :
    OwnResult s (t.claim s.cur n) { T.clearRegs (t.claimed s.cur) (x.nextRegs n) with pool := T.pool - n } m { x with cnt := x.cnt + n } := by
  have hclear := local_clearRegs (t.claimed s.cur) (x.nextRegs n)
  have hl : Local (fun U => { U.clearRegs (t.claimed s.cur) (x.nextRegs n) with pool := U.pool - n }) := by
    refine ⟨fun U c a => ?_, hclear.held, hclear.core, hclear.ctx⟩
    rw [show Team.clearRegs _ { U with cs := c, as := a } _ = _ from hclear.streams U c a]
  have hteam := ownResult_onTeam h hc hl
  rw [State.onMine, onlyMine_cur h.rest] at hteam
  rw [claim_eq, ownResult_strand h]
  exact ownResult_onStrand hteam ((hl.held T).trans hT) ((hl.core T).trans hc) (fun y => { y with cnt := y.cnt + n })

theorem claimed_withBank (s : State) (pool : Nat) (reqs : List RegReq) (r : StrandRef) : (withBank s pool reqs).claimed r = s.claimed r := by
  have hstrands (x : StreamId) : (withBank s pool reqs).strandsOf r.team x = s.strandsOf r.team x := by
    have hsplit : ((withBank s pool reqs).bank r.team).split = (s.bank r.team).split :=
      bank_split_onCore s _ (keepsSplits_withBank pool reqs) _
    unfold State.strandsOf
    rw [hsplit]
    rfl
  unfold State.claimed
  simp only [hstrands, strand_withBank]
  rfl

end Sys2Proof.Machine
end

section
/-! REGACQ, REGREL, REGGIVE and REGCLAIM: granted, denied, or waiting (04 R89, R91). -/

namespace Sys2Proof.Machine

open Claims

section
variable {s : State} {p : BitVec 3} {n : BitVec 4}

theorem exec_regacq (hp : PredsReady s [p]) : exec (.regacq p n) s = finish s
    (if 768 < (s.mine.heldBlocks + n.toNat) * s.mine.ngroups then .ok (s.answer s.cur p false)
     else if (s.bank s.cur.team).reqs.all (fun q => q.claim) && s.acqFits { r := s.cur, claim := false, pd := p, n := n.toNat } then
       .ok ((s.acquire s.cur.team n.toNat).answer s.cur p true)
     else .ok (s.await { r := s.cur, claim := false, pd := p, n := n.toNat })) := by
  show execRegacq p n s = _
  unfold execRegacq
  rw [needPreds_ok hp]
  rfl

theorem exec_regrel (hp : PredsReady s [p]) : exec (.regrel p n) s = finish s
    (if s.mine.pool < n.toNat then .ok (s.answer s.cur p false)
     else
       let s1 := s.onMine (fun T => { T with pool := T.pool - n.toNat, heldBlocks := T.heldBlocks - n.toNat })
       .ok ((s1.setBank s.cur.team { s1.bank s.cur.team with pool := (s1.bank s.cur.team).pool + n.toNat * s.mine.ngroups }).answer
         s.cur p true)) := by
  show execRegrel p n s = _
  unfold execRegrel
  rw [needPreds_ok hp]
  rfl

theorem exec_reggive (hp : PredsReady s [p]) : exec (.reggive p n) s = finish s
    (if s.me.cnt - s.me.wm < n.toNat then .ok (s.answer s.cur p false)
     else .ok (((s.onStrand s.cur (fun x => { x with cnt := x.cnt - n.toNat })).onMine (fun T => { T with pool := T.pool + n.toNat })).answer
       s.cur p true)) := by
  show execReggive p n s = _
  unfold execReggive
  rw [needPreds_ok hp]
  rfl

theorem exec_regclaim (hp : PredsReady s [p]) : exec (.regclaim p n) s = finish s
    (if 11 < s.me.cnt + n.toNat then .ok (s.answer s.cur p false)
     else if (s.bank s.cur.team).reqs.all (fun q => !(q.claim && q.r.team == s.cur.team))
         && s.claimFits { r := s.cur, claim := true, pd := p, n := n.toNat } then do
       require (s.claimClear s.cur n.toNat) .stall
       .ok ((s.claim s.cur n.toNat).answer s.cur p true)
     else .ok (s.await { r := s.cur, claim := true, pd := p, n := n.toNat })) := by
  show execRegclaim p n s = _
  unfold execRegclaim
  rw [needPreds_ok hp]
  rfl

theorem acqFits_iff (ha : Issues s) {q : RegReq} (hq : q.r = s.cur) :
    s.acqFits q = true ↔ q.n * s.mine.ngroups ≤ (s.core s.mine.core).active.pool := by
  unfold State.acqFits
  rw [hq, bank_of_issues ha, decide_eq_true_iff]
  rfl

/-- No REGACQ waits in the bank (04 R89). -/
theorem noAcquire_iff (ha : Issues s) :
    (s.bank s.cur.team).reqs.all (fun q => q.claim) = true ↔ ∀ q ∈ (s.core s.mine.core).active.reqs, q.claim = true := by
  rw [bank_of_issues ha, List.all_eq_true]

/-- No REGCLAIM of the issuing team waits in the bank (04 R89). -/
theorem noClaim_iff (ha : Issues s) :
    (s.bank s.cur.team).reqs.all (fun q => !(q.claim && q.r.team == s.cur.team)) = true ↔
      ∀ q ∈ (s.core s.mine.core).active.reqs, ¬ (q.claim = true ∧ q.r.team = s.cur.team) := by
  rw [bank_of_issues ha, List.all_eq_true]
  refine forall₂_congr fun q _ => ?_
  cases q.claim <;> simp

/-! REGACQ -/

theorem regacq_denied (ha : Issues s) (hp : PredsReady s [p]) (hmany : 768 < (s.mine.heldBlocks + n.toNat) * s.mine.ngroups) :
    Gives (.regacq p n) s (fun t => OwnResult s t (s.mine.setPred p s.me.mask 0) s.myStream (answered s s.me)) :=
  ⟨_, by rw [exec_regacq hp, if_pos hmany, finish_ok], ownResult_answer (ownResult_start s) ha rfl p false⟩

theorem regacq_granted (ha : Issues s) (hp : PredsReady s [p]) (hfew : (s.mine.heldBlocks + n.toNat) * s.mine.ngroups ≤ 768)
    (hfirst : ∀ q ∈ (s.core s.mine.core).active.reqs, q.claim = true) (hfits : n.toNat * s.mine.ngroups ≤ (s.core s.mine.core).active.pool) :
    Gives (.regacq p n) s (fun t =>
      OwnResult (withBank s ((s.core s.mine.core).active.pool - n.toNat * s.mine.ngroups) (s.core s.mine.core).active.reqs) t
        (Team.setPred { s.mine with heldBlocks := s.mine.heldBlocks + n.toNat, pool := s.mine.pool + n.toNat } p s.me.mask s.me.mask)
        s.myStream (answered s s.me)) := by
  refine ⟨_, ?_, ownResult_answer (ownResult_acquire ha n.toNat) ha rfl p true⟩
  rw [exec_regacq hp, if_neg (Nat.not_lt.mpr hfew), (noAcquire_iff ha).mpr hfirst, (acqFits_iff ha rfl).mpr hfits]
  rfl

theorem regacq_waits (ha : Issues s) (hp : PredsReady s [p]) (hfew : (s.mine.heldBlocks + n.toNat) * s.mine.ngroups ≤ 768)
    (hnot : (∃ q ∈ (s.core s.mine.core).active.reqs, q.claim = false) ∨ (s.core s.mine.core).active.pool < n.toNat * s.mine.ngroups) :
    Gives (.regacq p n) s (fun t => OwnResult (withBank s (s.core s.mine.core).active.pool
        ((s.core s.mine.core).active.reqs ++ [{ r := s.cur, claim := false, pd := p, n := n.toNat }])) t
      s.mine s.myStream { s.me with st := .blocked, wait := .register }) := by
  refine ⟨_, ?_, ownResult_await ha rfl⟩
  rw [exec_regacq hp, if_neg (Nat.not_lt.mpr hfew), if_neg, finish_ok]
  rw [Bool.and_eq_true, noAcquire_iff ha, acqFits_iff ha rfl]
  rintro ⟨hall, hfits⟩
  rcases hnot with ⟨q, hq, hno⟩ | hshort
  · rw [hall q hq] at hno; exact absurd hno (by decide)
  · exact absurd hfits (Nat.not_le.mpr hshort)

/-! REGREL -/

theorem regrel_denied (ha : Issues s) (hp : PredsReady s [p]) (hshort : s.mine.pool < n.toNat) :
    Gives (.regrel p n) s (fun t => OwnResult s t (s.mine.setPred p s.me.mask 0) s.myStream (answered s s.me)) :=
  ⟨_, by rw [exec_regrel hp, if_pos hshort, finish_ok], ownResult_answer (ownResult_start s) ha rfl p false⟩

theorem regrel_granted (ha : Issues s) (hp : PredsReady s [p]) (hfits : n.toNat ≤ s.mine.pool) :
    Gives (.regrel p n) s (fun t =>
      OwnResult (withBank s ((s.core s.mine.core).active.pool + n.toNat * s.mine.ngroups) (s.core s.mine.core).active.reqs) t
        (Team.setPred { s.mine with pool := s.mine.pool - n.toNat, heldBlocks := s.mine.heldBlocks - n.toNat } p s.me.mask s.me.mask)
        s.myStream (answered s s.me)) := by
  have hteam := ownResult_onTeam (ownResult_start s) rfl (g := fun U => { U with pool := U.pool - n.toNat, heldBlocks := U.heldBlocks - n.toNat })
    ⟨fun _ _ _ => rfl, fun _ => rfl, fun _ => rfl, fun _ => rfl⟩
  have hbank := ownResult_setBank hteam ha rfl ((s.core s.mine.core).active.pool + n.toNat * s.mine.ngroups) (s.core s.mine.core).active.reqs
  have hsame : (s.onMine (fun U => { U with pool := U.pool - n.toNat, heldBlocks := U.heldBlocks - n.toNat })).bank s.cur.team
      = (s.core s.mine.core).active := by
    rw [← State.onMine_cur s, bank_of_issues (ownResult_issues hteam ha), State.mine_onMine]
    rfl
  refine ⟨_, ?_, ownResult_answer hbank ha rfl p true⟩
  rw [exec_regrel hp, if_neg (Nat.not_lt.mpr hfits)]
  simp only [hsame, finish_ok]
  rfl

/-! REGGIVE -/

theorem reggive_denied (ha : Issues s) (hp : PredsReady s [p]) (hshort : s.me.cnt - s.me.wm < n.toNat) :
    Gives (.reggive p n) s (fun t => OwnResult s t (s.mine.setPred p s.me.mask 0) s.myStream (answered s s.me)) :=
  ⟨_, by rw [exec_reggive hp, if_pos hshort, finish_ok], ownResult_answer (ownResult_start s) ha rfl p false⟩

theorem reggive_granted (ha : Issues s) (hp : PredsReady s [p]) (hfits : n.toNat ≤ s.me.cnt - s.me.wm) :
    Gives (.reggive p n) s (fun t => OwnResult s t (Team.setPred { s.mine with pool := s.mine.pool + n.toNat } p s.me.mask s.me.mask)
      s.myStream (answered s { s.me with cnt := s.me.cnt - n.toNat })) := by
  have hcnt := ownResult_onStrand (ownResult_start s) ha rfl (fun x => { x with cnt := x.cnt - n.toNat })
  have hpool := ownResult_onTeam hcnt rfl (g := fun U => { U with pool := U.pool + n.toNat })
    ⟨fun _ _ _ => rfl, fun _ => rfl, fun _ => rfl, fun _ => rfl⟩
  exact ⟨_, by rw [exec_reggive hp, if_neg (Nat.not_lt.mpr hfits), finish_ok], ownResult_answer hpool ha rfl p true⟩

/-! REGCLAIM -/

theorem regclaim_denied (ha : Issues s) (hp : PredsReady s [p]) (hmany : 11 < s.me.cnt + n.toNat) :
    Gives (.regclaim p n) s (fun t => OwnResult s t (s.mine.setPred p s.me.mask 0) s.myStream (answered s s.me)) :=
  ⟨_, by rw [exec_regclaim hp, if_pos hmany, finish_ok], ownResult_answer (ownResult_start s) ha rfl p false⟩

theorem regclaim_waits (ha : Issues s) (hp : PredsReady s [p]) (hfew : s.me.cnt + n.toNat ≤ 11)
    (hnot : (∃ q ∈ (s.core s.mine.core).active.reqs, q.claim = true ∧ q.r.team = s.cur.team) ∨ s.mine.pool < n.toNat) :
    Gives (.regclaim p n) s (fun t => OwnResult (withBank s (s.core s.mine.core).active.pool
        ((s.core s.mine.core).active.reqs ++ [{ r := s.cur, claim := true, pd := p, n := n.toNat }])) t
      s.mine s.myStream { s.me with st := .blocked, wait := .register }) := by
  refine ⟨_, ?_, ownResult_await ha rfl⟩
  rw [exec_regclaim hp, if_neg (Nat.not_lt.mpr hfew), if_neg, finish_ok]
  rw [Bool.and_eq_true, noClaim_iff ha]
  rintro ⟨hnone, hfits⟩
  rcases hnot with ⟨q, hq, hmine⟩ | hshort
  · exact hnone q hq hmine
  · exact absurd (of_decide_eq_true hfits) (Nat.not_le.mpr hshort)

theorem regclaim_granted (ha : Issues s) (hp : PredsReady s [p]) (hfew : s.me.cnt + n.toNat ≤ 11)
    (hfirst : ∀ q ∈ (s.core s.mine.core).active.reqs, ¬ (q.claim = true ∧ q.r.team = s.cur.team)) (hfits : n.toNat ≤ s.mine.pool)
    (hclear : s.claimClear s.cur n.toNat = true) :
    Gives (.regclaim p n) s (fun t => OwnResult s t
      (Team.setPred { s.mine.clearRegs (s.claimed s.cur) (s.me.nextRegs n.toNat) with pool := s.mine.pool - n.toNat } p s.me.mask s.me.mask)
      s.myStream (answered s { s.me with cnt := s.me.cnt + n.toNat })) := by
  have hkept := local_clearRegs (s.claimed s.cur) (s.me.nextRegs n.toNat)
  have hclaim := ownResult_claim (ownResult_start s) ha rfl n.toNat
  refine ⟨_, ?_, ownResult_answer hclaim ((hkept.held s.mine).trans ha) (hkept.core s.mine) p true⟩
  have hroom : s.claimFits { r := s.cur, claim := true, pd := p, n := n.toNat } = true := decide_eq_true hfits
  rw [exec_regclaim hp, if_neg (Nat.not_lt.mpr hfew), (noClaim_iff ha).mpr hfirst, hroom, require_true _ _ hclear]
  rfl

end

/-- Settles O23: each word takes one branch, and its answer is the rule of the bank, of the team and of the strand in turn; a claim's registers
are emptied one after another, and blocks are whole pairs, so that no register beside them is touched. -/
theorem registerBlocks : Obligations.RegisterBlocks := by
  intro s p n ha hp
  refine ⟨regacq_denied ha hp, regacq_granted ha hp, regacq_waits ha hp, regrel_denied ha hp, regrel_granted ha hp, reggive_denied ha hp,
    reggive_granted ha hp, regclaim_denied ha hp, regclaim_waits ha hp, fun hfew hfirst hfits hclear =>
    ⟨_, regclaim_granted ha hp hfew hfirst hfits hclear, fun r l hl => ?_, fun r g hg => ?_, Team.clearRegs_eq _ _ _⟩⟩
  · simp only [Team.vr_clearRegs _ _ _ _ _ hl, mem_nextRegs]
  · simp only [Team.vtag_clearRegs _ _ _ _ _ hg, partner_mem_nextRegs]
    simp only [mem_nextRegs]
    refine ⟨fun hin => if_pos ⟨hin.1, .inl hin.2⟩, fun hout => if_neg ?_⟩
    rintro ⟨hgroup, hr | ⟨hr, -⟩⟩ <;> exact hout ⟨hgroup, hr⟩

end Sys2Proof.Machine
end

section
/-! A waiting register request is granted later, or denied: what answers it does not depend on which strand issues (04 R89 to R92). -/

namespace Sys2Proof.Machine

open Claims

/-! The operations on a request leave aside which strand issues. -/

/-- The same machine with another strand issuing. -/
def State.withCur (s : State) (r : StrandRef) : State := { s with cur := r }

section
variable (s : State) (c : StrandRef)

theorem setBank_withCur (t : Nat) (b : Bank) : (s.withCur c).setBank t b = (s.setBank t b).withCur c := by
  unfold State.setBank
  rw [show (s.withCur c).team t = s.team t from rfl]
  cases (s.team t).held <;> rfl

theorem setStrand_withCur (r : StrandRef) (x : Strand) : (s.withCur c).setStrand r x = (s.setStrand r x).withCur c := by
  unfold State.setStrand
  cases r.sid with
  | none => rfl
  | some i => exact setBank_withCur s c _ _

theorem onStrand_withCur (r : StrandRef) (f : Strand → Strand) : (s.withCur c).onStrand r f = (s.onStrand r f).withCur c :=
  setStrand_withCur s c r _

theorem onCore_withCur (k : Nat) (f : Core → Core) : (s.withCur c).onCore k f = (s.onCore k f).withCur c := rfl

theorem dropReq_withCur (q : RegReq) : (s.withCur c).dropReq q = (s.dropReq q).withCur c := setBank_withCur s c _ _

theorem acquire_withCur (t n : Nat) : (s.withCur c).acquire t n = (s.acquire t n).withCur c :=
  congrArg (State.onTeam · t (fun T => { T with heldBlocks := T.heldBlocks + n, pool := T.pool + n })) (setBank_withCur s c t _)

theorem claim_withCur (r : StrandRef) (n : Nat) : (s.withCur c).claim r n = (s.claim r n).withCur c := by
  rw [claim_eq, claim_eq, ← onStrand_withCur]
  rfl

theorem answer_withCur (r : StrandRef) (p : BitVec 3) (v : Bool) : (s.withCur c).answer r p v = (s.answer r p v).withCur c := by
  have hgone := onStrand_withCur (s.onTeam r.team (fun T => T.setPred p (s.strand r).mask (if v then (s.strand r).mask else 0))) c r Strand.advance
  unfold State.answer
  exact (congrArg (State.wake · r) hgone).trans (onStrand_withCur _ c r _)

end

/-! Which request a grant finds. -/

theorem find_request {reqs pre post : List RegReq} {q : RegReq} {ok : RegReq → Bool} (h : reqs = pre ++ q :: post) (hq : ok q = true)
    (hpre : ∀ o ∈ pre, ok o = false) : reqs.find? ok = some q := by
  rw [h, List.find?_append, List.find?_eq_none.mpr (fun o ho => by simp [hpre o ho])]
  simp [hq]

theorem exec_grant_acquire {s : State} {core : Nat} {q : RegReq} (hq : (s.core core).active.reqs.find? (fun q => !q.claim) = some q)
    (hfits : s.acqFits q = true) :
    exec (.registerRequestGrant core none) s = .next (((s.dropReq q).acquire q.r.team q.n).answer q.r q.pd true) := by
  show execRegisterRequestGrant core none s = _
  unfold execRegisterRequestGrant
  simp only [hq, hfits, if_true]

theorem exec_grant_claim {s : State} {core t : Nat} {q : RegReq}
    (hq : (s.core core).active.reqs.find? (fun q => q.claim && q.r.team == t) = some q) (hfits : s.claimFits q = true)
    (hclear : s.claimClear q.r q.n = true) :
    exec (.registerRequestGrant core (some t)) s = .next (((s.dropReq q).claim q.r q.n).answer q.r q.pd true) := by
  show execRegisterRequestGrant core (some t) s = _
  unfold execRegisterRequestGrant
  simp only [hq, hfits, hclear, Bool.and_self, if_true]

/-- The detector of a core's active bank starts again: condition D has not held since any cycle (04 R92). -/
def Core.restartD (k : Core) : Core := { k with active := { k.active with dSince := none } }

theorem keepsSplits_restartD : KeepsSplits Core.restartD := fun _ => ⟨rfl, rfl⟩

theorem exec_denial {s : State} {core : Nat} {q : RegReq} (hq : s.denied (s.core core).active = some q) :
    exec (.quotaDenial core) s = .next (((s.dropReq q).answer q.r q.pd false).onCore core Core.restartD) := by
  show execQuotaDenial core s = _
  unfold execQuotaDenial
  simp only [hq]
  rfl

/-- The youngest request, where condition D has held for 64 cycles (04 R92). -/
theorem denied_last {s : State} {b : Bank} {pre : List RegReq} {q : RegReq} {c : Nat} (hreqs : b.reqs = pre ++ [q]) (hd : b.dSince = some c)
    (hold : c + 64 ≤ s.clock) (hcond : s.condD b = true) : s.denied b = some q := by
  unfold State.denied
  rw [hd, hreqs, List.getLast?_concat]
  simp [hcond, hold]

/-! What an answered request leaves. -/

theorem dropReq_eq_withBank {s : State} {q : RegReq} (ha : Issues s) (hq : q.r = s.cur) :
    s.dropReq q = withBank s (s.core s.mine.core).active.pool ((s.core s.mine.core).active.reqs.filter (fun o => o.r ≠ q.r)) := by
  have h := setBank_eq_withBank ha (s.core s.mine.core).active.pool ((s.core s.mine.core).active.reqs.filter (fun o => o.r ≠ q.r))
  unfold State.dropReq
  rw [bank_of_issues ha] at h
  rw [← h, hq, bank_of_issues ha]

section
variable {s : State} (ha : Issues s)
include ha

/-- A REGACQ granted to the issuing strand, whose request leaves the bank. -/
theorem ownResult_grant_acquire (n : Nat) (p : BitVec 3) (reqs : List RegReq) :
    OwnResult (withBank s ((s.core s.mine.core).active.pool - n * s.mine.ngroups) reqs)
      (((withBank s (s.core s.mine.core).active.pool reqs).acquire s.cur.team n).answer s.cur p true)
      (Team.setPred { s.mine with heldBlocks := s.mine.heldBlocks + n, pool := s.mine.pool + n } p s.me.mask s.me.mask)
      s.myStream (answered s s.me) := by
  have hacq := ownResult_acquire (s := withBank s (s.core s.mine.core).active.pool reqs) ha n
  have hbank := core_withBank s (s.core s.mine.core).active.pool reqs s.mine.core
  rw [if_pos rfl] at hbank
  rw [show (withBank s (s.core s.mine.core).active.pool reqs).core (withBank s (s.core s.mine.core).active.pool reqs).mine.core = _ from hbank,
    show (withBank s (s.core s.mine.core).active.pool reqs).me = s.me from strand_withBank s _ _ _] at hacq
  exact ownResult_answer (ownResult_withBank_withBank hacq) ha rfl p true

/-- A REGCLAIM granted to the issuing strand, whose request leaves the bank. -/
theorem ownResult_grant_claim (n : Nat) (p : BitVec 3) (pool : Nat) (reqs : List RegReq) :
    OwnResult (withBank s pool reqs) (((withBank s pool reqs).claim s.cur n).answer s.cur p true)
      (Team.setPred { s.mine.clearRegs (s.claimed s.cur) (s.me.nextRegs n) with pool := s.mine.pool - n } p s.me.mask s.me.mask)
      s.myStream (answered s { s.me with cnt := s.me.cnt + n }) := by
  have hkept := local_clearRegs (s.claimed s.cur) (s.me.nextRegs n)
  have hclaim := ownResult_claim (ownResult_bank ha pool reqs) ha rfl n
  rw [show (withBank s pool reqs).cur = s.cur from rfl, claimed_withBank] at hclaim
  exact ownResult_answer hclaim ((hkept.held s.mine).trans ha) (hkept.core s.mine) p true

/-- A denial of the issuing strand's request, which leaves the bank. -/
theorem ownResult_denial (p : BitVec 3) (pool : Nat) (reqs : List RegReq) :
    OwnResult (withBank s pool reqs) ((withBank s pool reqs).answer s.cur p false) (s.mine.setPred p s.me.mask 0) s.myStream (answered s s.me) :=
  ownResult_answer (ownResult_bank ha pool reqs) ha rfl p false

end

/-- What a result leaves of the free pool and the requests of a bank. -/
theorem ownResult_bank_reads {s t : State} {T : Team} {m : Stream} {x : Strand} {pool : Nat} {reqs : List RegReq}
    (h : OwnResult (withBank s pool reqs) t T m x) :
    (t.core s.mine.core).active.pool = pool ∧ (t.core s.mine.core).active.reqs = reqs := by
  have hbank := core_withBank s pool reqs s.mine.core
  rw [if_pos rfl] at hbank
  rcases h.rest.cores s.mine.core with hsame | ⟨-, i, z, -, hz, -⟩
  · rw [hsame, hbank]
    exact ⟨rfl, rfl⟩
  · rw [hz, hbank]
    exact ⟨rfl, rfl⟩

/-! The three answers, from any state in which the strand of the request may issue. -/

section
variable {s : State} {q : RegReq} {pre post : List RegReq} (ha : Issues (s.withCur q.r))
include ha

theorem grant_acquire (hreqs : (s.core (s.withCur q.r).mine.core).active.reqs = pre ++ q :: post)
    (hq : q.claim = false) (hpre : ∀ o ∈ pre, o.claim = true)
    (hfits : q.n * (s.withCur q.r).mine.ngroups ≤ (s.core (s.withCur q.r).mine.core).active.pool) :
    ∃ t : State, exec (.registerRequestGrant (s.withCur q.r).mine.core none) s = .next (t.withCur s.cur)
      ∧ OwnResult (withBank (s.withCur q.r) ((s.core (s.withCur q.r).mine.core).active.pool - q.n * (s.withCur q.r).mine.ngroups)
          ((s.core (s.withCur q.r).mine.core).active.reqs.filter (fun o => o.r ≠ q.r))) t
        (Team.setPred { (s.withCur q.r).mine with heldBlocks := (s.withCur q.r).mine.heldBlocks + q.n, pool := (s.withCur q.r).mine.pool + q.n }
          q.pd (s.withCur q.r).me.mask (s.withCur q.r).me.mask)
        (s.withCur q.r).myStream (answered s (s.withCur q.r).me) := by
  have hfound : (s.core (s.withCur q.r).mine.core).active.reqs.find? (fun o => !o.claim) = some q :=
    find_request hreqs (by rw [hq]; rfl) (fun o ho => by rw [hpre o ho]; rfl)
  refine ⟨(((s.withCur q.r).dropReq q).acquire q.r.team q.n).answer q.r q.pd true, ?_, ?_⟩
  · rw [← answer_withCur, ← acquire_withCur, ← dropReq_withCur]
    exact exec_grant_acquire hfound ((acqFits_iff ha rfl).mpr hfits)
  · rw [dropReq_eq_withBank ha rfl]
    exact ownResult_grant_acquire ha q.n q.pd _

theorem grant_claim (hreqs : (s.core (s.withCur q.r).mine.core).active.reqs = pre ++ q :: post)
    (hq : q.claim = true) (hpre : ∀ o ∈ pre, ¬ (o.claim = true ∧ o.r.team = q.r.team)) (hfits : q.n ≤ (s.withCur q.r).mine.pool)
    (hclear : s.claimClear q.r q.n = true) :
    ∃ t : State, exec (.registerRequestGrant (s.withCur q.r).mine.core (some q.r.team)) s = .next (t.withCur s.cur)
      ∧ OwnResult (withBank (s.withCur q.r) (s.core (s.withCur q.r).mine.core).active.pool
          ((s.core (s.withCur q.r).mine.core).active.reqs.filter (fun o => o.r ≠ q.r))) t
        (Team.setPred { (s.withCur q.r).mine.clearRegs (s.claimed q.r) ((s.withCur q.r).me.nextRegs q.n) with
          pool := (s.withCur q.r).mine.pool - q.n } q.pd (s.withCur q.r).me.mask (s.withCur q.r).me.mask)
        (s.withCur q.r).myStream (answered s { (s.withCur q.r).me with cnt := (s.withCur q.r).me.cnt + q.n }) := by
  have hfound : (s.core (s.withCur q.r).mine.core).active.reqs.find? (fun o => o.claim && o.r.team == q.r.team) = some q :=
    find_request hreqs (by rw [hq, beq_self_eq_true]; rfl) (fun o ho => by
      rw [← Bool.not_eq_true, Bool.and_eq_true, beq_iff_eq]
      exact hpre o ho)
  refine ⟨(((s.withCur q.r).dropReq q).claim q.r q.n).answer q.r q.pd true, ?_, ?_⟩
  · rw [← answer_withCur, ← claim_withCur, ← dropReq_withCur]
    exact exec_grant_claim hfound (decide_eq_true hfits) hclear
  · rw [dropReq_eq_withBank ha rfl]
    exact ownResult_grant_claim ha q.n q.pd _ _

/-- The denied strand's own result, before the detector of the bank starts again. -/
theorem quota_denial {c : Nat} (hreqs : (s.core (s.withCur q.r).mine.core).active.reqs = pre ++ [q])
    (hd : (s.core (s.withCur q.r).mine.core).active.dSince = some c) (hold : c + 64 ≤ s.clock)
    (hcond : s.condD (s.core (s.withCur q.r).mine.core).active = true) :
    ∃ t : State, exec (.quotaDenial (s.withCur q.r).mine.core) s = .next ((t.onCore (s.withCur q.r).mine.core Core.restartD).withCur s.cur)
      ∧ OwnResult (withBank (s.withCur q.r) (s.core (s.withCur q.r).mine.core).active.pool
          ((s.core (s.withCur q.r).mine.core).active.reqs.filter (fun o => o.r ≠ q.r))) t
        ((s.withCur q.r).mine.setPred q.pd (s.withCur q.r).me.mask 0) (s.withCur q.r).myStream (answered s (s.withCur q.r).me) := by
  refine ⟨((s.withCur q.r).dropReq q).answer q.r q.pd false, ?_, ?_⟩
  · rw [← onCore_withCur, ← answer_withCur, ← dropReq_withCur]
    exact exec_denial (denied_last hreqs hd hold hcond)
  · rw [dropReq_eq_withBank ha rfl]
    exact ownResult_denial ha q.pd _ _

end

/-- Settles O24: each event finds the request, and its answer is the rule of the bank, of the team and of the strand as if that strand issued. -/
theorem registerRequestAnswers : Obligations.RegisterRequestAnswers := by
  intro s q core b s0 T reqs pd ha hcore
  subst hcore
  refine ⟨fun pre post hreqs hq hpre hfits => grant_acquire ha hreqs hq hpre hfits,
    fun pre post hreqs hq hpre hfits hclear => ?_, fun pre c hreqs hd hold hcond => ?_⟩
  · obtain ⟨t, hexec, hres⟩ := grant_claim ha hreqs hq hpre hfits hclear
    exact ⟨t, _, hexec, hres, fun r l hl => by simp only [Team.vr_clearRegs _ _ _ _ _ hl, mem_nextRegs]; rfl⟩
  · obtain ⟨t, hexec, hres⟩ := quota_denial ha hreqs hd hold hcond
    obtain ⟨hpool, hreq⟩ := ownResult_bank_reads hres
    have hme : (t.onCore T.core Core.restartD).me = answered s s0.me := (strand_onCore t _ keepsSplits_restartD _).trans hres.strand
    have hread : (t.onCore T.core Core.restartD).core T.core = (t.core T.core).restartD := by rw [State.core_onCore, if_pos rfl]
    refine ⟨_, hexec, ?_, hme, (congrArg (·.active.reqs) hread).trans hreq, (congrArg (·.active.pool) hread).trans hpool,
      congrArg (·.active.dSince) hread, ?_⟩
    · show t.mine.pred q.pd = _
      rw [hres.team]
      rfl
    · show t.mem = s.mem
      rw [hres.rest.rest]
      rfl

end Sys2Proof.Machine
end

section
/-! Where a vector word traps before its first pass: the register bound and the tag rules (04 R79, R83). -/

namespace Sys2Proof.Machine

open Claims

/-! The register bound. -/

theorem leastOf_eq {d r : Nat} {l : List Nat} (hr : r ∈ l) (hle : ∀ q ∈ l, r ≤ q) : leastOf d l = r := by
  cases l with
  | nil => exact absurd hr List.not_mem_nil
  | cons x rest => exact Option.some.inj (List.min?_eq_some_iff.mpr ⟨hr, hle⟩)

theorem unmapped_iff (s : State) (r : Nat) : unmapped s.me.cnt r = true ↔ ¬ Mapped s r := by
  unfold unmapped Mapped
  simp only [Bool.and_eq_true, Bool.or_eq_true, decide_eq_true_eq]
  omega

theorem checkBound_least {s : State} {regs : List Nat} {r : Nat} (hr : r ∈ regs) (hun : ¬ Mapped s r)
    (hle : ∀ q ∈ regs, ¬ Mapped s q → r ≤ q) : checkBound s regs = .error (boundTrap s.me.mask r) := by
  have hbad : r ∈ regs.filter (unmapped s.me.cnt) := List.mem_filter.mpr ⟨hr, (unmapped_iff s r).mpr hun⟩
  unfold checkBound
  dsimp only
  rw [if_neg (by rw [List.isEmpty_iff]; exact List.ne_nil_of_mem hbad), leastOf_eq hbad]
  intro q hq
  obtain ⟨hmem, hno⟩ := List.mem_filter.mp hq
  exact hle q hmem ((unmapped_iff s q).mp hno)

theorem mem_regs {fs : List Nat} {r : Nat} : r ∈ fs.filter (fun f => !isPort f) ↔ r ∈ fs ∧ r < 120 := by
  simp [List.mem_filter, isPort]

theorem beginVec_bound {s : State} {srcs dsts : List Nat} {r : Nat} (hr : r ∈ srcs ++ dsts) (hlt : r < 120) (hun : ¬ Mapped s r)
    (hready : ∀ q ∈ srcs ++ dsts, q < 120 → s.mine.regBusy q s.me.mask = false ∧ (¬ Mapped s q → r ≤ q)) :
    beginVec s srcs dsts = .error (boundTrap s.me.mask r) := by
  have hwritten : ((srcs ++ dsts).filter (fun f => !isPort f)).all (fun q => !s.mine.regBusy q s.me.mask) = true := by
    rw [List.all_eq_true]
    intro q hq
    obtain ⟨hmem, hq120⟩ := mem_regs.mp hq
    rw [(hready q hmem hq120).1]
    rfl
  have hbound := checkBound_least (mem_regs.mpr ⟨hr, hlt⟩) hun (fun q hq => by
    obtain ⟨hmem, hq120⟩ := mem_regs.mp hq
    exact (hready q hmem hq120).2)
  unfold beginVec
  dsimp only
  rw [require_true _ _ hwritten, ok_bind, hbound]
  rfl

/-- A word with vector fields fs takes the register-bound fault where one of them is outside the strand's blocks, with the lowest in CODE. -/
def BoundTraps (i : Instr) (s : State) (fs : List (BitVec 7)) : Prop :=
  ∀ r ∈ fs, r.toNat < 120 → ¬ Mapped s r.toNat →
    (∀ q ∈ fs, q.toNat < 120 → s.mine.regBusy q.toNat s.me.mask = false ∧ (¬ Mapped s q.toNat → r.toNat ≤ q.toNat)) →
    exec i s = .next (s.trapHere { cause := 0x13, detail := 0, code := r.toNat, mask := s.me.mask, addr := 0 })

theorem vecWord_bound_traps {i : Instr} {s : State} {srcs : List Nat} {d : Nat} {rule : List (BitVec 4) → Except Nat (BitVec 4)}
    {f : Nat → List (BitVec 4) → List W32 → LaneRes} {fs : List (BitVec 7)} (hu : s.untranslated s.cur = false)
    (hi : exec i s = finish s (vecWord s srcs d rule f)) (hfs : srcs ++ [d] = fs.map BitVec.toNat) : BoundTraps i s fs := by
  intro r hr hlt hun hready
  have hmem : r.toNat ∈ srcs ++ [d] := by
    rw [hfs]
    exact List.mem_map_of_mem hr
  have hbound : beginVec s srcs [d] = .error (boundTrap s.me.mask r.toNat) := by
    refine beginVec_bound hmem hlt hun ?_
    rw [hfs, List.forall_mem_map]
    exact hready
  have hword : vecWord s srcs d rule f = .error (boundTrap s.me.mask r.toNat) := by
    unfold vecWord vecChecks
    rw [hbound]
    rfl
  rw [hi, hword]
  exact finish_trap hu _

/-! The tag rules. -/

theorem Team.inGroups_bit (T : Team) (m : Mask) (gs : List Nat) (l : Nat) :
    (T.inGroups m gs).getLsbD l = true ↔ m.getLsbD l = true ∧ l / T.gw ∈ gs := by
  have hfold : ∀ acc : Mask, (gs.foldl (fun acc g => acc ||| (m &&& T.groupMask g)) acc).getLsbD l = true ↔
      acc.getLsbD l = true ∨ m.getLsbD l = true ∧ l / T.gw ∈ gs := by
    induction gs with
    | nil => simp
    | cons g rest ih =>
      intro acc
      rw [List.foldl_cons, ih, BitVec.getLsbD_or, BitVec.getLsbD_and, Bool.or_eq_true, Bool.and_eq_true, T.groupMask_bit, or_assoc,
        List.mem_cons]
      refine or_congr_right ⟨?_, ?_⟩
      · rintro (⟨hm, -, hg⟩ | ⟨hm, hrest⟩)
        · exact ⟨hm, .inl hg⟩
        · exact ⟨hm, .inr hrest⟩
      · rintro ⟨hm, hg | hrest⟩
        · exact .inl ⟨hm, lane_lt hm, hg⟩
        · exact .inr ⟨hm, hrest⟩
  unfold Team.inGroups
  rw [hfold, BitVec.ofNat_eq_ofNat, BitVec.getLsbD_zero]
  simp

theorem tagTrap_passes {s : State} (c : Nat) {F : Nat → Bool} (hF : ∀ g, ActiveGroup s g → F g = false) :
    tagTrap s.mine s.me.mask c ((s.mine.groupsOf s.me.mask).filter F) = .ok () := by
  apply tagTrap_ok
  rw [List.filter_eq_nil_iff]
  intro g hg
  rw [hF g ((mem_groupsOf_active s g).mp hg)]
  exact Bool.false_ne_true

/-- A mask's bits in the active groups that fail. -/
def FailMask (s : State) (bad : Nat → Prop) (m : Mask) : Prop :=
  ∀ l, m.getLsbD l = true ↔ s.me.mask.getLsbD l = true ∧ ActiveGroup s (l / s.mine.gw) ∧ bad (l / s.mine.gw)

theorem tagTrap_fails {s : State} (c : Nat) {F : Nat → Bool} {bad : Nat → Prop} (hF : ∀ g, ActiveGroup s g → (F g = true ↔ bad g))
    (hex : ∃ g, ActiveGroup s g ∧ bad g) :
    ∃ m, tagTrap s.mine s.me.mask c ((s.mine.groupsOf s.me.mask).filter F) = .error (.trap (trapOf c m)) ∧ FailMask s bad m := by
  have hmem (g : Nat) : g ∈ (s.mine.groupsOf s.me.mask).filter F ↔ ActiveGroup s g ∧ bad g := by
    rw [List.mem_filter, mem_groupsOf_active]
    exact and_congr_right (hF g)
  obtain ⟨g, hg⟩ := hex
  refine ⟨_, if_neg ?_, fun l => ?_⟩
  · rw [List.isEmpty_iff]
    exact List.ne_nil_of_mem ((hmem g).mpr hg)
  · rw [Team.inGroups_bit, hmem]

/-- Where every failing group fails a word's rule with one cause, the word's tag checks end in that trap, for the lanes of those groups. -/
theorem tagChecks_fails {s : State} {srcs : List Nat} {rule : List (BitVec 4) → Except Nat (BitVec 4)} {c : Nat} {bad : Nat → Prop}
    (hc : c = cRefTag ∨ c = cTag)
    (hfail : ∀ g, ActiveGroup s g → bad g → rule (srcs.map (fun x => s.mine.fieldTag s.me.mask x g)) = .error c)
    (hpass : ∀ g, ActiveGroup s g → ¬ bad g → ∃ t, rule (srcs.map (fun x => s.mine.fieldTag s.me.mask x g)) = .ok t)
    (hex : ∃ g, ActiveGroup s g ∧ bad g) :
    ∃ m, tagChecks s srcs rule = .error (.trap (trapOf c m)) ∧ FailMask s bad m := by
  have hsame (g : Nat) (hg : ActiveGroup s g) :
      (match rule (srcs.map (fun x => s.mine.fieldTag s.me.mask x g)) with | .error e => e == c | .ok _ => false) = true ↔ bad g := by
    by_cases hb : bad g
    · rw [hfail g hg hb]
      simp [hb]
    · obtain ⟨t, ht⟩ := hpass g hg hb
      rw [ht]
      simp [hb]
  obtain ⟨m, htrap, hm⟩ := tagTrap_fails c hsame hex
  refine ⟨m, ?_, hm⟩
  unfold tagChecks
  dsimp only
  rcases hc with rfl | rfl
  · exact congrArg (· >>= _) htrap
  · have hnoRef (g : Nat) (hg : ActiveGroup s g) :
        (match rule (srcs.map (fun x => s.mine.fieldTag s.me.mask x g)) with | .error e => e == cRefTag | .ok _ => false) = false := by
      by_cases hb : bad g
      · rw [hfail g hg hb]
        rfl
      · obtain ⟨t, ht⟩ := hpass g hg hb
        rw [ht]
    exact (congrArg (· >>= _) (tagTrap_passes cRefTag hnoRef)).trans htrap

/-- A vector word whose rule fails in some groups, with one cause, takes that trap. -/
theorem vecWord_tag_trap {i : Instr} {s : State} {srcs : List Nat} {d : Nat} {rule : List (BitVec 4) → Except Nat (BitVec 4)}
    {f : Nat → List (BitVec 4) → List W32 → LaneRes} (hu : s.untranslated s.cur = false)
    (hi : exec i s = finish s (vecWord s srcs d rule f)) (h : VecReady s srcs [d]) {c : Nat} {bad : Nat → Prop} (hc : c = cRefTag ∨ c = cTag)
    (hfail : ∀ g, ActiveGroup s g → bad g → rule (srcs.map (fun x => s.mine.fieldTag s.me.mask x g)) = .error c)
    (hpass : ∀ g, ActiveGroup s g → ¬ bad g → ∃ t, rule (srcs.map (fun x => s.mine.fieldTag s.me.mask x g)) = .ok t)
    (hex : ∃ g, ActiveGroup s g ∧ bad g) :
    ∃ x : TrapInfo, exec i s = .next (s.trapHere x) ∧ x.cause = c ∧ x.detail = 0 ∧ x.code = 0 ∧ FailMask s bad x.mask := by
  obtain ⟨m, htags, hm⟩ := tagChecks_fails hc hfail hpass hex
  have hword : vecWord s srcs d rule f = .error (.trap (trapOf c m)) := by
    unfold vecWord vecChecks
    rw [beginVec_ok h, ok_bind, htags]
    rfl
  exact ⟨trapOf c m, by rw [hi, hword]; exact finish_trap hu _, rfl, rfl, rfl, hm⟩

theorem ruleTyped_pair_ne {ok : BitVec 4 → Bool} {t u : BitVec 4} (h : t ≠ u) : ruleTyped ok [t, u] = .error cTag := by
  unfold ruleTyped
  simp [Ne.symm h]

theorem ruleTyped_pair_same {ok : BitVec 4 → Bool} {t : BitVec 4} (h : ok t = true) : ruleTyped ok [t, t] = .ok t := by
  unfold ruleTyped
  simp [h]

theorem ruleAny_ref (out : BitVec 4) : ruleAny out [tRef] = .error cRefTag := rfl

theorem ruleAny_other {out t : BitVec 4} (h : t ≠ tRef) : ruleAny out [t] = .ok out := by
  unfold ruleAny
  simp [h]

/-- Two sources of different tags in some group. -/
theorem typedPair_tag_trap {i : Instr} {s : State} {a b d : Nat} {ok : BitVec 4 → Bool} {f : Nat → List (BitVec 4) → List W32 → LaneRes}
    (hu : s.untranslated s.cur = false) (hi : exec i s = finish s (vecWord s [a, b] d (ruleTyped ok) f)) (hok : ok tF32 = true)
    {ta tb : Nat → BitVec 4} (h : VecReady s [a, b] [d]) (hta : Tagged s [a] ta) (htb : Tagged s [b] tb)
    (heq : ∀ g, ActiveGroup s g → ta g = tb g → ta g = tF32) (hex : ∃ g, ActiveGroup s g ∧ ta g ≠ tb g) :
    ∃ x : TrapInfo, exec i s = .next (s.trapHere x) ∧ x.cause = cTag ∧ x.detail = 0 ∧ x.code = 0 ∧ FailMask s (fun g => ta g ≠ tb g) x.mask := by
  have htags (g : Nat) (hg : ActiveGroup s g) : [a, b].map (fun x => s.mine.fieldTag s.me.mask x g) = [ta g, tb g] := by
    rw [List.map_cons, List.map_cons, hta a (List.mem_singleton.mpr rfl) g hg, htb b (List.mem_singleton.mpr rfl) g hg]
    rfl
  refine vecWord_tag_trap hu hi h (.inr rfl) (fun g hg hne => ?_) (fun g hg hsame => ?_) hex
  · rw [htags g hg]
    exact ruleTyped_pair_ne hne
  · have hsame : ta g = tb g := Classical.not_not.mp hsame
    rw [htags g hg, ← hsame]
    exact ⟨_, ruleTyped_pair_same (by rw [heq g hg hsame]; exact hok)⟩

/-- A REF source of a word that takes any other tag. -/
theorem any_tag_trap {i : Instr} {s : State} {a d : Nat} {out : BitVec 4} {f : Nat → List (BitVec 4) → List W32 → LaneRes}
    (hu : s.untranslated s.cur = false) (hi : exec i s = finish s (vecWord s [a] d (ruleAny out) f))
    {ta : Nat → BitVec 4} (h : VecReady s [a] [d]) (hta : Tagged s [a] ta) (hex : ∃ g, ActiveGroup s g ∧ ta g = tRef) :
    ∃ x : TrapInfo, exec i s = .next (s.trapHere x) ∧ x.cause = cRefTag ∧ x.detail = 0 ∧ x.code = 0 ∧ FailMask s (fun g => ta g = tRef) x.mask := by
  have htags (g : Nat) (hg : ActiveGroup s g) : [a].map (fun x => s.mine.fieldTag s.me.mask x g) = [ta g] := by
    rw [List.map_cons, hta a (List.mem_singleton.mpr rfl) g hg]
    rfl
  refine vecWord_tag_trap hu hi h (.inl rfl) (fun g hg href => ?_) (fun g hg hother => ?_) hex
  · rw [htags g hg, href]
    exact ruleAny_ref out
  · rw [htags g hg]
    exact ⟨_, ruleAny_other hother⟩

/-! The words. -/

/-- The class of tags that an arithmetic word takes: the floating ones where it rounds by its generators. -/
def arithClass (m : BitVec 3) : BitVec 4 → Bool := if m.getLsbD 1 then fltTag else arithTag

theorem arithClass_f32 (m : BitVec 3) : arithClass m tF32 = true := by
  unfold arithClass
  split <;> rfl

/-- The two traps of a word of two typed sources, where it is one vector word whose class holds F32. -/
theorem typedPair_traps {i : Instr} {s : State} {d a b : BitVec 7} {ok : BitVec 4 → Bool} {f : Nat → List (BitVec 4) → List W32 → LaneRes}
    (hu : s.untranslated s.cur = false) (hok : ok tF32 = true)
    (hi : exec i s = finish s (vecWord s [a.toNat, b.toNat] d.toNat (ruleTyped ok) f)) :
    BoundTraps i s [a, b, d]
    ∧ ∀ ta tb : Nat → BitVec 4, VecReady s [a.toNat, b.toNat] [d.toNat] → Tagged s [a.toNat] ta → Tagged s [b.toNat] tb →
      (∀ g, ActiveGroup s g → ta g = tb g → ta g = tF32) → (∃ g, ActiveGroup s g ∧ ta g ≠ tb g) →
      ∃ x : TrapInfo, exec i s = .next (s.trapHere x) ∧ x.cause = cTag ∧ x.detail = 0 ∧ x.code = 0
        ∧ FailMask s (fun g => ta g ≠ tb g) x.mask :=
  ⟨vecWord_bound_traps hu hi rfl, fun _ _ h hta htb heq hex => typedPair_tag_trap hu hi hok h hta htb heq hex⟩

/-- The two traps of a word of one source of any tag but REF. -/
theorem any_traps {i : Instr} {s : State} {d a : BitVec 7} {out : BitVec 4} {f : Nat → List (BitVec 4) → List W32 → LaneRes}
    (hu : s.untranslated s.cur = false) (hi : exec i s = finish s (vecWord s [a.toNat] d.toNat (ruleAny out) f)) :
    BoundTraps i s [a, d]
    ∧ ∀ ta : Nat → BitVec 4, VecReady s [a.toNat] [d.toNat] → Tagged s [a.toNat] ta → (∃ g, ActiveGroup s g ∧ ta g = tRef) →
      ∃ x : TrapInfo, exec i s = .next (s.trapHere x) ∧ x.cause = cRefTag ∧ x.detail = 0 ∧ x.code = 0
        ∧ FailMask s (fun g => ta g = tRef) x.mask :=
  ⟨vecWord_bound_traps hu hi rfl, fun _ h hta hex => any_tag_trap hu hi h hta hex⟩

/-- Settles O54: each word is one vector word of its class, and its checks come in the order of `beginVec` and `tagChecks`. -/
theorem vectorTraps : Obligations.VectorTraps := by
  intro s m d a b hu
  have hf32 := arithClass_f32
  exact ⟨typedPair_traps hu (hf32 m) rfl, typedPair_traps hu (hf32 m) rfl, typedPair_traps hu (hf32 m) rfl, typedPair_traps hu (hf32 0) rfl,
    typedPair_traps hu (hf32 0) rfl, any_traps hu rfl, any_traps hu rfl⟩

end Sys2Proof.Machine
end

section
/-! Immediates, moves from scalars, retagging, indexed moves and counts: vector words of one plain value in each lane, and VIDX
(06 R123, R124, R134; 04 R94 to R98). -/

namespace Sys2Proof.Machine

open Claims

/-- A word that, where its fields are ready, is a vector word of one plain value in each active lane. -/
theorem plainResult_of {i : Instr} {s : State} {srcs : List Nat} {d : Nat} {rule : List (BitVec 4) → Except Nat (BitVec 4)}
    {f : Nat → List (BitVec 4) → List W32 → LaneRes} {tag : Nat → BitVec 4} {v : Nat → W32} (ha : Issues s) (hs : ∀ x ∈ srcs, x < 128)
    (hd : d < 128) (hi : VecReady s srcs [d] → exec i s = finish s (vecWord s srcs d rule f)) (ht : TagsPass s srcs rule tag)
    (hv : ∀ l, s.mine.laneRes s.me.mask srcs f l = plain (v l)) : PlainResult i s srcs d tag v := by
  intro hready hpush
  obtain ⟨t, hexec, hres⟩ := vecWord_gives ha hs hd (hi hready) hready ht hpush
  exact ⟨t, hexec, vecResult_congr hres (fun l _ => hv l)⟩

theorem field_lt (a : BitVec 7) : ∀ x ∈ [a.toNat], x < 128 := List.forall_mem_singleton.mpr a.isLt

theorem tagsPass_const (s : State) (srcs : List Nat) (t : BitVec 4) : TagsPass s srcs (ruleConst t) (fun _ => t) := fun _ _ => rfl

/-- A move keeps its source's tag, but for REF, which becomes RAW (04 R84). -/
theorem tagsPass_move {s : State} {a : Nat} {ta : Nat → BitVec 4} (h : Tagged s [a] ta) :
    TagsPass s [a] ruleMove (fun g => if ta g = tRef then tRaw else ta g) := tagsPass_of h _ _ (fun _ _ => rfl)

theorem tagsPass_any {s : State} {a : Nat} {ta : Nat → BitVec 4} (out : BitVec 4) (h : Tagged s [a] ta)
    (hno : ∀ g, ActiveGroup s g → ta g ≠ tRef) : TagsPass s [a] (ruleAny out) (fun _ => out) :=
  tagsPass_of h _ _ (fun g hg => ruleAny_other (hno g hg))

/-! The words as vector words. -/

section
variable {s : State} (d a : BitVec 7)

theorem exec_vmovs {m : BitVec 3} {c : BitVec 6} (hc : ScalarsReady s [c]) : exec (.vmovs m d c) s =
    finish s (vecWord s [] d.toNat (ruleConst (if m.getLsbD 1 then tF32 else tI32))
      (fun _ _ _ => plain (if m.getLsbD 0 then hi32 (s.sreg c) else lo32 (s.sreg c)))) := by
  show execVmovs m d c s = _
  unfold execVmovs
  rw [needScalars_ok hc]
  rfl

theorem exec_vtag {t : BitVec 4} (ht : t ≠ tRef) : exec (.vtag t d a) s =
    finish s (vecWord s [a.toNat] d.toNat (ruleConst t) (fun _ _ vs => plain (vs.headD 0))) := by
  show execVtag t d a s = _
  unfold execVtag
  rw [require_true _ _ (decide_eq_true ht)]
  rfl

/-- VIDX's write of an index register. -/
def Stream.setXreg (m : Stream) (k : Nat) (v : BitVec 16) : Stream := { m with xregs := SMap.set 0 m.xregs k v }

theorem Stream.xreg_setXreg (m : Stream) (k q : Nat) (v : BitVec 16) : (m.setXreg k v).xreg q = if q = k then v else m.xreg q :=
  SMap.get_set _ _ _ _ _

/-- What a write of one index register leaves of a stream. -/
theorem setXreg_result {t : State} {k : Nat} {v : BitVec 16} {x : Strand} (h : OwnResult s t s.mine (s.myStream.setXreg k v) x) :
    t.myStream.xreg k = v ∧ (∀ q, q ≠ k → t.myStream.xreg q = s.myStream.xreg q)
    ∧ t.myStream = { s.myStream with xregs := t.myStream.xregs, root := t.myStream.root } ∧ t.me = x ∧ TeamKept s t ∧ OnlyMine s t := by
  have hread (q : Nat) : t.myStream.xreg q = if q = k then v else s.myStream.xreg q := by
    rw [h.stream]
    exact Stream.xreg_setXreg _ _ _ _
  have hkept : t.myStream = { s.myStream with xregs := t.myStream.xregs, root := t.myStream.root } := by
    rw [h.stream]
    rfl
  exact ⟨(hread k).trans (if_pos rfl), fun q hq => (hread q).trans (if_neg hq), hkept, h.strand, h.team, h.rest⟩

theorem exec_vidx {k : BitVec 2} {c : BitVec 6} (j : BitVec 12) (hc : ScalarsReady s [c]) : exec (.vidx k c j) s =
    .next ((s.onMyStream (fun m => m.setXreg k.toNat ((s.sreg c + sx64 j).setWidth 16))).advance) := by
  show execVidx k c j s = _
  unfold execVidx
  rw [needScalars_ok hc]
  rfl

/-- The register that an index register and a base name is one that the strand maps, and so are the word's other registers. -/
theorem indexed_ok {k : BitVec 2} {base r f : Nat} (hr : (s.myStream.xreg k.toNat).toNat + base = r) (hmap : Mapped s r)
    (hf : f < 120 → Mapped s f) : indexed s k base [f] = .ok r := by
  have hbound : checkBound s (r :: [f].filter (fun f => !isPort f)) = .ok () := by
    unfold checkBound
    dsimp only
    rw [if_pos]
    rw [List.isEmpty_iff, List.filter_eq_nil_iff]
    intro q hq
    rw [unmapped_iff, Classical.not_not]
    rcases List.mem_cons.mp hq with rfl | hq
    · exact hmap
    · obtain ⟨hmem, hlt⟩ := mem_regs.mp hq
      rw [List.mem_singleton.mp hmem] at hlt ⊢
      exact hf hlt
  unfold indexed
  dsimp only
  rw [hr, hbound]
  rfl

theorem exec_vrdx {k : BitVec 2} {r : Nat} (hr : (s.myStream.xreg k.toNat).toNat + a.toNat = r) (hlt : r < 120)
    (hready : VecReady s [r] [d.toNat]) : exec (.vrdx k d a) s =
    finish s (vecWord s [r] d.toNat ruleMove (fun _ _ vs => plain (vs.headD 0))) := by
  show execVrdx k d a s = _
  unfold execVrdx
  rw [indexed_ok hr (hready.mapped r (by simp) hlt) (hready.mapped d.toNat (by simp))]
  rfl

theorem exec_vwrx {k : BitVec 2} {r : Nat} (hr : (s.myStream.xreg k.toNat).toNat + d.toNat = r) (hlt : r < 120)
    (hready : VecReady s [a.toNat] [r]) : exec (.vwrx k d a) s =
    finish s (vecWord s [a.toNat] r ruleMove (fun _ _ vs => plain (vs.headD 0))) := by
  show execVwrx k d a s = _
  unfold execVwrx
  rw [indexed_ok hr (hready.mapped r (by simp) hlt) (hready.mapped a.toNat (by simp))]
  rfl

theorem field_reg (T : Team) {r : Nat} (h : r < 120) : T.field r = T.vr r := by
  funext l
  unfold Team.field
  rw [if_neg]
  simpa [isPort] using h

end

/-! Values of a lane. -/

/-- A lane number plus a sign-extended immediate is the exact sum in 32 bits. -/
theorem laneNumber_add (l : Nat) (j : BitVec 10) : BitVec.ofNat 32 l + sx32 j = BitVec.ofInt 32 (l + j.toInt) := by
  rw [BitVec.ofInt_add, BitVec.ofInt_natCast]
  rfl

/-- The zero bits above a word's highest one bit. -/
def leadingZeros (x : W32) : Nat := if x = 0 then 32 else 31 - Nat.log2 x.toNat

theorem leadingZeros_spec (x : W32) : leadingZeros x ≤ 32 ∧ (∀ i, i < 32 → 32 ≤ i + leadingZeros x → x.getLsbD i = false)
    ∧ (leadingZeros x < 32 → x.getLsbD (31 - leadingZeros x) = true) := by
  unfold leadingZeros
  by_cases h0 : x = 0
  · subst h0
    simp
  · have hne : x.toNat ≠ 0 := fun h => h0 (BitVec.eq_of_toNat_eq h)
    have htop : x.toNat.log2 < 32 := (Nat.log2_lt hne).mpr x.isLt
    rw [if_neg h0]
    refine ⟨by omega, fun i _ hi => ?_, fun _ => ?_⟩
    · exact Nat.testBit_lt_two_pow ((Nat.log2_lt hne).mp (by omega))
    · rw [show 31 - (31 - x.toNat.log2) = x.toNat.log2 by omega]
      exact Nat.testBit_log2 hne

/-! Immediates and moves from scalars. -/

section
variable {s : State} (ha : Issues s) (d a : BitVec 7)
include ha

theorem vmovi_result (j : BitVec 10) : PlainResult (.vmovi d j) s [] d.toNat (fun _ => 0) (fun _ => j.signExtend 32) :=
  plainResult_of ha (List.forall_mem_nil _) d.isLt (fun _ => rfl) (tagsPass_const s _ tI32) (fun _ => rfl)

theorem viota_result (j : BitVec 10) : PlainResult (.viota d j) s [] d.toNat (fun _ => 0) (fun l => BitVec.ofInt 32 (l + j.toInt)) :=
  plainResult_of ha (List.forall_mem_nil _) d.isLt (fun _ => rfl) (tagsPass_const s _ tI32) (fun l => congrArg plain (laneNumber_add l j))

theorem vmovs_result (m : BitVec 3) (c : BitVec 6) (hc : ScalarsReady s [c]) :
    PlainResult (.vmovs m d c) s [] d.toNat (fun _ => if m.getLsbD 1 then 1 else 0)
      (fun _ => if m.getLsbD 0 then (s.sreg c).extractLsb' 32 32 else (s.sreg c).extractLsb' 0 32) := by
  have hlow : lo32 (s.sreg c) = (s.sreg c).extractLsb' 0 32 := BitVec.setWidth_eq_extractLsb' (by decide)
  refine plainResult_of ha (List.forall_mem_nil _) d.isLt (fun _ => exec_vmovs d hc) (tagsPass_const s _ _) (fun _ => congrArg plain ?_)
  rw [hlow]
  rfl

/-! Retagging. -/

theorem vtag_result (t : BitVec 4) (ht : t ≠ tRef) : PlainResult (.vtag t d a) s [a.toNat] d.toNat (fun _ => t) (s.mine.field a.toNat) :=
  plainResult_of ha (field_lt a) d.isLt (fun _ => exec_vtag d a ht) (tagsPass_const s _ t) (fun _ => rfl)

/-! Indexed moves. -/

theorem vidx_result (k : BitVec 2) (c : BitVec 6) (j : BitVec 12) (hc : ScalarsReady s [c]) :
    Gives (.vidx k c j) s (fun t => t.myStream.xreg k.toNat = (s.sreg c + j.signExtend 64).setWidth 16
      ∧ (∀ q, q ≠ k.toNat → t.myStream.xreg q = s.myStream.xreg q)
      ∧ t.myStream = { s.myStream with xregs := t.myStream.xregs, root := t.myStream.root }
      ∧ t.me = s.me.advance ∧ TeamKept s t ∧ OnlyMine s t) := by
  have hindex := ownResult_onStream (ownResult_start s) rfl (f := fun m => m.setXreg k.toNat ((s.sreg c + sx64 j).setWidth 16))
    (fun _ _ => rfl)
  exact ⟨_, exec_vidx j hc, setXreg_result (ownResult_onStrand hindex ha rfl Strand.advance)⟩

theorem vrdx_result (k : BitVec 2) {r : Nat} (hr : (s.myStream.xreg k.toNat).toNat + a.toNat = r) (hlt : r < 120) {ta : Nat → BitVec 4}
    (hta : Tagged s [r] ta) : PlainResult (.vrdx k d a) s [r] d.toNat (fun g => if ta g = tRef then tRaw else ta g) (s.mine.vr r) :=
  plainResult_of ha (List.forall_mem_singleton.mpr (by omega)) d.isLt (exec_vrdx d a hr hlt) (tagsPass_move hta)
    (fun l => congrArg plain (congrFun (field_reg s.mine hlt) l))

theorem vwrx_result (k : BitVec 2) {r : Nat} (hr : (s.myStream.xreg k.toNat).toNat + d.toNat = r) (hlt : r < 120) {ta : Nat → BitVec 4}
    (hta : Tagged s [a.toNat] ta) :
    PlainResult (.vwrx k d a) s [a.toNat] r (fun g => if ta g = tRef then tRaw else ta g) (s.mine.field a.toNat) :=
  plainResult_of ha (field_lt a) (by omega) (exec_vwrx d a hr hlt) (tagsPass_move hta) (fun _ => rfl)

/-! Counts. -/

section
variable {ta : Nat → BitVec 4} (hta : Tagged s [a.toNat] ta) (hno : ∀ g, ActiveGroup s g → ta g ≠ tRef)
include hta hno

theorem vpopc_result : PlainResult (.vpopc d a) s [a.toNat] d.toNat (fun _ => 0)
    (fun l => BitVec.ofNat 32 ((List.range 32).filter (fun i => (s.mine.field a.toNat l).getLsbD i)).length) :=
  plainResult_of ha (field_lt a) d.isLt (fun _ => rfl) (tagsPass_any tI32 hta hno) (fun _ => rfl)

theorem vclz_result : PlainResult (.vclz d a) s [a.toNat] d.toNat (fun _ => 0)
    (fun l => BitVec.ofNat 32 (leadingZeros (s.mine.field a.toNat l))) :=
  plainResult_of ha (field_lt a) d.isLt (fun _ => rfl) (tagsPass_any tI32 hta hno) (fun _ => rfl)

end

end

/-- Settles O9: each word is one vector word of a rule and a plain value; VIDX writes one index register. -/
theorem movesAndCounts : Obligations.MovesAndCounts := by
  intro s d a ha
  exact ⟨fun j => ⟨vmovi_result ha d j, viota_result ha d j⟩, vmovs_result ha d, vtag_result ha d a, vidx_result ha,
    fun k _ hlt hta => vrdx_result ha d a k rfl hlt hta, fun k _ hlt hta => vwrx_result ha d a k rfl hlt hta,
    fun _ hta hno => ⟨⟨_, vpopc_result ha d a hta hno, fun _ => rfl⟩,
      ⟨_, vclz_result ha d a hta hno, fun l => leadingZeros_spec (s.mine.field a.toNat l)⟩⟩⟩

end Sys2Proof.Machine
end

section
/-! Words that write one scalar: the SALU words, SADDI and SLUI (05 R111, R112; 04 R85). -/

namespace Sys2Proof.Machine

open Claims

/-! Values. -/

/-- Bits [127:64] of the signed product are the exact product, divided by 2^64 and rounded down (05 R111). -/
theorem signedProduct_high (x y : W64) :
    ((x.signExtend 128) * (y.signExtend 128)).extractLsb' 64 64 = BitVec.ofInt 64 (x.toInt * y.toInt / 2 ^ 64) := by
  have hprod : x.signExtend 128 * y.signExtend 128 = BitVec.ofInt 128 (x.toInt * y.toInt) := (BitVec.ofInt_mul ..).symm
  rw [hprod]
  generalize x.toInt * y.toInt = z
  apply BitVec.eq_of_toNat_eq
  rw [BitVec.extractLsb'_toNat, BitVec.toNat_ofInt, BitVec.toNat_ofInt, Nat.shiftRight_eq_div_pow]
  omega

theorem sshiftRight_eq_div (x : W64) (n : Nat) : x.sshiftRight n = BitVec.ofInt 64 (x.toInt / 2 ^ n) := by
  rw [BitVec.sshiftRight, Int.shiftRight_eq_div_pow]
  norm_cast

/-- Where two words are equal as signed numbers, it does not matter which of them is taken. -/
theorem ite_slt_eq_ite_le {x y u v : W64} (h : x = y → u = v) : (if x.slt y then u else v) = if x.toInt ≤ y.toInt then u else v := by
  by_cases heq : x = y
  · rw [h heq, ite_self, ite_self]
  · have hne : x.toInt ≠ y.toInt := fun hint => heq (BitVec.eq_of_toInt_eq hint)
    have hiff : x.slt y = true ↔ x.toInt ≤ y.toInt := by
      rw [BitVec.slt_iff_toInt_lt]
      omega
    simp only [hiff]

theorem boolWord_slt (x y : W64) : boolWord (x.slt y) = if x.toInt < y.toInt then 1 else 0 := by
  simp only [boolWord, BitVec.slt_iff_toInt_lt]

theorem boolWord_ult (x y : W64) : boolWord (x.ult y) = if x.toNat < y.toNat then 1 else 0 := by
  simp only [boolWord, BitVec.ult_iff_toNat_lt]

/-! The words. -/

section
variable {s : State} {d a b : BitVec 6}

/-- A word that writes one scalar with its REF tag, and advances its strand, has that for its result. -/
theorem gives_scalarResult {i : Instr} {v : W64} {ref : Bool} (ha : Issues s)
    (hi : exec i s = .next ((s.onMyStream (fun m => m.setSreg d v ref)).advance)) :
    Gives i s (fun t => ScalarResult s t d v ref s.me.advance) :=
  ⟨_, hi, scalarResult s ha d v ref Strand.advance⟩

theorem salu_gives {i : Instr} {v : W64} (ha : Issues s) (hr : ScalarsReady s [d, a, b]) (f : W64 → W64 → W64)
    (hi : exec i s = salu s d a b f) (hv : f (s.sreg a) (s.sreg b) = v) : Gives i s (fun t => ScalarResult s t d v false s.me.advance) :=
  gives_scalarResult ha (by rw [hi, salu_ok f hr, hv]; rfl)

theorem exec_sor (hr : ScalarsReady s [d, a, b]) : exec (.sor d a b) s =
    .next ((s.onMyStream (fun m => m.setSreg d (s.sreg a ||| s.sreg b) (decide (a = b) && s.myStream.sref a))).advance) := by
  show execSor d a b s = _
  unfold execSor
  rw [needScalars_ok hr]
  rfl

theorem exec_ssel (hr : ScalarsReady s [d, a, b]) : exec (.ssel d a b) s =
    .next ((s.onMyStream (fun m => m.setSreg d (if s.sreg d ≠ 0 then s.sreg a else s.sreg b)
      (if s.sreg d ≠ 0 then s.myStream.sref a else s.myStream.sref b))).advance) := by
  show execSsel d a b s = _
  unfold execSsel
  rw [needScalars_ok hr, ← apply_ite s.sreg, ← apply_ite s.myStream.sref]
  rfl

theorem exec_saddi (i : BitVec 12) (hr : ScalarsReady s [d, a]) :
    exec (.saddi d a i) s = .next ((s.putSreg d (s.sreg a + i.signExtend 64)).advance) := by
  show execSaddi d a i s = _
  unfold execSaddi
  rw [needScalars_ok hr]
  rfl

theorem exec_slui (j : BitVec 18) (hr : ScalarsReady s [d]) :
    exec (.slui d j) s = .next ((s.putSreg d (j.signExtend 64 <<< 12)).advance) := by
  show execSlui d j s = _
  unfold execSlui
  rw [needScalars_ok hr]
  rfl

theorem scalarsReady_sub {l k : List (BitVec 6)} (h : ScalarsReady s l) (hk : k ⊆ l) : ScalarsReady s k := fun c hc => h c (hk hc)

end

/-- Settles O1: each word writes one scalar and advances its strand; the SALU words differ in the function alone. -/
theorem scalarWordResults : Obligations.ScalarWordResults := by
  intro s d a b ha hr x y R
  have hrda : ScalarsReady s [d, a] := scalarsReady_sub hr (by simp)
  have hrd : ScalarsReady s [d] := scalarsReady_sub hr (by simp)
  exact ⟨salu_gives ha hr (· + ·) rfl rfl, salu_gives ha hr (· - ·) rfl rfl, salu_gives ha hr (· * ·) rfl rfl,
    salu_gives ha hr (fun x y => (x.signExtend 128 * y.signExtend 128).extractLsb' 64 64) rfl (signedProduct_high x y),
    salu_gives ha hr (· &&& ·) rfl rfl, gives_scalarResult ha (exec_sor hr), salu_gives ha hr (· ^^^ ·) rfl rfl,
    salu_gives ha hr (fun x y => x <<< (y.toNat % 64)) rfl rfl, salu_gives ha hr (fun x y => x >>> (y.toNat % 64)) rfl rfl,
    salu_gives ha hr (fun x y => x.sshiftRight (y.toNat % 64)) rfl (sshiftRight_eq_div x _),
    salu_gives ha hr (fun x y => if x.slt y then x else y) rfl (ite_slt_eq_ite_le id),
    salu_gives ha hr (fun x y => if x.slt y then y else x) rfl (ite_slt_eq_ite_le Eq.symm),
    salu_gives ha hr (fun x y => boolWord (x.slt y)) rfl (boolWord_slt x y), salu_gives ha hr (fun x y => boolWord (x.ult y)) rfl (boolWord_ult x y),
    gives_scalarResult ha (exec_ssel hr), fun i j => ⟨gives_scalarResult ha (exec_saddi i hrda), gives_scalarResult ha (exec_slui j hrd)⟩⟩

end Sys2Proof.Machine
end

section
/-! SRD of every readable special register, SWR of the two writable ones, and the SWR that is illegal (05 R113; 03 R63, R64). -/

namespace Sys2Proof.Machine

open Claims

/-! Values that SRD reads. -/

theorem bit1_mul (c : Bool) (n : Nat) : bit1 c * n = if c then n else 0 := by cases c <;> simp [bit1]

theorem teamShape_eq (T : Team) : teamShape T =
    T.lanes + T.ngroups * 2 ^ 16 + (if T.as.present then 2 ^ 35 else 0) + T.level * 2 ^ 36 + (if T.lw then 2 ^ 39 else 0) := by
  rw [teamShape, bit1_mul, bit1_mul]

theorem sidWord_eq (r : StrandRef) : sidWord r = r.sid.getD 0x100 + (match r.strm with | .c => 0 | .a => 512) := by
  unfold sidWord
  cases r.strm <;> rfl

theorem groupsOf_ascending (T : Team) (m : Mask) : (T.groupsOf m).Pairwise (· < ·) := List.pairwise_lt_range.filter _

/-- The head of an ascending list is its least member. -/
theorem headD_of_least {l : List Nat} (hasc : l.Pairwise (· < ·)) {g : Nat} (hg : g ∈ l) (hle : ∀ h ∈ l, g ≤ h) (d : Nat) :
    l.headD d = g := by
  cases l with
  | nil => exact absurd hg List.not_mem_nil
  | cons x rest =>
    rcases List.mem_cons.mp hg with rfl | hrest
    · rfl
    · have hlt : x < g := List.rel_of_pairwise_cons hasc hrest
      exact absurd (hle x List.mem_cons_self) (Nat.not_le.mpr hlt)

theorem roleOf_least {T : Team} {m : Mask} {g : Nat} (hle : ∀ h ∈ T.groupsOf m, g ≤ h) (hg : g ∈ T.groupsOf m) :
    roleOf T m = (T.roles.getD g 0).toNat := by
  rw [roleOf, headD_of_least (groupsOf_ascending T m) hg hle]

theorem specialReg_display (s : State) {k : Nat} (hk : k < 8) :
    specialReg s (BitVec.ofNat 12 (0x020 + k)).toNat = SMap.get 0 s.mine.displays k := by
  have hnum : (BitVec.ofNat 12 (0x020 + k)).toNat = 0x020 + k := Nat.mod_eq_of_lt (by omega)
  rw [hnum]
  unfold specialReg
  dsimp only
  rw [if_pos (by omega), Nat.add_sub_cancel_left]

/-! The words. -/

section
variable {s : State} (ha : Issues s)
include ha

theorem srd_gives {d : BitVec 6} (hr : ScalarsReady s [d]) {n : BitVec 12} {v : W64} (hv : specialReg s n.toNat = v) :
    Gives (.srd d n) s (fun t => ScalarResult s t d v false s.me.advance) := by
  refine gives_scalarResult ha ?_
  show execSrd d n s = _
  rw [execSrd, needScalars_ok hr, ← hv]
  rfl

theorem swr_gives {a : BitVec 6} {n : BitVec 12} {f : Stream → Stream} (hf : ∀ m r, f { m with root := r } = { f m with root := r })
    (hi : exec (.swr a n) s = .next ((s.onMyStream f).advance)) :
    Gives (.swr a n) s (fun t => t.myStream = { f s.myStream with root := t.myStream.root }
      ∧ t.me = s.me.advance ∧ TeamKept s t ∧ OnlyMine s t) := by
  have h := ownResult_onStrand (ownResult_onStream (ownResult_start s) rfl hf) ha rfl Strand.advance
  exact ⟨_, hi, h.stream, h.strand, h.team, h.rest⟩

end

section
variable {s : State} {a : BitVec 6} (hr : ScalarsReady s [a])
include hr

theorem exec_swr_fpmode (hv : (s.sreg a).toNat < 4) :
    exec (.swr a 0x010) s = .next ((s.onMyStream (fun m => { m with fpmode := s.sreg a })).advance) := by
  show execSwr a 0x010 s = _
  rw [execSwr, needScalars_ok hr, ok_bind, if_pos ⟨rfl, hv⟩, finish_ok]

theorem exec_swr_fpflags : exec (.swr a 0x011) s = .next ((s.onMyStream (fun m => m.setFlags (s.sreg a))).advance) := by
  show execSwr a 0x011 s = _
  rw [execSwr, needScalars_ok hr, ok_bind, if_neg (fun h => absurd h.1 (by decide)), if_pos rfl, finish_ok]

theorem exec_swr_illegal {n : BitVec 12} (hn : (n ≠ 0x010 ∧ n ≠ 0x011) ∨ (n = 0x010 ∧ 4 ≤ (s.sreg a).toNat))
    (hu : s.untranslated s.cur = false) : exec (.swr a n) s = .next (s.trapHere s.illegal) := by
  have hmode : ¬ (n = 0x010 ∧ (s.sreg a).toNat < 4) := by
    rintro ⟨heq, hlt⟩
    rcases hn with ⟨hne, -⟩ | ⟨-, hle⟩
    · exact hne heq
    · omega
  have hflags : n ≠ 0x011 := by
    rcases hn with ⟨-, hne⟩ | ⟨rfl, -⟩
    · exact hne
    · decide
  show execSwr a n s = _
  rw [execSwr, needScalars_ok hr, ok_bind, if_neg hmode, if_neg hflags]
  exact finish_trap hu _

end

/-- Settles O2: SRD writes the scalar with `specialReg`, whose value at each number is the register's. -/
theorem specialRegisterReads : Obligations.SpecialRegisterReads := by
  intro s d ha hr T R
  have read {n : BitVec 12} {v : W64} (hv : specialReg s n.toNat = v) : R n v := srd_gives ha hr hv
  have hshape := congrArg (BitVec.ofNat 64) (teamShape_eq T)
  have hsid := congrArg (BitVec.ofNat 64) (sidWord_eq s.cur)
  have hskew : Config.cycleSkew (dieOf T.core) % 17 ≤ 16 := Nat.le_of_lt_succ (Nat.mod_lt _ (by decide))
  exact ⟨read hshape, read rfl, read rfl, read rfl, read rfl, read rfl, read rfl, read rfl, read rfl, read rfl, read rfl, read hsid,
    read rfl, read rfl, read rfl, read rfl, fun g hle hg => read (congrArg (BitVec.ofNat 64) (roleOf_least hle hg)),
    fun k hk => read (specialReg_display s hk), _, Nat.le_add_right _ _, Nat.add_le_add_left hskew _, read rfl⟩

/-- Settles O3: SWR has one case for each of the two registers, and its last case is the illegal one. -/
theorem specialRegisterWrites : Obligations.SpecialRegisterWrites := by
  intro s a ha hr v kept
  exact ⟨fun hv => swr_gives ha (fun _ _ => rfl) (exec_swr_fpmode hr hv), swr_gives ha (fun _ _ => rfl) (exec_swr_fpflags hr),
    fun _ hn hu => exec_swr_illegal hr hn hu⟩

end Sys2Proof.Machine
end

section
/-! Where a transfer traps: at a target out of the code extent, and at one in a scalar that starts no packet (05 R103). -/

namespace Sys2Proof.Machine

open Claims

/-- The trap of a transfer: ADDR is its target (05 R103). -/
def State.transferTrap (s : State) (cause : Nat) (a : W64) : TrapInfo :=
  { cause := cause, detail := 0, code := 0, mask := s.me.mask, addr := a }

theorem require_false (c : Bool) (e : Stop) (h : c = false) : require c e = .error e := by rw [require, h]; rfl

theorem condHolds_of_cond {k : BitVec 3} {v : W64} (h : Cond k v) : condHolds k v = true := by
  rcases h with ⟨rfl, h⟩ | ⟨rfl, h⟩ | ⟨rfl, h⟩ | ⟨rfl, h⟩ | ⟨rfl, h⟩ | ⟨rfl, h⟩ <;> exact decide_eq_true h

theorem checkTarget_outside {s : State} {a : W64} {fromReg : Bool} (hstart : fromReg = true → a.toNat % 12 = 0) (hout : ¬ InCode s a) :
    checkTarget s a fromReg = .error (.trap (s.transferTrap cFetch a)) := by
  have haligned : (!fromReg || decide (a.toNat % 12 = 0)) = true := by
    cases fromReg with
    | false => rfl
    | true => exact decide_eq_true (hstart rfl)
  have hextent : (decide (s.mine.cb ≤ a) && decide (a < s.mine.ce)) = false := by
    rw [← Bool.decide_and]
    exact decide_eq_false hout
  rw [checkTarget, require_true _ _ haligned, ok_bind, require_false _ _ hextent]
  rfl

theorem checkTarget_misaligned {s : State} {a : W64} (h : a.toNat % 12 ≠ 0) :
    checkTarget s a true = .error (.trap (s.transferTrap cTarget a)) := by
  have hstart : (!true || decide (a.toNat % 12 = 0)) = false := decide_eq_false h
  rw [checkTarget, require_false _ _ hstart]
  rfl

/-! The words, up to the check of their target. -/

section
variable {s : State} {a : BitVec 6}

theorem exec_bra (o : BitVec 24) : exec (.bra o) s =
    finish s (checkTarget s (target s.me.pc o) false >>= fun _ => .ok (s.goto (target s.me.pc o))) := rfl

theorem exec_call (o : BitVec 24) (hr : ScalarsReady s [63]) : exec (.call o) s =
    finish s (checkTarget s (target s.me.pc o) false >>= fun _ => .ok ((s.putSreg 63 (packetAfter s.me.pc)).goto (target s.me.pc o))) := by
  show execCall o s = _
  rw [execCall, needScalars_ok hr]
  rfl

theorem exec_bri (hr : ScalarsReady s [a]) : exec (.bri a) s =
    finish s (checkTarget s (s.sreg a) true >>= fun _ => .ok (s.goto (s.sreg a))) := by
  show execBri a s = _
  rw [execBri, transferTo, needScalars_ok hr]
  rfl

variable {k : BitVec 3} (o : BitVec 15)

theorem exec_brc_taken (hr : ScalarsReady s [a]) (hk : Cond k (s.sreg a)) : exec (.brc a k o) s =
    finish s (checkTarget s (target s.me.pc o) false >>= fun _ => .ok (s.goto (target s.me.pc o))) := by
  show execBrc a k o s = _
  rw [execBrc, needScalars_ok hr, ok_bind, if_pos (condHolds_of_cond hk)]
  rfl

theorem exec_loop_taken (hr : ScalarsReady s [a]) (hk : Cond k (s.sreg a - 1)) : exec (.loop a k o) s =
    finish s (checkTarget s (target s.me.pc o) false >>= fun _ => .ok ((s.putSreg a (s.sreg a - 1)).goto (target s.me.pc o))) := by
  show execLoop a k o s = _
  rw [execLoop, needScalars_ok hr, ok_bind]
  dsimp only
  rw [if_pos (condHolds_of_cond hk)]
  rfl

end

/-- A word that ends in the check of its target takes that check's trap. -/
theorem transfer_traps {s : State} {i : Instr} {a : W64} {fromReg : Bool} {cause : Nat} {f : Unit → Except Stop State}
    (hu : s.untranslated s.cur = false) (hi : exec i s = finish s (checkTarget s a fromReg >>= f))
    (hcheck : checkTarget s a fromReg = .error (.trap (s.transferTrap cause a))) :
    exec i s = .next (s.trapHere (s.transferTrap cause a)) := by
  rw [hi, hcheck]
  exact finish_trap hu _

/-- Settles O5: each transfer that is taken meets `checkTarget` before anything of it is done, and ends in that check's trap. -/
theorem transferTraps : Obligations.TransferTraps := by
  intro s hu pc Trap
  refine ⟨fun o hout => ?offset, fun a k o hr hout _ => ?conditional, fun a hr => ?register⟩
  case offset =>
    have hcheck := checkTarget_outside (fromReg := false) nofun hout
    exact ⟨transfer_traps hu (exec_bra o) hcheck, fun hr => transfer_traps hu (exec_call o hr) hcheck⟩
  case conditional =>
    have hcheck := checkTarget_outside (fromReg := false) nofun hout
    exact ⟨fun hk => transfer_traps hu (exec_brc_taken o hr hk) hcheck, fun hk => transfer_traps hu (exec_loop_taken o hr hk) hcheck⟩
  case register =>
    exact ⟨fun hmis => transfer_traps hu (exec_bri hr) (checkTarget_misaligned hmis),
      fun hstart hout => transfer_traps hu (exec_bri hr) (checkTarget_outside (fun _ => hstart) hout)⟩

end Sys2Proof.Machine
end

section
/-! What reset leaves: every table of the state is empty, so each team, grid, context, core and quad is its reset value. -/

namespace Sys2Proof.Machine

@[simp] theorem team_reset (t : Nat) : State.reset.team t = Team.none := rfl
@[simp] theorem grid_reset (g : Nat) : State.reset.grid g = Grid.none := rfl
@[simp] theorem ctx_reset (c : Nat) : State.reset.ctx c = Context.none := rfl
@[simp] theorem core_reset (c : Nat) : State.reset.core c = Core.reset := rfl
@[simp] theorem quad_reset (q : Nat) : State.reset.quad q = Quad.reset := rfl

theorem split_reset (i : Nat) : SMap.get Strand.free Core.reset.active.split i = Strand.free := rfl
theorem cmps_reset (i : Nat) : SMap.get Comparator.reset Core.reset.cmps i = Comparator.reset := rfl
theorem stripes_reset (i : Nat) : SMap.get 0 Core.reset.stripes i = 0 := rfl

/-- Settles O59: memory is empty, and what each table answers is its reset value. -/
theorem resetState : Obligations.ResetState := by
  unfold Obligations.ResetState
  intro s
  refine ⟨rfl, rfl, fun t => ?team, fun g => ?grid, fun c => ?ctx, fun c => ?core, fun q => ?quad, rfl, rfl, rfl, rfl, rfl, rfl, rfl⟩
  case team => rw [team_reset]; rfl
  case grid => rw [grid_reset]; rfl
  case ctx => rw [ctx_reset]; rfl
  case core =>
    rw [core_reset]
    exact ⟨fun i => congrArg Strand.st (split_reset i), rfl, rfl, fun i => congrArg (fun x => x.regs.ctl) (cmps_reset i), stripes_reset⟩
  case quad => rw [quad_reset]; exact ⟨rfl, rfl, rfl, rfl⟩

end Sys2Proof.Machine
end

section
/-! What lanes of elements hold: no flags, integers brought into their format, floating values rounded to nearest or by the generator
(03 R60 to R68; 06 R117, R120). -/

namespace Sys2Proof.Machine

open Claims

/-! Words. -/

theorem fields_lt (fs : List (BitVec 7)) : ∀ x ∈ fs.map BitVec.toNat, x < 128 :=
  List.forall_mem_map.mpr (fun f _ => f.isLt)

/-- A vector word completes with lanes that have a property which the lanes that it computes have. -/
theorem vecWord_lanes {i : Instr} {s : State} {srcs : List Nat} {d : Nat} {rule : List (BitVec 4) → Except Nat (BitVec 4)}
    {f : Nat → List (BitVec 4) → List W32 → LaneRes} (ha : Issues s) (hs : ∀ x ∈ srcs, x < 128) (hd : d < 128)
    (hi : exec i s = finish s (vecWord s srcs d rule f)) {tag : Nat → BitVec 4} (h : VecReady s srcs [d]) (ht : TagsPass s srcs rule tag)
    (hp : PushTag s d tag) {P : (Nat → LaneRes) → Prop} (hP : P (s.mine.laneRes s.me.mask srcs f)) :
    Gives i s (fun t => ∃ out, VecResult s t srcs d tag out ∧ P out) := by
  obtain ⟨t, hexec, hres⟩ := vecWord_gives ha hs hd hi h ht hp
  exact ⟨t, hexec, _, hres, hP⟩

theorem tagsPass_typed {s : State} {srcs : List Nat} {tag : Nat → BitVec 4} {ok : BitVec 4 → Bool} (hne : srcs ≠ []) (h : Tagged s srcs tag)
    (hok : ∀ g, ActiveGroup s g → ok (tag g) = true) : TagsPass s srcs (ruleTyped ok) tag :=
  tagsPass_of h _ _ (fun g hg => ruleTyped_ok ok (tag g) srcs hne (hok g hg))

theorem map_const_headD {srcs : List Nat} (hne : srcs ≠ []) (t d : BitVec 4) : (srcs.map (fun _ => t)).headD d = t := by
  cases srcs with
  | nil => exact absurd rfl hne
  | cons x rest => rfl

/-! Elements. -/

theorem elem_lt (w : Nat) (x : W32) (i : Nat) : elem w x i < 2 ^ w := Nat.mod_lt _ (Nat.two_pow_pos w)

theorem elemRes_noFlags {w n : Nat} {sr : Bool} {g : W64} {f : Nat → Nat → Nat × Flags} (h : ∀ i r, (f i r).2 = 0) :
    (elemRes w n sr g f).fl = 0 := by
  refine BitVec.eq_of_getLsbD_eq fun b _ => ?_
  rw [Bool.eq_iff_iff, elemRes_flags]
  simp [h]

/-- Integer elements, each brought into its format. -/
theorem intLane_elemRes {n : Nat} {I : IFmt} (hw : I.w * n ≤ 32) (g : W64) (sat : Bool) (f : List Int → Int) (vs : List W32) :
    IntLane n I sat f vs (elemRes I.w n false g (fun i _ => I.narrow sat (f (vs.map (fun v => I.decode (elem I.w v i)))))) where
  elems i hi := by rw [elemRes_elem _ _ _ _ _ hw i hi, Nat.mod_eq_of_lt (narrow_lt _ _ _)]
  flags _ := elemRes_flags ..
  gen := rfl

/-- Rounding to the nearest even reads no random bits (03 R59). -/
theorem fltElem_nearest (F : Fmt) (md : FpMode) (sat : Bool) (r : Nat) (f : List Val → Val × Flags) (vs : List W32) (i : Nat) :
    fltElem F md 0 sat r f vs i = fltElem F md 0 sat 0 f vs i := rfl

/-- Floating elements, each rounded to the nearest even. -/
theorem fltLane_elemRes {n : Nat} {F : Fmt} (hw : F.width * n ≤ 32) (g : W64) (md : FpMode) (sat : Bool) (f : List Val → Val × Flags)
    (vs : List W32) : FltLane n F md sat f vs (elemRes F.width n false g (fun i r => fltElem F md 0 sat r f vs i)) where
  elems i hi := by rw [elemRes_elem _ _ _ _ _ hw i hi, fltElem_nearest]
  flags _ := (elemRes_flags ..).trans (exists_congr fun i => and_congr_right fun _ => by rw [fltElem_nearest])
  gen := rfl

/-- Floating elements, each rounded by the generator after its own step. -/
theorem srLane_elemRes {n : Nat} {F : Fmt} (hw : F.width * n ≤ 32) (g : W64) (md : FpMode) (sat : Bool) (f : List Val → Val × Flags)
    (vs : List W32) : SrLane n F md sat g f vs (elemRes F.width n true g (fun i r => fltElem F md 5 sat r f vs i)) where
  elems i hi := elemRes_elem _ _ _ _ _ hw i hi
  flags _ := elemRes_flags ..
  gen := elemRes_gen ..

end Sys2Proof.Machine
end

section
/-! The shifts and VADDI: words whose elements are computed from their codes and width (06 R121, R125). -/

namespace Sys2Proof.Machine

open Claims

theorem intTag_of_mem {t : BitVec 4} (h : t.toNat ∈ [0, 10, 11, 12, 13]) : intTag t = true := by
  revert t; decide

/-! Values of an element. -/

theorem shiftLeft_code {w x : Nat} (c : Nat) :
    (if c < w then x * 2 ^ c % 2 ^ w else 0) % 2 ^ w = if c < w then x * 2 ^ c % 2 ^ w else 0 := by
  split
  · exact Nat.mod_mod _ _
  · exact Nat.zero_mod _

theorem shiftRight_code {w x : Nat} (c : Nat) (hx : x < 2 ^ w) :
    (if c < w then x / 2 ^ c else 0) % 2 ^ w = if c < w then x / 2 ^ c else 0 := by
  split
  · exact Nat.mod_eq_of_lt (Nat.lt_of_le_of_lt (Nat.div_le_self _ _) hx)
  · exact Nat.zero_mod _

/-- The value of a negative code, divided and rounded down, has ones coming in from above. -/
theorem negative_shift {w x c : Nat} (hc : c ≤ w) (hx : x < 2 ^ w) :
    ((x : Int) - 2 ^ w) / 2 ^ c % 2 ^ w = ((x / 2 ^ c + (2 ^ w - 2 ^ (w - c)) : Nat) : Int) := by
  have hsplit : 2 ^ w = 2 ^ (w - c) * 2 ^ c := by rw [← Nat.pow_add, Nat.sub_add_cancel hc]
  have hle : 2 ^ (w - c) ≤ 2 ^ w := Nat.pow_le_pow_right (by decide) (Nat.sub_le _ _)
  have hq : x / 2 ^ c < 2 ^ (w - c) := by
    rw [Nat.div_lt_iff_lt_mul (Nat.two_pow_pos c), ← hsplit]
    exact hx
  have hdiv : ((x : Int) - 2 ^ w) / 2 ^ c = ((x / 2 ^ c : Nat) : Int) - ((2 ^ (w - c) : Nat) : Int) := by
    rw [show (2 : Int) ^ w = ((2 ^ (w - c) : Nat) : Int) * 2 ^ c by exact_mod_cast hsplit,
      Int.sub_mul_ediv_right _ _ (Int.ne_of_gt (Int.pow_pos (by decide)))]
    push_cast
    rfl
  rw [hdiv, ← Int.add_emod_right, show (2 : Int) ^ w = ((2 ^ w : Nat) : Int) by push_cast; rfl]
  generalize x / 2 ^ c = q at hq
  rw [Int.emod_eq_of_lt] <;> omega

/-- A code below 2^(w-1) has a clear top bit, any other a set one. -/
theorem topBit_code {w x : Nat} (hw : 0 < w) (hx : x < 2 ^ w) : x / 2 ^ (w - 1) = if x < 2 ^ (w - 1) then 0 else 1 := by
  have hdouble : 2 ^ w = 2 * 2 ^ (w - 1) := by rw [← Nat.pow_succ', Nat.succ_eq_add_one, Nat.sub_add_cancel hw]
  split
  · exact Nat.div_eq_of_lt ‹_›
  · rw [Nat.div_eq_iff (Nat.two_pow_pos _)]
    omega

/-- A count above the width shifts as the width does, for a value of that width. -/
theorem shift_min {w c : Nat} {v : Int} (hlo : -2 ^ w ≤ v) (hhi : v < 2 ^ w) : v / 2 ^ c = v / 2 ^ min c w := by
  rcases Nat.le_total c w with h | h
  · rw [Nat.min_eq_left h]
  · rw [Nat.min_eq_right h]
    have hle : (2 : Int) ^ w ≤ 2 ^ c := by exact_mod_cast Nat.pow_le_pow_right (by decide) h
    have hpos : (0 : Int) < 2 ^ w := Int.pow_pos (by decide)
    rcases Int.lt_or_le v 0 with hneg | hnon
    · rw [Int.ediv_eq_neg_one_of_neg_of_le hneg (by omega), Int.ediv_eq_neg_one_of_neg_of_le hneg (by omega)]
    · rw [Int.ediv_eq_zero_of_lt hnon (by omega), Int.ediv_eq_zero_of_lt hnon hhi]

/-- VSRA's element: copies of the top bit come in, which is its signed value divided and rounded down (06 R121). -/
theorem arithmeticShift_code {w x : Nat} (c : Nat) (hw : 0 < w) (hx : x < 2 ^ w) :
    (x / 2 ^ min c w + x / 2 ^ (w - 1) * (2 ^ w - 2 ^ (w - min c w))) % 2 ^ w =
      ((if x < 2 ^ (w - 1) then (x : Int) else (x : Int) - 2 ^ w) / 2 ^ c % 2 ^ w).toNat := by
  have hcast : (2 : Int) ^ w = ((2 ^ w : Nat) : Int) := by push_cast; rfl
  have hq : x / 2 ^ min c w ≤ x := Nat.div_le_self _ _
  rw [topBit_code hw hx, shift_min (w := w) (by split <;> omega) (by split <;> omega)]
  split
  · rw [Nat.zero_mul, Nat.add_zero, Nat.mod_eq_of_lt (by omega)]
    exact_mod_cast (Nat.mod_eq_of_lt (Nat.lt_of_le_of_lt hq hx)).symm
  · rw [negative_shift (Nat.min_le_right _ _) hx, Int.toNat_natCast, Nat.one_mul]
    have hlt := Int.emod_lt_of_pos (((x : Int) - 2 ^ w) / 2 ^ min c w) (Int.pow_pos (n := 2) (m := w) (by decide))
    rw [negative_shift (Nat.min_le_right _ _) hx, hcast] at hlt
    exact Nat.mod_eq_of_lt (by exact_mod_cast hlt)

/-- VADDI's element: its immediate is reduced to the element's width before the sum or after it (06 R125). -/
theorem addImmediate_code (w x : Nat) (j : Int) :
    (x + (j % (2 ^ w : Nat)).toNat) % 2 ^ w % 2 ^ w = (((x : Int) + j) % 2 ^ w).toNat := by
  have hpos : (0 : Int) < ((2 ^ w : Nat) : Int) := by exact_mod_cast Nat.two_pow_pos w
  have hsum : ((x + (j % (2 ^ w : Nat)).toNat : Nat) : Int) = x + j % (2 ^ w : Nat) := by
    rw [Int.natCast_add, Int.toNat_of_nonneg (Int.emod_nonneg _ (Int.ne_of_gt hpos))]
  rw [Nat.mod_mod, ← Int.toNat_natCast ((x + _) % 2 ^ w), Int.natCast_emod, hsum, Int.add_emod_emod]
  push_cast
  rfl

/-! The words. -/

/-- A word on codes, element by element: no flags, no steps of a generator. -/
theorem codeWord_result {i : Instr} {s : State} {d a b : BitVec 7} {srcs : List Nat} {f : Nat → List Nat → Nat} (g : Nat → Nat → Nat → Nat)
    (ha : Issues s) (hs : ∀ x ∈ srcs, x < 128) (hne : srcs ≠ []) (hi : exec i s = codeWord s d.toNat srcs f)
    (hval : ∀ w (v : Nat → Nat), 0 < w → (∀ r, v r < 2 ^ w) → f w (srcs.map v) % 2 ^ w = g w (v a.toNat) (v b.toNat))
    (tag : Nat → BitVec 4) (h : VecReady s srcs [d.toNat]) (htag : Tagged s srcs tag) (hp : PushTag s d.toNat tag)
    (hint : ∀ g, ActiveGroup s g → (tag g).toNat ∈ [0, 10, 11, 12, 13]) :
    Gives i s (fun t => ∃ out, VecResult s t srcs d.toNat tag out ∧ ∀ l, Active s l → (out l).fl = 0 ∧ (out l).gen = none ∧
      ∀ n I, kindOf (tag (l / s.mine.gw)) = .int n I → ∀ e, e < n →
        elem I.w (out l).v e = g I.w (elem I.w (s.mine.field a.toNat l) e) (elem I.w (s.mine.field b.toNat l) e)) := by
  refine vecWord_lanes ha hs d.isLt hi h (tagsPass_typed hne htag (fun g hg => intTag_of_mem (hint g hg))) hp fun l hl => ?_
  rw [laneRes_eq htag _ hl, map_const_headD hne]
  refine ⟨elemRes_noFlags (fun _ _ => rfl), rfl, fun n I hk e he => ?_⟩
  obtain ⟨hfit, hpos⟩ := (kindOf_fits _).1 n I hk
  rw [hk]
  refine (elemRes_elem I.w n _ _ _ hfit e he).trans ?_
  rw [List.map_map]
  exact hval I.w (fun r => elem I.w (s.mine.field r l) e) hpos (fun r => elem_lt _ _ _)

/-- Settles O7: each word computes its elements from their codes, and each value is one of the four above. -/
theorem shiftsAndImmediateAdd : Obligations.ShiftsAndImmediateAdd := by
  intro s d a b j ha R
  refine ⟨?shl, ?shr, ?sra, ?addi⟩
  case shl =>
    exact codeWord_result (fun w x c => if c < w then x * 2 ^ c % 2 ^ w else 0) ha (fields_lt [a, b]) (List.cons_ne_nil _ _)
      (show execVshl d a b s = _ from rfl) (fun _ _ _ _ => shiftLeft_code _)
  case shr =>
    exact codeWord_result (fun w x c => if c < w then x / 2 ^ c else 0) ha (fields_lt [a, b]) (List.cons_ne_nil _ _)
      (show execVshr d a b s = _ from rfl) (fun _ _ _ hv => shiftRight_code _ (hv _))
  case sra =>
    exact codeWord_result (fun w x c => ((if x < 2 ^ (w - 1) then (x : Int) else (x : Int) - 2 ^ w) / 2 ^ c % 2 ^ w).toNat) ha
      (fields_lt [a, b]) (List.cons_ne_nil _ _) (show execVsra d a b s = _ from rfl) (fun _ _ hw hv => arithmeticShift_code _ hw (hv _))
  case addi =>
    exact codeWord_result (b := b) (fun w x _ => (((x : Int) + j.toInt) % 2 ^ w).toNat) ha (fields_lt [a]) (List.cons_ne_nil _ _)
      (show execVaddi d a j s = _ from rfl) (fun w _ _ _ => addImmediate_code w _ _)

end Sys2Proof.Machine
end

section
/-! The arithmetic words: one vector word of typed lanes, of integers or of floating values (06 R120, Tables 6-1 and 6-2). -/

namespace Sys2Proof.Machine

open Claims

/-- What a lane of an arithmetic word computes from its tags and operands. -/
def arithLane (s : State) (m : BitVec 3) (fi : List Int → Int) (ff : List Val → Val × Flags) (l : Nat) (ts : List (BitVec 4)) (vs : List W32) :
    LaneRes :=
  match kindOf (ts.headD 0) with
  | .int n I => elemRes I.w n false 0 (fun i _ => I.narrow (m.getLsbD 0) (fi (vs.map (fun v => I.decode (elem I.w v i)))))
  | .flt n F => elemRes F.width n (m.getLsbD 1) (s.mine.gen l)
      (fun i r => fltElem F s.fpMode (if m.getLsbD 1 then 5 else 0) (m.getLsbD 0) r ff vs i)
  | _ => plain 0

theorem arithWord_eq (s : State) (m : BitVec 3) (d : Nat) (srcs : List Nat) (fi : List Int → Int) (ff : List Val → Val × Flags) :
    arithWord s m d srcs fi ff = vecWord s srcs d (ruleTyped (arithClass m)) (arithLane s m fi ff) := rfl

theorem arithClass_of_mem {m : BitVec 3} {t : BitVec 4}
    (h : t.toNat ∈ if m.getLsbD 1 then [1, 2, 3] else [0, 1, 2, 3, 10, 11, 12, 13]) : arithClass m t = true := by
  revert m t; decide

section
variable {s : State} {m : BitVec 3} {fi : List Int → Int} {ff : List Val → Val × Flags} {l : Nat} {ts : List (BitVec 4)}
  {vs : List W32} {n : Nat}

theorem arithLane_int {I : IFmt} (hk : kindOf (ts.headD 0) = .int n I) : IntLane n I (m.getLsbD 0) fi vs (arithLane s m fi ff l ts vs) := by
  unfold arithLane
  rw [hk]
  exact intLane_elemRes ((kindOf_fits _).1 n I hk).1 _ _ _ _

theorem arithLane_flt {F : Fmt} (hk : kindOf (ts.headD 0) = .flt n F) :
    if m.getLsbD 1 then SrLane n F s.fpMode (m.getLsbD 0) (s.mine.gen l) ff vs (arithLane s m fi ff l ts vs)
    else FltLane n F s.fpMode (m.getLsbD 0) ff vs (arithLane s m fi ff l ts vs) := by
  have hfit := (kindOf_fits _).2 n F hk
  unfold arithLane
  rw [hk]
  cases m.getLsbD 1 with
  | true => exact srLane_elemRes hfit _ _ _ _ _
  | false => exact fltLane_elemRes hfit _ _ _ _ _

end

theorem arithResult_of {i : Instr} {s : State} {m : BitVec 3} {d : BitVec 7} {srcs : List Nat} {fi : List Int → Int}
    {ff : List Val → Val × Flags} (ha : Issues s) (hs : ∀ x ∈ srcs, x < 128) (hne : srcs ≠ [])
    (hi : exec i s = finish s (arithWord s m d.toNat srcs fi ff)) : ArithResult s i m d.toNat srcs fi ff := by
  intro tag h htag hp hclass
  rw [arithWord_eq] at hi
  refine vecWord_lanes ha hs d.isLt hi h (tagsPass_typed hne htag (fun g hg => arithClass_of_mem (hclass g hg))) hp fun l hl => ?_
  have hhead := map_const_headD hne (tag (l / s.mine.gw)) 0
  rw [laneRes_eq htag _ hl]
  cases hk : kindOf (tag (l / s.mine.gw)) with
  | int n I => exact arithLane_int (by rw [hhead, hk])
  | flt n F => exact arithLane_flt (by rw [hhead, hk])
  | qn4 => trivial
  | none => trivial

/-- Settles O6: each word is one arithmetic word, whose lanes are integer elements or floating ones. DAZ and FTZ act on VABS, VNEG, VMIN and
VMAX too (log 53). -/
theorem vectorArithmetic : Obligations.VectorArithmetic := by
  intro s m d a b ha z
  have two {i : Instr} {m : BitVec 3} {fi : List Int → Int} {ff : List Val → Val × Flags}
      (hi : exec i s = finish s (arithWord s m d.toNat [a.toNat, b.toNat] fi ff)) : ArithResult s i m d.toNat [a.toNat, b.toNat] fi ff :=
    arithResult_of ha (fields_lt [a, b]) (List.cons_ne_nil _ _) hi
  refine ⟨two rfl, two rfl, two rfl, ?fma, two rfl, two rfl, ?abs, ?neg⟩
  case fma => exact arithResult_of ha (fields_lt [a, b, d]) (List.cons_ne_nil _ _) rfl
  case abs | neg => exact arithResult_of ha (fields_lt [a]) (List.cons_ne_nil _ _) rfl

end Sys2Proof.Machine
end

section
/-! The bitwise words, VMOV and VSEL: words of one plain value in each lane, with the bitwise and the move rule for tags
(06 R122, R128; 04 R84, Table 4-2). -/

namespace Sys2Proof.Machine

open Claims

/-! Tag rules. -/

/-- A tag that a word of the move or the bitwise class leaves: REF becomes RAW (04 R84). -/
def movedTag (t : BitVec 4) : BitVec 4 := if t = tRef then tRaw else t

section
variable {s : State} {a b : Nat} {ta tb : Nat → BitVec 4}

theorem fieldTags_one (h : Tagged s [a] ta) {g : Nat} (hg : ActiveGroup s g) : [a].map (fun x => s.mine.fieldTag s.me.mask x g) = [ta g] :=
  congrArg (fun t => [t]) (h a (List.mem_singleton.mpr rfl) g hg)

theorem fieldTags_two (h : Tagged s [a] ta) (k : Tagged s [b] tb) {g : Nat} (hg : ActiveGroup s g) :
    [a, b].map (fun x => s.mine.fieldTag s.me.mask x g) = [ta g, tb g] :=
  congr (congrArg (fun t u => [t, u]) (h a (List.mem_singleton.mpr rfl) g hg)) (k b (List.mem_singleton.mpr rfl) g hg)

theorem tagsPass_bitwise_one (h : Tagged s [a] ta) : TagsPass s [a] ruleBitwise (fun g => movedTag (ta g)) :=
  fun g hg => by rw [fieldTags_one h hg]; rfl

/-- Equal tags stay, RAW joins any (04 Table 4-2). -/
theorem tagsPass_bitwise_two (h : Tagged s [a] ta) (k : Tagged s [b] tb)
    (hjoin : ∀ g, ActiveGroup s g → ta g = tb g ∨ ta g = tRaw ∨ tb g = tRaw) :
    TagsPass s [a, b] ruleBitwise (fun g => if ta g = tb g then movedTag (ta g) else tRaw) := by
  intro g hg
  rw [fieldTags_two h k hg]
  by_cases heq : ta g = tb g
  · simp only [ruleBitwise, if_pos heq, movedTag]
  · simp only [ruleBitwise, if_neg heq, if_pos ((hjoin g hg).resolve_left heq)]

/-- VSEL's rule: both sources carry one tag, which it moves (06 R128). -/
def ruleSelect (ts : List (BitVec 4)) : Except Nat (BitVec 4) := if arg0 0 ts = arg1 0 ts then ruleMove ts else .error cTag

theorem tagsPass_select (h : Tagged s [a] ta) (k : Tagged s [b] tb) (heq : ∀ g, ActiveGroup s g → ta g = tb g) :
    TagsPass s [a, b] ruleSelect (fun g => movedTag (ta g)) := by
  intro g hg
  rw [fieldTags_two h k hg]
  exact if_pos (heq g hg)

end

/-! The words. -/

theorem exec_vsel {s : State} {m : BitVec 3} (d a b : BitVec 7) (hm : PredsReady s [m]) : exec (.vsel m d a b) s =
    finish s (vecWord s [a.toNat, b.toNat] d.toNat ruleSelect
      (fun l _ vs => plain (if (s.mine.pred m).getLsbD l then arg0 0 vs else arg1 0 vs))) := by
  show execVsel m d a b s = _
  unfold execVsel
  rw [needPreds_ok hm]
  rfl

/-- Settles O8: each word gives one plain value in each lane, and its tags pass the bitwise rule, the move rule or VSEL's. -/
theorem bitwiseWords : Obligations.BitwiseWords := by
  intro s d a b ta tb ha hta htb x y noRef
  refine ⟨?not, ?mov, fun hjoin => ⟨?and, ?or, ?xor⟩, fun m hm heq => ?sel⟩
  case not => exact plainResult_of ha (fields_lt [a]) d.isLt (fun _ => rfl) (tagsPass_bitwise_one hta) (fun _ => rfl)
  case mov => exact plainResult_of ha (fields_lt [a]) d.isLt (fun _ => rfl) (tagsPass_move hta) (fun _ => rfl)
  case and | or | xor => exact plainResult_of ha (fields_lt [a, b]) d.isLt (fun _ => rfl) (tagsPass_bitwise_two hta htb hjoin) (fun _ => rfl)
  case sel =>
    exact plainResult_of ha (fields_lt [a, b]) d.isLt (fun _ => exec_vsel d a b hm) (tagsPass_select hta htb heq) (fun _ => rfl)

end Sys2Proof.Machine
end

section
/-! VCMP and the predicate words: the bit of each active lane, and what a predicate write leaves (06 R126, R127). -/

namespace Sys2Proof.Machine

open Claims

/-! Conditions. -/

/-- The condition and the flags of a compare of two operands of one tag. -/
def compareLane (daz : Bool) (k : BitVec 3) (t : BitVec 4) (x y : W32) : Bool × Flags :=
  if t = tI32 then (cmpInt k x.toInt y.toInt, 0) else cmpFlt k (fp32.decodeDaz daz x.toNat) (fp32.decodeDaz daz y.toNat)

/-- How a compare's condition joins the old bit of its predicate. -/
def joinBit (f : BitVec 4) (old c : Bool) : Bool :=
  match f.toNat with
  | 0 => c
  | 1 => old && c
  | _ => old || c

theorem joinBit_eq (f : BitVec 4) (old c : Bool) : joinBit f old c = if f = 0 then c else if f = 1 then old && c else old || c := by
  revert f old c; decide

/-- The six conditions on two numbers, by their number in the word. -/
theorem cmpInt_iff (k : BitVec 3) (x y : Int) : cmpInt k x y = true ↔
    (k = 0 ∧ x = y) ∨ (k = 1 ∧ x ≠ y) ∨ (k = 2 ∧ x < y) ∨ (k = 3 ∧ x ≤ y) ∨ (k = 4 ∧ x > y) ∨ (k = 5 ∧ x ≥ y) := by
  match k with
  | 0 | 1 | 2 | 3 | 4 | 5 | 6 | 7 => simp [cmpInt]

theorem cmpFlt_nan {k : BitVec 3} {x y : Val} (h : (x.isNan || y.isNan) = true) : (cmpFlt k x y).1 = true ↔ k = 1 ∨ k = 6 := by
  simp [cmpFlt, h, ← BitVec.toNat_inj]

theorem cmpFlt_ordered {k : BitVec 3} {x y : Val} (h : (x.isNan || y.isNan) = false) : (cmpFlt k x y).1 = cmpInt k (Val.cmp x y) 0 := by
  simp [cmpFlt, h]

/-- The conditions of order set NV for any NaN, the others for a signalling one (06 R126). -/
theorem cmpFlt_flags (k : BitVec 3) (x y : Val) : (cmpFlt k x y).2 =
    if k.toNat ∈ [2, 3, 4, 5] then (if (x.isNan || y.isNan) = true then fNV else 0) else x.nv ||| y.nv := by
  have hordered : (decide (2 ≤ k.toNat) && decide (k.toNat ≤ 5)) = true ↔ k.toNat ∈ [2, 3, 4, 5] := by
    simp only [Bool.and_eq_true, decide_eq_true_eq, List.mem_cons, List.not_mem_nil, or_false]
    omega
  have hflags : (cmpFlt k x y).2 = if (decide (2 ≤ k.toNat) && decide (k.toNat ≤ 5)) = true then flagIf (x.isNan || y.isNan) fNV
      else x.nv ||| y.nv := by
    unfold cmpFlt
    dsimp only
    split <;> rfl
  rw [hflags]
  exact ite_congr (propext hordered) (fun _ => rfl) (fun _ => rfl)

/-! VCMP. -/

theorem tagsPass_compare {s : State} {a b : Nat} {tag : Nat → BitVec 4} (h : Tagged s [a, b] tag)
    (ht : ∀ g, ActiveGroup s g → tag g = tI32 ∨ tag g = tF32) :
    TagsPass s [a, b] (ruleTyped (fun t => decide (t = tI32) || decide (t = tF32))) tag :=
  tagsPass_typed (List.cons_ne_nil _ _) h (fun g hg => by simpa using ht g hg)

/-- What a lane of VCMP computes from its tags and operands. -/
def compareWord (s : State) (p k : BitVec 3) (f : BitVec 4) (l : Nat) (ts : List (BitVec 4)) (vs : List W32) : Bool × Flags :=
  let c := compareLane s.fpMode.daz k (ts.headD 0) (arg0 0 vs) (arg1 0 vs)
  (joinBit f ((s.mine.pred p).getLsbD l) c.1, c.2)

theorem exec_vcmp {s : State} {p : BitVec 3} (k : BitVec 3) (a b : BitVec 7) (f : BitVec 4) (hp : PredsReady s [p]) :
    exec (.vcmp p k a b f) s = finish s (predWord s [a.toNat, b.toNat] p (ruleTyped (fun t => decide (t = tI32) || decide (t = tF32)))
      (compareWord s p k f)) := by
  show execVcmp p k a b f s = _
  unfold execVcmp
  rw [needPreds_ok hp]
  rfl

/-- The condition and the flags of an active lane of VCMP. -/
def State.compared (s : State) (k : BitVec 3) (a b : BitVec 7) (l : Nat) : Bool × Flags :=
  compareLane s.fpMode.daz k (s.mine.fieldTag s.me.mask a.toNat (l / s.mine.gw)) (s.mine.field a.toNat l) (s.mine.field b.toNat l)

theorem vcmp_gives {s : State} (ha : Issues s) {p : BitVec 3} (k : BitVec 3) {a b : BitVec 7} (f : BitVec 4) {tag : Nat → BitVec 4}
    (hp : PredsReady s [p]) (h : VecReady s [a.toNat, b.toNat] []) (htag : Tagged s [a.toNat, b.toNat] tag)
    (ht : ∀ g, ActiveGroup s g → tag g = tI32 ∨ tag g = tF32) :
    Gives (.vcmp p k a b f) s (fun t => PredResult s t [a.toNat, b.toNat] p
      (fun l => joinBit f ((s.mine.pred p).getLsbD l) (s.compared k a b l).1) (fun l => (s.compared k a b l).2)) := by
  obtain ⟨t, hword, hres⟩ := predWord_spec s ha _ (fields_lt [a, b]) p _ tag h (tagsPass_compare htag ht) (compareWord s p k f)
  exact ⟨t, by rw [exec_vcmp k a b f hp]; exact congrArg (finish s) hword, hres⟩

section
variable {s : State} {a b : BitVec 7} {tag : Nat → BitVec 4} {l : Nat} (htag : Tagged s [a.toNat, b.toNat] tag) (hl : Active s l)
include htag hl

theorem compared_eq (k : BitVec 3) :
    s.compared k a b l = compareLane s.myStream.daz k (tag (l / s.mine.gw)) (s.mine.field a.toNat l) (s.mine.field b.toNat l) := by
  unfold State.compared
  rw [htag a.toNat List.mem_cons_self _ (active_group hl)]
  rfl

theorem compared_int (k : BitVec 3) (ht : tag (l / s.mine.gw) = tI32) :
    s.compared k a b l = (cmpInt k (s.mine.field a.toNat l).toInt (s.mine.field b.toNat l).toInt, 0) := by
  rw [compared_eq htag hl]
  exact if_pos ht

theorem compared_flt (k : BitVec 3) (ht : tag (l / s.mine.gw) = tF32) :
    s.compared k a b l = cmpFlt k (fp32.decodeDaz s.myStream.daz (s.mine.field a.toNat l).toNat)
      (fp32.decodeDaz s.myStream.daz (s.mine.field b.toNat l).toNat) := by
  rw [compared_eq htag hl, ht]
  rfl

end

/-! The predicate words. -/

theorem plog_gives {i : Instr} {s : State} (ha : Issues s) {d : BitVec 3} {srcs : List (BitVec 3)} {v : Mask} {c : Nat → Bool}
    (hi : exec i s = plog s d srcs v) (hp : PredsReady s (d :: srcs)) (hc : ∀ l, Active s l → v.getLsbD l = c l) :
    Gives i s (fun t => PredResult s t [] d c (fun _ => 0)) := by
  obtain ⟨hme, honly, hteam, hstream⟩ := ownTeam s ha (fun T => T.setPred d s.me.mask v)
    (by rw [Team.setPred_eq]; exact ⟨rfl, rfl, rfl, rfl, rfl⟩) Strand.advance
  refine ⟨_, ?_, predEffect_spec s [] (List.forall_mem_nil _) d v id (fun _ => 0) (by simp) rfl c hc _ ⟨hme, honly, hteam, hstream⟩⟩
  rw [hi]
  unfold plog
  rw [needPreds_ok hp]
  rfl

/-- Settles O10: VCMP's lanes join a condition on integers or on F32 values, and a predicate word is one write of a predicate. -/
theorem comparesAndPredicates : Obligations.ComparesAndPredicates := by
  intro s p ha
  refine ⟨fun k a b f tag hp h htag ht _ _ => ?compare, ?predicates⟩
  case compare =>
    obtain ⟨t, hexec, hres⟩ := vcmp_gives ha k f hp h htag ht
    simp only [joinBit_eq] at hres
    refine ⟨t, hexec, _, _, hres, fun l hl htl => ?int, fun l hl htl => ?flt⟩
    case int =>
      dsimp only
      rw [compared_int htag hl k htl]
      exact ⟨rfl, cmpInt_iff k _ _⟩
    case flt =>
      dsimp only
      rw [compared_flt htag hl k htl]
      exact ⟨cmpFlt_flags k _ _, cmpFlt_nan, fun hnan => by rw [cmpFlt_ordered hnan]; exact cmpInt_iff k _ _⟩
  case predicates =>
    intro a b R
    refine ⟨fun hp => ⟨?and, ?or⟩, fun hp => ?not⟩
    case and => exact plog_gives ha rfl hp (fun l _ => BitVec.getLsbD_and)
    case or => exact plog_gives ha rfl hp (fun l _ => BitVec.getLsbD_or)
    case not =>
      refine plog_gives ha rfl hp (fun l hl => ?_)
      rw [BitVec.getLsbD_not, decide_eq_true (lane_lt hl.2), Bool.true_and]

end Sys2Proof.Machine
end

section
/-! VCVT, VPACK and VUNPK: words that convert the elements a part names and keep the others of their destination
(06 R117, R130, R131, Table 6-3). -/

namespace Sys2Proof.Machine

open Claims

/-! Lanes of which a part is computed. -/

theorem pickCount_range (pick : Nat → Option Nat) {n k : Nat} (hk : k ≤ n) :
    pickCount pick (List.range n) k = ((List.range k).filter (fun i => (pick i).isSome)).length := by
  unfold pickCount
  rw [List.take_range, Nat.min_eq_left hk]

/-- The random bits of an element after k steps of a generator, or of one that takes none. -/
theorem genPart_bits (sr : Bool) (k : Nat) (g : W64) :
    (genPart sr k g).toNat % 65536 = if sr then (Nat.repeat genStep k g).toNat % 65536 else g.toNat % 65536 := by
  cases sr <;> rfl

theorem partLane_partRes {w n : Nat} (hw : w * n ≤ 32) (sr : Bool) (g : W64) (old : W32) (f : Nat → Nat → Nat × Flags)
    (pick : Nat → Option Nat) : PartLane w n sr g old f pick (partRes w n sr g old f pick) where
  elems e he := by
    have hlen := partLoop_length sr f pick (elem w old) (List.range n) g
    rw [List.length_range] at hlen
    show elem w (packElems w (partLoop sr f pick (elem w old) (List.range n) g).1) e = _
    rw [elem_packElems _ _ _ (by omega) (by rw [hlen]; exact hw),
      partLoop_get _ _ _ _ _ _ _ (by rw [List.length_range]; exact he), List.getElem_range, pickCount_range _ he, genPart_bits]
    cases pick e with
    | none => exact Nat.mod_eq_of_lt (elem_lt _ _ _)
    | some k => rfl
  flags b := by
    show (partLoop sr f pick (elem w old) (List.range n) g).2.1.getLsbD b = true ↔ _
    rw [partLoop_flags]
    refine exists_congr fun e => exists_congr fun k => ?_
    constructor
    · rintro ⟨he, hpick, hbit⟩
      have hlt : e < n := by rwa [List.length_range] at he
      rw [List.getElem_range] at hpick
      rw [pickCount_range _ hlt, genPart_bits] at hbit
      exact ⟨hlt, hpick, hbit⟩
    · rintro ⟨hlt, hpick, hbit⟩
      refine ⟨by rwa [List.length_range], by rwa [List.getElem_range], ?_⟩
      rwa [pickCount_range _ hlt, genPart_bits]
  gen := by
    cases sr with
    | false => rfl
    | true =>
      show some (partLoop true f pick (elem w old) (List.range n) g).2.2 = _
      rw [partLoop_gen, List.length_range, pickCount_range _ (Nat.le_refl n)]
      rfl

theorem partLoop_congr {sr : Bool} {f : Nat → Nat → Nat × Flags} {pick pick' : Nat → Option Nat} {keep : Nat → Nat} {es : List Nat} (g : W64)
    (h : ∀ e ∈ es, pick e = pick' e) : partLoop sr f pick keep es g = partLoop sr f pick' keep es g := by
  induction es generalizing g with
  | nil => rfl
  | cons e rest ih =>
    have hrest (g : W64) := ih g (fun x hx => h x (List.mem_cons_of_mem _ hx))
    simp only [partLoop, h e List.mem_cons_self, hrest]

/-- A lane's result depends on what its own elements pick alone. -/
theorem partRes_congr {w n : Nat} {sr : Bool} {g : W64} {old : W32} {f : Nat → Nat → Nat × Flags} {pick pick' : Nat → Option Nat}
    (h : ∀ e, e < n → pick e = pick' e) : partRes w n sr g old f pick = partRes w n sr g old f pick' := by
  unfold partRes
  rw [partLoop_congr g (fun e he => h e (List.mem_range.mp he))]

/-! Conversion words. -/

theorem convSrcs_eq (d a : BitVec 7) : convSrcs d a = if 120 ≤ d.toNat then [a.toNat] else [a.toNat, d.toNat] := by
  simp [convSrcs, isPort]

theorem convSrcs_lt (d a : BitVec 7) : ∀ x ∈ convSrcs d a, x < 128 := by
  unfold convSrcs
  split
  · exact fields_lt [a]
  · exact fields_lt [a, d]

section
variable {α : Type} (d a : BitVec 7) (v : Nat → α) (x : α)

theorem convSrcs_headD : ((convSrcs d a).map v).headD x = v a.toNat := by
  unfold convSrcs
  split <;> rfl

theorem convSrcs_arg0 : arg0 x ((convSrcs d a).map v) = v a.toNat := by
  unfold convSrcs
  split <;> rfl

end

theorem keptBits_eq (d a : BitVec 7) (t : BitVec 4) (tag : Nat → BitVec 4) (v : Nat → W32) :
    keptBits d t ((convSrcs d a).map tag) ((convSrcs d a).map v) = if d.toNat < 120 ∧ tag d.toNat = t then v d.toNat else 0 := by
  unfold keptBits convSrcs isPort
  by_cases hd : 120 ≤ d.toNat
  · rw [if_pos (decide_eq_true hd), if_neg (fun h => absurd h.1 (Nat.not_lt.mpr hd))]
  · have hport : ¬ decide (120 ≤ d.toNat) = true := fun h => hd (of_decide_eq_true h)
    rw [if_neg hport, if_neg hport]
    exact ite_congr (propext (and_iff_right (Nat.lt_of_not_le hd)).symm) (fun _ => rfl) (fun _ => rfl)

theorem fieldTag_reg (T : Team) (m : Mask) {r : Nat} (h : r < 120) (g : Nat) : T.fieldTag m r g = T.vtag r g := by
  unfold Team.fieldTag isPort
  rw [if_neg (by simpa using h)]

/-- The bits of its destination that a conversion keeps: vd names a register that has the destination tag (06 R117, R130). -/
def State.kept (s : State) (d : BitVec 7) (t : BitVec 4) (l : Nat) : W32 :=
  if d.toNat < 120 ∧ s.mine.vtag d.toNat (l / s.mine.gw) = t then s.mine.vr d.toNat l else 0

theorem keptBits_lane (s : State) (d a : BitVec 7) (t : BitVec 4) (l : Nat) :
    keptBits d t ((convSrcs d a).map (fun x => s.mine.fieldTag s.me.mask x (l / s.mine.gw))) ((convSrcs d a).map (fun x => s.mine.field x l))
      = s.kept d t l := by
  rw [keptBits_eq]
  unfold State.kept
  by_cases hd : d.toNat < 120
  · rw [fieldTag_reg _ _ hd, field_reg _ hd]
  · rw [if_neg (fun h => hd h.1), if_neg (fun h => hd h.1)]

/-- A conversion's lanes are computed from the source's tag, the kept bits and the source's value. -/
theorem convWord_gives {i : Instr} {s : State} {d a : BitVec 7} {t : BitVec 4} {ok : BitVec 4 → Bool} {ta : Nat → BitVec 4}
    {lane : Nat → BitVec 4 → W32 → W32 → LaneRes} (ha : Issues s)
    (hi : exec i s = finish s (vecWord s (convSrcs d a) d.toNat (ruleConv ok t)
      (fun l ts vs => lane l (ts.headD 0) (keptBits d t ts vs) (arg0 0 vs))))
    (h : VecReady s (convSrcs d a) [d.toNat]) (hta : Tagged s [a.toNat] ta) (hp : PushTag s d.toNat (fun _ => t))
    (hok : ∀ g, ActiveGroup s g → ok (ta g) = true) :
    Gives i s (fun u => ∃ out, VecResult s u (convSrcs d a) d.toNat (fun _ => t) out
      ∧ ∀ l, Active s l → out l = lane l (ta (l / s.mine.gw)) (s.kept d t l) (s.mine.field a.toNat l)) := by
  have htag (g : Nat) (hg : ActiveGroup s g) := hta a.toNat (List.mem_singleton.mpr rfl) g hg
  have hpass : TagsPass s (convSrcs d a) (ruleConv ok t) (fun _ => t) := by
    intro g hg
    unfold ruleConv
    rw [convSrcs_headD, htag g hg, if_pos (hok g hg)]
  refine vecWord_lanes ha (convSrcs_lt d a) d.isLt hi h hpass hp fun l hl => ?_
  rw [← htag _ (active_group hl), ← keptBits_lane s d a]
  unfold Team.laneRes
  dsimp only
  rw [convSrcs_headD, convSrcs_arg0]

/-! VCVT. -/

/-- Every format's elements fill no more than a register (03 Table 3-5). -/
theorem kind_fits (t : BitVec 4) : (kindOf t).width * (kindOf t).count ≤ 32 := by
  revert t; decide

/-- The source element of a destination element of VCVT, by the part that the word names (06 R130). -/
def cvtPick (ns nd p e : Nat) : Option Nat :=
  if nd ≤ ns then (if p * nd + e < ns then some (p * nd + e) else none)
  else (if p * ns ≤ e ∧ e < p * ns + ns then some (e - p * ns) else none)

/-- The same by the first source element and the first destination element that the part names. -/
def basePick (ns nd p e : Nat) : Option Nat :=
  let n := min ns nd
  let sbase := if nd ≤ ns then p * nd else 0
  let dbase := if nd ≤ ns then 0 else p * ns
  if dbase ≤ e ∧ e < dbase + n ∧ sbase + (e - dbase) < ns then some (sbase + (e - dbase)) else none

theorem basePick_eq {ns nd p e : Nat} (he : e < nd) : basePick ns nd p e = cvtPick ns nd p e := by
  unfold basePick cvtPick
  dsimp only
  by_cases hle : nd ≤ ns
  · simp only [if_pos hle, Nat.min_eq_right hle, Nat.zero_le, true_and, Nat.zero_add, Nat.sub_zero, he]
  · simp only [if_neg hle, Nat.min_eq_left (Nat.le_of_not_le hle), Nat.zero_add]
    exact ite_congr (propext (by omega)) (fun _ => rfl) (fun _ => rfl)

/-- A lane of VCVT. -/
def cvtLane (s : State) (t : BitVec 4) (r : BitVec 3) (sat : BitVec 1) (p : BitVec 2) (l : Nat) (u : BitVec 4) (old x : W32) : LaneRes :=
  let src := kindOf u
  let dst := kindOf t
  partRes dst.width dst.count (decide (r.toNat = 5)) (s.mine.gen l) old
    (fun k rnd => conv s.fpMode src dst r.toNat (decide (sat = 1)) rnd (elem src.width x k)) (basePick src.count dst.count p.toNat)

theorem exec_vcvt (s : State) (t : BitVec 4) (d a : BitVec 7) (r : BitVec 3) (sat : BitVec 1) (p : BitVec 2) :
    exec (.vcvt t d a r sat p) s = finish s (vecWord s (convSrcs d a) d.toNat (ruleConv (cvtPair t) t)
      (fun l ts vs => cvtLane s t r sat p l (ts.headD 0) (keptBits d t ts vs) (arg0 0 vs))) := rfl

theorem cvtLane_part (s : State) (t : BitVec 4) (r : BitVec 3) (sat : BitVec 1) (p : BitVec 2) (l : Nat) (u : BitVec 4) (old x : W32) :
    PartLane (kindOf t).width (kindOf t).count (decide (r = 5)) (s.mine.gen l) old
      (fun k rnd => conv s.fpMode (kindOf u) (kindOf t) r.toNat (decide (sat = 1)) rnd (elem (kindOf u).width x k))
      (cvtPick (kindOf u).count (kindOf t).count p.toNat) (cvtLane s t r sat p l u old x) := by
  have hmode : decide (r.toNat = 5) = decide (r = 5) := decide_eq_decide.mpr (BitVec.toNat_inj (y := 5))
  unfold cvtLane
  dsimp only
  rw [hmode, partRes_congr (fun e he => basePick_eq he)]
  exact partLane_partRes (kind_fits t) _ _ _ _ _

/-! VPACK and VUNPK. -/

/-- VPACK converts all elements of its source, VUNPK as many as its destination holds (06 Table 6-3). -/
theorem packPair_count {t u : BitVec 4} (h : (packPair t u).isSome = true) : (packPair t u).getD 1 = (kindOf u).count := by
  revert t u; decide

theorem unpackPair_count {t u : BitVec 4} (h : (unpackPair t u).isSome = true) : (unpackPair t u).getD 1 = (kindOf t).count := by
  revert t u; decide

/-- A lane of VPACK. -/
def packLane (t : BitVec 4) (sat : BitVec 1) (p : BitVec 2) (u : BitVec 4) (old x : W32) : LaneRes :=
  let k := (packPair t u).getD 1
  match kindOf u, kindOf t with
  | .int _ I, .int nd J =>
    partRes J.w nd false 0 old (fun j _ => J.narrow (decide (sat = 1)) (I.decode (elem I.w x j)))
      (fun e => if p.toNat * k ≤ e ∧ e < p.toNat * k + k then some (e - p.toNat * k) else none)
  | _, _ => plain 0

theorem exec_vpack (s : State) (t : BitVec 4) (d a : BitVec 7) (sat : BitVec 1) (p : BitVec 2) :
    exec (.vpack t d a sat p) s = finish s (vecWord s (convSrcs d a) d.toNat (ruleConv (fun u => (packPair t u).isSome) t)
      (fun _ ts vs => packLane t sat p (ts.headD 0) (keptBits d t ts vs) (arg0 0 vs))) := rfl

theorem packLane_part {t u : BitVec 4} {n m : Nat} {I J : IFmt} (sat : BitVec 1) (p : BitVec 2) (old x : W32)
    (h : (packPair t u).isSome = true) (hu : kindOf u = .int n I) (ht : kindOf t = .int m J) :
    PartLane J.w m false 0 old (fun k _ => J.narrow (decide (sat = 1)) (I.decode (elem I.w x k)))
      (fun e => if p.toNat * n ≤ e ∧ e < p.toNat * n + n then some (e - p.toNat * n) else none) (packLane t sat p u old x) := by
  have hcount : (packPair t u).getD 1 = n := by rw [packPair_count h, hu]; rfl
  unfold packLane
  rw [hcount, hu, ht]
  exact partLane_partRes ((kindOf_fits t).1 m J ht).1 _ _ _ _ _

/-- An element of VUNPK from an element of its source: an integer's value, or a code with zeros above it (06 R131). -/
def unpackElem (J : IFmt) (src : Kind) (x : W32) (j : Nat) : Nat × Flags :=
  match src with
  | .int _ I => (J.wrap (I.decode (elem I.w x j)), 0)
  | _ => (elem src.width x j, 0)

/-- A lane of VUNPK. -/
def unpackLane (t : BitVec 4) (p : BitVec 2) (u : BitVec 4) (old x : W32) : LaneRes :=
  let k := (unpackPair t u).getD 1
  match kindOf t with
  | .int nd J => partRes J.w nd false 0 old (fun j _ => unpackElem J (kindOf u) x j)
      (fun e => if e < k ∧ p.toNat * k + e < (kindOf u).count then some (p.toNat * k + e) else none)
  | _ => plain 0

theorem exec_vunpk (s : State) (t : BitVec 4) (d a : BitVec 7) (p : BitVec 2) :
    exec (.vunpk t d a p) s = finish s (vecWord s (convSrcs d a) d.toNat (ruleConv (fun u => (unpackPair t u).isSome) t)
      (fun _ ts vs => unpackLane t p (ts.headD 0) (keptBits d t ts vs) (arg0 0 vs))) := rfl

theorem unpackLane_part {t u : BitVec 4} {m : Nat} {J : IFmt} (p : BitVec 2) (old x : W32)
    (h : (unpackPair t u).isSome = true) (ht : kindOf t = .int m J) :
    PartLane J.w m false 0 old (fun k _ => unpackElem J (kindOf u) x k)
      (fun e => if p.toNat * m + e < (kindOf u).count then some (p.toNat * m + e) else none) (unpackLane t p u old x) := by
  have hcount : (unpackPair t u).getD 1 = m := by rw [unpackPair_count h, ht]; rfl
  unfold unpackLane
  rw [hcount, ht]
  dsimp only
  rw [partRes_congr (fun e he => ite_congr (propext (and_iff_right he)) (fun _ => rfl) (fun _ => rfl))]
  exact partLane_partRes ((kindOf_fits t).1 m J ht).1 _ _ _ _ _

/-- Settles O11: each word is one conversion word, whose lanes compute the elements of a part. An infinity under VCVT.SAT becomes the largest
value of its sign (log 52). -/
theorem conversions : Obligations.Conversions := by
  intro s t d a p ta ha srcs old x h hta hp
  have hsrcs : srcs = convSrcs d a := (convSrcs_eq d a).symm
  rw [hsrcs] at h
  refine ⟨fun r sat hok => ?cvt, fun sat hok => ?pack, fun hok => ?unpack⟩
  case cvt =>
    obtain ⟨u, hexec, out, hres, hlane⟩ := convWord_gives ha (exec_vcvt s t d a r sat p) h hta hp hok
    refine ⟨u, hexec, out, by rw [hsrcs]; exact hres, fun l hl => ?_⟩
    rw [hlane l hl]
    exact cvtLane_part s t r sat p l _ _ _
  case pack =>
    obtain ⟨u, hexec, out, hres, hlane⟩ := convWord_gives ha (exec_vpack s t d a sat p) h hta hp hok
    refine ⟨u, hexec, out, by rw [hsrcs]; exact hres, fun l hl n I m J hu ht => ?_⟩
    rw [hlane l hl]
    exact packLane_part sat p _ _ (hok _ (active_group hl)) hu ht
  case unpack =>
    obtain ⟨u, hexec, out, hres, hlane⟩ := convWord_gives ha (exec_vunpk s t d a p) h hta hp hok
    refine ⟨u, hexec, out, by rw [hsrcs]; exact hres, fun l hl m J ht => ?_⟩
    rw [hlane l hl]
    have hpart := unpackLane_part p (s.kept d t l) (x l) (hok _ (active_group hl)) ht
    exact ⟨fun n I hu => by rw [hu] at hpart; exact hpart, fun hu => by rw [hu] at hpart ⊢; exact hpart⟩

end Sys2Proof.Machine
end

section
/-! VDOT: an integer sum modulo 2^32 with its overflow flag, or one DOTSTEP rounded once (06 R133, Table 6-4; 03 R69 to R73). -/

namespace Sys2Proof.Machine

open Claims

/-! Sums and flags. -/

theorem foldl_products (acc : Int) (ps : List (Int × Int)) :
    ps.foldl (fun x p => x + p.1 * p.2) acc = acc + (ps.map (fun p => p.1 * p.2)).sum := by
  induction ps generalizing acc with
  | nil => simp
  | cons p rest ih => rw [List.foldl_cons, ih, List.map_cons, List.sum_cons, Int.add_assoc]

theorem foldl_or_bit {α : Type} (ps : List α) (f g : α → Flags) (acc : Flags) (i : Nat) :
    (ps.foldl (fun x p => x ||| f p ||| g p) acc).getLsbD i = true ↔
      acc.getLsbD i = true ∨ ∃ p ∈ ps, (f p).getLsbD i = true ∨ (g p).getLsbD i = true := by
  induction ps generalizing acc with
  | nil => simp
  | cons p rest ih =>
    rw [List.foldl_cons, ih]
    simp only [BitVec.getLsbD_or, Bool.or_eq_true, List.mem_cons, or_and_right, exists_or, exists_eq_left, or_assoc]

/-- The accumulator of an integer DOTSTEP: its sum modulo 2^32, and OF where the exact sum is out of range (03 R73). -/
theorem dotInt_eq {acc : Int} {ps : List (Int × Int)} {sum : Int} (h : acc + (ps.map (fun p => p.1 * p.2)).sum = sum) :
    BitVec.ofNat 32 (dotInt acc ps).1 = BitVec.ofInt 32 sum
      ∧ (dotInt acc ps).2 = if -2 ^ 31 ≤ sum ∧ sum < 2 ^ 31 then 0 else fOF := by
  unfold dotInt
  rw [foldl_products, h]
  constructor
  · show BitVec.ofNat 32 (sum % (2 ^ 32 : Nat)).toNat = _
    apply BitVec.eq_of_toNat_eq
    rw [BitVec.toNat_ofNat, BitVec.toNat_ofInt]
    omega
  · show flagIf (decide ((if sum < -2 ^ 31 then -2 ^ 31 else if 2 ^ 31 - 1 < sum then 2 ^ 31 - 1 else sum) ≠ sum)) fOF = _
    unfold flagIf
    rw [← ite_not]
    refine ite_congr (propext ?_) (fun _ => rfl) (fun _ => rfl)
    rw [decide_eq_true_eq]
    split
    · omega
    · split <;> omega

/-! The word. -/

/-- VDOT's rule: both factors carry one tag, and vd the accumulator's tag for it (06 Table 6-4). -/
def ruleDot (ts : List (BitVec 4)) : Except Nat (BitVec 4) :=
  if arg0 0 ts = arg1 0 ts ∧ dotTag (arg0 0 ts) = some (arg2 0 ts) then .ok (arg2 0 ts) else .error cTag

/-- The decoded elements of two factors, in pairs. -/
def factorPairs {α : Type} (n : Nat) (dec : W32 → Nat → α) (x y : W32) : List (α × α) := (List.range n).map (fun i => (dec x i, dec y i))

/-- A lane of VDOT from the factors' tag. -/
def dotLane (md : FpMode) (t : BitVec 4) (x y z : W32) : LaneRes :=
  match kindOf t with
  | .int n I =>
    let r := dotInt z.toInt (factorPairs n (fun v i => I.decode (elem I.w v i)) x y)
    { v := BitVec.ofNat 32 r.1, fl := r.2, gen := none }
  | .flt n F =>
    let ps := factorPairs n (fun v i => F.decodeDaz md.daz (elem F.width v i)) x y
    let r := fp32.flush md.ftz (dotStep fp32 false (fp32.decodeDaz md.daz z.toNat) ps)
    { v := BitVec.ofNat 32 r.1, fl := r.2 ||| (ps.foldl (fun f p => f ||| p.1.nv ||| p.2.nv) 0), gen := none }
  | _ => plain 0

theorem exec_vdot (s : State) (d a b : BitVec 7) : exec (.vdot d a b) s = finish s (vecWord s [a.toNat, b.toNat, d.toNat] d.toNat ruleDot
    (fun _ ts vs => dotLane s.fpMode (ts.headD 0) (arg0 0 vs) (arg1 0 vs) (arg2 0 vs))) := rfl

theorem dotLane_gen (md : FpMode) (t : BitVec 4) (x y z : W32) : (dotLane md t x y z).gen = none := by
  unfold dotLane
  split <;> rfl

theorem dotLane_int {t : BitVec 4} {n : Nat} {I : IFmt} (hk : kindOf t = .int n I) (md : FpMode) (x y z : W32) {sum : Int}
    (hsum : z.toInt + ((List.range n).map (fun i => I.decode (elem I.w x i) * I.decode (elem I.w y i))).sum = sum) :
    (dotLane md t x y z).v = BitVec.ofInt 32 sum ∧ (dotLane md t x y z).fl = if -2 ^ 31 ≤ sum ∧ sum < 2 ^ 31 then 0 else fOF := by
  unfold dotLane
  rw [hk]
  refine dotInt_eq ?_
  rw [factorPairs, List.map_map]
  exact hsum

theorem dotLane_flt {t : BitVec 4} {n : Nat} {F : Fmt} (hk : kindOf t = .flt n F) (md : FpMode) (x y z : W32) :
    let ps := factorPairs n (fun v i => F.decodeDaz md.daz (elem F.width v i)) x y
    let r := fp32.flush md.ftz (dotStep fp32 false (fp32.decodeDaz md.daz z.toNat) ps)
    (dotLane md t x y z).v = BitVec.ofNat 32 r.1 ∧ ∀ i, (dotLane md t x y z).fl.getLsbD i = true ↔
      r.2.getLsbD i = true ∨ ∃ p, p ∈ ps ∧ (p.1.nv.getLsbD i = true ∨ p.2.nv.getLsbD i = true) := by
  intro ps r
  unfold dotLane
  rw [hk]
  refine ⟨rfl, fun i => ?_⟩
  show (r.2 ||| ps.foldl (fun f p => f ||| p.1.nv ||| p.2.nv) 0).getLsbD i = true ↔ _
  rw [BitVec.getLsbD_or, Bool.or_eq_true, foldl_or_bit ps (fun p => p.1.nv) (fun p => p.2.nv)]
  simp

theorem dotTag_of_mem {t u : BitVec 4} (h : (t.toNat ∈ [2, 3, 4, 5] ∧ u = tF32) ∨ (t.toNat ∈ [10, 11, 12, 13] ∧ u = tI32)) :
    dotTag t = some u := by
  revert t u; decide

theorem fieldTags_dot {s : State} {a b d : Nat} {tag acc : Nat → BitVec 4} (htag : Tagged s [a, b] tag) (hacc : Tagged s [d] acc) {g : Nat}
    (hg : ActiveGroup s g) : [a, b, d].map (fun x => s.mine.fieldTag s.me.mask x g) = [tag g, tag g, acc g] := by
  simp [htag a (by simp) g hg, htag b (by simp) g hg, hacc d (by simp) g hg]

theorem laneRes_dot {s : State} {a b d : Nat} {tag acc : Nat → BitVec 4} (htag : Tagged s [a, b] tag) (hacc : Tagged s [d] acc) (hd : d < 120)
    {l : Nat} (hl : Active s l) : s.mine.laneRes s.me.mask [a, b, d]
      (fun _ ts vs => dotLane s.fpMode (ts.headD 0) (arg0 0 vs) (arg1 0 vs) (arg2 0 vs)) l =
    dotLane s.fpMode (tag (l / s.mine.gw)) (s.mine.field a l) (s.mine.field b l) (s.mine.vr d l) := by
  unfold Team.laneRes
  rw [fieldTags_dot htag hacc (active_group hl), ← field_reg s.mine hd]
  rfl

/-- Settles O12: a lane is an integer DOTSTEP or a floating one on the pairs of factors. A NaN operand beside products of both infinities sets NV
as `dotExact` says (log 65). -/
theorem dotProducts : Obligations.DotProducts := by
  intro s d a b tag acc ha hd h htag hacc hpair
  have hpass : TagsPass s [a.toNat, b.toNat, d.toNat] ruleDot acc := by
    intro g hg
    rw [fieldTags_dot htag hacc hg]
    exact if_pos ⟨rfl, dotTag_of_mem (hpair g hg)⟩
  have hpush : PushTag s d.toNat acc := fun hport => absurd hd (Nat.not_lt.mpr hport)
  obtain ⟨t, hexec, hres⟩ := vecWord_gives ha (fields_lt [a, b, d]) d.isLt (exec_vdot s d a b) h hpass hpush
  refine ⟨t, hexec, _, vecResult_congr hres (fun l hl => laneRes_dot htag hacc hd hl), fun l _ => ?_⟩
  exact ⟨dotLane_gen .., fun n I hk => dotLane_int hk _ _ _ _ rfl, fun n F hk => dotLane_flt hk _ _ _ _⟩

end Sys2Proof.Machine
end

section
/-! VSEED and VRAND: the generators of the active lanes (06 R135, R136; 03 R66). -/

namespace Sys2Proof.Machine

open Claims

/-! VSEED. -/

/-- A word that pops its sources and pushes nothing moves their queues alone. -/
theorem queuesMoved_popAll {s t : State} {srcs : List Nat} (hs : ∀ f ∈ srcs, f < 128)
    (ht : t.mine.queues = (s.mine.popAll srcs s.me.mask).queues) : QueuesMoved s t srcs 0 (fun _ => 0) := by
  intro q l hq
  have hports : ∀ p ∈ portsOf srcs, p < 8 := fun p hp => by
    have := hs _ ((mem_portsOf _ _).mp hp)
    omega
  have hqueue : t.mine.queue q l = (s.mine.popAll srcs s.me.mask).queue q l := by
    unfold Team.queue
    rw [ht]
  rw [hqueue, Team.popAll, Team.queue_pops _ _ hports (nub_nodup _) _ _ _ hq, if_neg (show ¬ 0 = 120 + q by omega), List.append_nil]
  simp only [mem_portsOf, mem_lanesOf_active]
  by_cases hl : Active s l
  · simp only [eq_true hl, and_true, if_true]
  · simp only [eq_false hl, and_false, if_false]

/-- What a lane of VSEED computes: its generator's first state, and no value. -/
def seedLane (_ : Nat) (_ : List (BitVec 4)) (vs : List W32) : LaneRes :=
  let g := pair64 (arg0 0 vs) (arg1 0 vs)
  { v := 0, fl := 0, gen := some (if g = 0 then genSeed else g) }

/-- A team after VSEED, with what its lanes computed. -/
def Team.seeded (T : Team) (m : Mask) (srcs : List Nat) (out : List (Nat × LaneRes)) : Team := (T.popAll srcs m).putGens out

theorem Team.seeded_eq (T : Team) (m : Mask) (srcs : List Nat) (out : List (Nat × LaneRes)) :
    T.seeded m srcs out = { T with gens := (T.seeded m srcs out).gens, queues := (T.popAll srcs m).queues } := by
  unfold Team.seeded
  rw [Team.putGens_eq, Team.popAll_eq]

/-- Each active lane's generator takes its seed; the first state stands for a zero seed (06 R135). -/
theorem Team.gen_seeded (T : Team) (m : Mask) (a b l : Nat) : (T.seeded m [a, b] (T.laneOut m [a, b] seedLane)).gen l =
    if l ∈ T.lanesOf m then (if pair64 (T.field a l) (T.field b l) = 0 then genSeed else pair64 (T.field a l) (T.field b l)) else T.gen l := by
  have hkept : (T.popAll [a, b] m).gen l = T.gen l := by
    rw [Team.popAll_eq]
    rfl
  unfold Team.seeded Team.laneOut
  rw [Team.gen_putGens, hkept]
  rfl

theorem exec_vseed {s : State} {a b : BitVec 7} {tag : Nat → BitVec 4} (h : VecReady s [a.toNat, b.toNat] [])
    (ht : TagsPass s [a.toNat, b.toNat] (ruleAny tRaw) tag) : exec (.vseed a b) s = .next ((s.onMine
      (fun T => T.seeded s.me.mask [a.toNat, b.toNat] (s.mine.laneOut s.me.mask [a.toNat, b.toNat] seedLane))).advance) := by
  show execVseed a b s = _
  unfold execVseed
  rw [beginVec_ok h, ok_bind, tagChecks_ok ht]
  rfl

theorem ruleAny_pair {out t u : BitVec 4} (ht : t ≠ tRef) (hu : u ≠ tRef) : ruleAny out [t, u] = .ok out := by
  unfold ruleAny
  simp [ht, hu]

/-- What a state holds whose issuing team is as after VSEED. -/
theorem seeded_result {s t : State} {a b : Nat} (hs : ∀ f ∈ [a, b], f < 128)
    (ht : t.mine = { s.mine.seeded s.me.mask [a, b] (s.mine.laneOut s.me.mask [a, b] seedLane) with cs := t.mine.cs, as := t.mine.as }) :
    (∀ l, t.mine.gen l = if Active s l then
      (let seed : W64 := s.mine.field b l ++ s.mine.field a l
       if seed = 0 then 0xD1B54A33D1B54A33 else seed) else s.mine.gen l)
    ∧ QueuesMoved s t [a, b] 0 (fun _ => 0)
    ∧ t.mine = { s.mine with gens := t.mine.gens, queues := t.mine.queues, cs := t.mine.cs, as := t.mine.as } := by
  refine ⟨fun l => ?gens, queuesMoved_popAll hs ?queues, ?team⟩
  case gens =>
    simp only [← mem_lanesOf_active]
    exact (congrArg (fun T => T.gen l) ht).trans (s.mine.gen_seeded s.me.mask a b l)
  all_goals rw [Team.seeded_eq] at ht
  case queues => rw [ht]
  case team =>
    have hgens := congrArg Team.gens ht
    have hqueues := congrArg Team.queues ht
    dsimp only at hgens hqueues
    rw [hgens, hqueues]
    exact ht

theorem vseed_result {s : State} (ha : Issues s) {a b : BitVec 7} {ta tb : Nat → BitVec 4} (h : VecReady s [a.toNat, b.toNat] [])
    (hta : Tagged s [a.toNat] ta) (htb : Tagged s [b.toNat] tb) (hno : ∀ g, ActiveGroup s g → ta g ≠ tRef ∧ tb g ≠ tRef) :
    Gives (.vseed a b) s (fun t =>
      (∀ l, l < 1024 → t.mine.gen l = if Active s l then
        (let seed : W64 := s.mine.field b.toNat l ++ s.mine.field a.toNat l
         if seed = 0 then 0xD1B54A33D1B54A33 else seed) else s.mine.gen l)
      ∧ QueuesMoved s t [a.toNat, b.toNat] 0 (fun _ => 0)
      ∧ t.mine = { s.mine with gens := t.mine.gens, queues := t.mine.queues, cs := t.mine.cs, as := t.mine.as }
      ∧ t.me = s.me.advance ∧ StreamKept s t ∧ OnlyMine s t) := by
  have hpass : TagsPass s [a.toNat, b.toNat] (ruleAny tRaw) (fun _ => tRaw) := by
    intro g hg
    rw [fieldTags_two hta htb hg]
    exact ruleAny_pair (hno g hg).1 (hno g hg).2
  obtain ⟨hme, honly, hteam, hstream⟩ := ownTeam s ha
    (fun T => T.seeded s.me.mask [a.toNat, b.toNat] (s.mine.laneOut s.me.mask [a.toNat, b.toNat] seedLane))
    (by rw [Team.seeded_eq]; exact ⟨rfl, rfl, rfl, rfl, rfl⟩) Strand.advance
  obtain ⟨hgens, hqueues, hkept⟩ := seeded_result (fields_lt [a, b]) hteam
  exact ⟨_, exec_vseed h hpass, fun l _ => hgens l, hqueues, hkept, hme, hstream, honly⟩

/-- What a lane of VRAND computes from its generator: one step, and the value that it gives (06 R136). -/
def randLane (m : BitVec 3) (g : W64) : LaneRes :=
  let t := genStep g
  { v := if m = 0 then lo32 t else BitVec.ofNat 32 (fp32.rnd 0 false 0 (.fin false (t.toNat / 2 ^ 40) (-24))).1, fl := 0, gen := some t }

theorem exec_vrand (s : State) (m : BitVec 3) (d : BitVec 7) : exec (.vrand m d) s = finish s (vecWord s [] d.toNat
    (ruleConst (if m = 0 then tI32 else tF32)) (fun l _ _ => randLane m (s.mine.gen l))) := rfl

/-- Settles O13: VSEED writes the generators of its lanes, VRAND is a vector word without sources whose lanes step theirs. -/
theorem randomNumbers : Obligations.RandomNumbers := by
  intro s d a b ha
  refine ⟨fun ta tb h hta htb hno => vseed_result ha h hta htb hno, fun m _ h hp => ?_⟩
  refine vecWord_lanes ha (List.forall_mem_nil _) d.isLt (exec_vrand s m d) h (tagsPass_const s [] _) hp fun l _ => ?_
  exact ⟨rfl, rfl, fun hm => if_pos hm, fun hm => if_neg (by rw [hm]; decide)⟩

end Sys2Proof.Machine
end

section
/-! The special functions of one F32 source: vector words whose lanes compute one F32 value, or its exponent as an integer
(07 R137 to R143). -/

namespace Sys2Proof.Machine

open Claims

/-! Vector words whose lanes are known. -/

/-- A vector word completes with the lanes that its active lanes compute. -/
theorem vecWord_result {i : Instr} {s : State} {srcs : List Nat} {d : Nat} {rule : List (BitVec 4) → Except Nat (BitVec 4)}
    {f : Nat → List (BitVec 4) → List W32 → LaneRes} (ha : Issues s) (hs : ∀ x ∈ srcs, x < 128) (hd : d < 128)
    (h : VecReady s srcs [d]) (hi : exec i s = finish s (vecWord s srcs d rule f)) {tag : Nat → BitVec 4} (ht : TagsPass s srcs rule tag)
    (hp : PushTag s d tag) {out : Nat → LaneRes} (hout : ∀ l, Active s l → s.mine.laneRes s.me.mask srcs f l = out l) :
    Gives i s (fun t => VecResult s t srcs d tag out) := by
  obtain ⟨t, hexec, hres⟩ := vecWord_gives ha hs hd hi h ht hp
  exact ⟨t, hexec, vecResult_congr hres hout⟩

/-- The lane of an F32 result. -/
def floatLane (y : Nat × Flags) (g : Option W64) : LaneRes := { v := BitVec.ofNat 32 y.1, fl := y.2, gen := g }

/-! Tags. -/

section
variable {s : State} {a b : Nat} (h : Tagged s [a] (fun _ => tF32))
include h

theorem tagsPass_float : TagsPass s [a] (ruleTyped (fun t => decide (t = tF32))) (fun _ => tF32) :=
  tagsPass_typed (List.cons_ne_nil _ _) h (fun _ _ => rfl)

theorem tagsPass_floatTo (out : BitVec 4) : TagsPass s [a] (ruleTypedTo (fun t => decide (t = tF32)) out) (fun _ => out) :=
  tagsPass_of h _ _ (fun _ _ => rfl)

/-- VSCLB's rule: an F32 value and an I32 count give F32 (07 R142). -/
def ruleScale (ts : List (BitVec 4)) : Except Nat (BitVec 4) := if arg0 0 ts = tF32 ∧ arg1 0 ts = tI32 then .ok tF32 else .error cTag

theorem tagsPass_scale (k : Tagged s [b] (fun _ => tI32)) : TagsPass s [a, b] ruleScale (fun _ => tF32) := by
  intro g hg
  rw [fieldTags_two h k hg]
  rfl

end

/-! Lanes. -/

/-- The source of an active lane, as DAZ reads it. -/
def State.source (s : State) (a : BitVec 7) (l : Nat) : Val := fp32.decodeDaz s.myStream.daz (s.mine.field a.toNat l).toNat

/-- The lane of a rounded value of VSCLB and VEXPX.MANT: a signalling source sets NV beside the flags of the rounding. -/
def withNv (y : Nat × Flags) (x : Val) : Nat × Flags := (y.1, y.2 ||| x.nv)

/-- A lane of VEXPX: the exponent of its source, with the values of R143 for NaN, an infinity and zero. -/
def exponentLane (x : Val) : LaneRes :=
  match x with
  | .nan _ => { v := 0x7FFFFFFF, fl := fNV, gen := none }
  | .inf _ => plain 0x7FFFFFFF
  | x => if x.isZero then { v := 0x80000000, fl := fDZ, gen := none } else plain (BitVec.ofInt 32 x.log2)

theorem isZero_fin_ne {m : Nat} (n : Bool) (e : Int) (hm : m ≠ 0) : (Val.fin n m e).isZero = false := by
  cases m with
  | zero => exact absurd rfl hm
  | succ m => rfl

theorem exponentLane_ne {m : Nat} (n : Bool) (e : Int) (hm : m ≠ 0) :
    exponentLane (.fin n m e) = plain (BitVec.ofInt 32 (Nat.log2 m + e)) := by
  unfold exponentLane
  dsimp only
  rw [isZero_fin_ne n e hm]
  rfl

/-- The values and flags of VEXPX by the kind of its source (07 R143). -/
theorem exponentLane_spec (x : Val) : (exponentLane x).gen = none ∧
    match x with
    | .nan _ => (exponentLane x).v = 0x7FFFFFFF ∧ (exponentLane x).fl = fNV
    | .inf _ => (exponentLane x).v = 0x7FFFFFFF ∧ (exponentLane x).fl = 0
    | .fin _ m e => if m = 0 then (exponentLane x).v = 0x80000000 ∧ (exponentLane x).fl = fDZ
                    else (exponentLane x).v = BitVec.ofInt 32 (Nat.log2 m + e) ∧ (exponentLane x).fl = 0 := by
  cases x with
  | nan b => exact ⟨rfl, rfl, rfl⟩
  | inf n => exact ⟨rfl, rfl, rfl⟩
  | fin n m e =>
    by_cases hm : m = 0
    · subst hm
      exact ⟨rfl, rfl, rfl⟩
    · simp only [if_neg hm]
      rw [exponentLane_ne n e hm]
      exact ⟨rfl, rfl, rfl⟩

/-! The words. -/

section
variable (s : State) (d a b : BitVec 7)

theorem exec_vrndi (m : BitVec 3) : exec (.vrndi m d a) s = finish s (vecWord s [a.toNat] d.toNat (ruleTyped (fun t => decide (t = tF32)))
    (fun l _ vs => floatLane (fp32.flush s.fpMode.ftz
        (rndIntegral m.toNat ((genStep (s.mine.gen l)).toNat % 65536) (fp32.decodeDaz s.fpMode.daz (arg0 0 vs).toNat)))
      (if decide (m.toNat = 5) then some (genStep (s.mine.gen l)) else none))) := rfl

theorem exec_vsclb : exec (.vsclb d a b) s = finish s (vecWord s [a.toNat, b.toNat] d.toNat ruleScale (fun _ _ vs =>
    let x := fp32.decodeDaz s.fpMode.daz (arg0 0 vs).toNat
    floatLane (withNv (fp32.flush s.fpMode.ftz (fp32.rnd 0 false 0 (x.scale (clampInt (-1000) 1000 (arg1 0 vs).toInt)))) x) none)) := rfl

theorem exec_vexpx : exec (.vexpx d a) s = finish s (vecWord s [a.toNat] d.toNat (ruleTypedTo (fun t => decide (t = tF32)) tI32)
    (fun _ _ vs => exponentLane (fp32.decodeDaz s.fpMode.daz (arg0 0 vs).toNat))) := rfl

theorem exec_vexpxMant : exec (.vexpxMant d a) s = finish s (vecWord s [a.toNat] d.toNat (ruleTyped (fun t => decide (t = tF32)))
    (fun _ _ vs =>
      let x := fp32.decodeDaz s.fpMode.daz (arg0 0 vs).toNat
      floatLane (withNv (fp32.rnd 0 false 0 (if x.isZero then x else x.scale (-x.log2))) x) none)) := rfl

end

/-- A special function's word: its function on each active lane's source, then FTZ (07 R138). -/
theorem specialWord_result {i : Instr} {s : State} {d a : BitVec 7} {f : W32 → Val → Nat × Flags} (ha : Issues s)
    (hi : exec i s = specialWord s d a f) (htag : Tagged s [a.toNat] (fun _ => tF32)) (h : VecReady s [a.toNat] [d.toNat])
    (hp : PushTag s d.toNat (fun _ => tF32)) : Gives i s (fun t => VecResult s t [a.toNat] d.toNat (fun _ => tF32)
      (fun l => floatLane (fp32.flush s.myStream.ftz (f (s.mine.field a.toNat l) (s.source a l))) none)) :=
  vecWord_result ha (field_lt a) d.isLt h hi (tagsPass_float htag) hp (fun _ _ => rfl)

/-- Settles O14: each word is a vector word whose lanes compute the named function of their source. Of the values that R139 admits for a result
that is not exact, the functions give one (log 7). -/
theorem specialFunctions : Obligations.SpecialFunctions := by
  intro s d a b ha htag X R F
  have special {i : Instr} {f : W32 → Val → Nat × Flags} (hi : exec i s = specialWord s d a f) : F i f := specialWord_result ha hi htag
  refine ⟨special rfl, special rfl, special rfl, special rfl, special rfl, fun m h hp => ?rndi, fun hcount h hp => ?sclb, fun h hp => ?expx,
    fun h hp => ?mant⟩
  case rndi =>
    refine vecWord_result ha (field_lt a) d.isLt h (exec_vrndi s d a m) (tagsPass_float htag) hp fun l _ => ?_
    have hmode : decide (m.toNat = 5) = true ↔ m = 5 := decide_eq_true_iff.trans (BitVec.toNat_inj (y := 5))
    exact congrArg (floatLane _) (ite_congr (propext hmode) (fun _ => rfl) (fun _ => rfl))
  case sclb =>
    exact vecWord_result ha (fields_lt [a, b]) d.isLt h (exec_vsclb s d a b) (tagsPass_scale htag hcount) hp (fun _ _ => rfl)
  case mant => exact vecWord_result ha (field_lt a) d.isLt h (exec_vexpxMant s d a) (tagsPass_float htag) hp (fun _ _ => rfl)
  case expx =>
    exact vecWord_lanes ha (field_lt a) d.isLt (exec_vexpx s d a) h (tagsPass_floatTo htag tI32) hp (fun l _ => exponentLane_spec (X l))

end Sys2Proof.Machine
end

section
/-! Words that move values across lanes: shuffles, broadcasts, ballots, conflicts and intersections (07 R145 to R154). -/

namespace Sys2Proof.Machine

open Claims

/-! Lanes of a part of a mask. -/

theorem Team.lanesOf_and (T : Team) (m p : Mask) : T.lanesOf (m &&& p) = (T.lanesOf m).filter (fun l => p.getLsbD l) := by
  unfold Team.lanesOf indicesWhere
  rw [List.filter_filter]
  exact List.filter_congr fun l _ => by rw [BitVec.getLsbD_and, Bool.and_comm]

theorem Team.lanesOf_group (T : Team) (m : Mask) (g : Nat) :
    T.lanesOf (m &&& T.groupMask g) = (T.lanesOf m).filter (fun l => decide (l / T.gw = g)) := by
  rw [Team.lanesOf_and]
  refine List.filter_congr fun l hl => ?_
  have hlt := lane_lt ((T.mem_lanesOf m l).mp hl).2
  rw [Bool.eq_iff_iff, T.groupMask_bit, decide_eq_true_iff]
  exact and_iff_right hlt

/-! Tags of the source. -/

/-- The rule of VSHFL and VBCST: lane numbers are I32, and the source's tag moves (07 R147, R148). -/
def ruleLaneIndex (ts : List (BitVec 4)) : Except Nat (BitVec 4) := if arg1 0 ts = tI32 then ruleMove ts else .error cTag

section
variable {s : State} {a b : Nat} {ta tb : Nat → BitVec 4} {t : BitVec 4}

theorem tagsPass_laneIndex (h : Tagged s [a] ta) (k : Tagged s [b] tb) (hb : ∀ g, ActiveGroup s g → tb g = tI32) :
    TagsPass s [a, b] ruleLaneIndex (fun g => movedTag (ta g)) := by
  intro g hg
  rw [fieldTags_two h k hg, hb g hg]
  rfl

theorem tagged_pair {tag : Nat → BitVec 4} (h : Tagged s [a] ta) (k : Tagged s [b] tb) (hga : ∀ g, ActiveGroup s g → ta g = tag g)
    (hgb : ∀ g, ActiveGroup s g → tb g = tag g) : Tagged s [a, b] tag := by
  intro f hf g hg
  rcases List.mem_cons.mp hf with rfl | hf
  · exact (h f List.mem_cons_self g hg).trans (hga g hg)
  · exact (k f hf g hg).trans (hgb g hg)

theorem tagsPass_typedTo {tag : Nat → BitVec 4} {ok : BitVec 4 → Bool} (out : BitVec 4) (h : Tagged s [a, b] tag)
    (hok : ∀ g, ActiveGroup s g → ok (tag g) = true) : TagsPass s [a, b] (ruleTypedTo ok out) (fun _ => out) :=
  tagsPass_of h _ _ fun g hg => by
    unfold ruleTypedTo
    rw [ruleTyped_ok ok (tag g) [a, b] (List.cons_ne_nil _ _) (hok g hg)]

/-- A register's tag in an active group is the one that a word checks there. -/
theorem vtag_of_tagged (h : Tagged s [a] ta) (hlt : a < 120) {g : Nat} (hg : ActiveGroup s g) : s.mine.vtag a g = ta g := by
  rw [← fieldTag_reg s.mine s.me.mask hlt]
  exact h a List.mem_cons_self g hg

/-- A word that needs one tag in all its groups finds the tag that they carry (07 R149). -/
theorem oneTag_ok {ok : BitVec 4 → Bool} (h : Tagged s [a] (fun _ => t)) (hlt : a < 120) (hne : ∃ l, Active s l) (hok : ok t = true) :
    oneTag s a ok = .ok t := by
  have htag (g : Nat) (hg : g ∈ s.mine.groupsOf s.me.mask) : s.mine.vtag a g = t :=
    vtag_of_tagged h hlt ((mem_groupsOf_active s g).mp hg)
  have hfirst : s.mine.vtag a ((s.mine.groupsOf s.me.mask).headD 0) = t := by
    obtain ⟨l, hl⟩ := hne
    have hmem := (mem_groupsOf_active s _).mpr (active_group hl)
    cases hgs : s.mine.groupsOf s.me.mask with
    | nil => exact absurd (hgs ▸ hmem) List.not_mem_nil
    | cons g rest => exact htag g (by rw [hgs]; exact List.mem_cons_self)
  have hall : ((s.mine.groupsOf s.me.mask).all (fun g => s.mine.vtag a g == t) && ok t) = true := by
    rw [hok, Bool.and_true, List.all_eq_true]
    exact fun g hg => beq_iff_eq.mpr (htag g hg)
  unfold oneTag
  dsimp only
  rw [hfirst, require_true _ _ hall]
  rfl

end

/-! Shuffles and broadcasts. -/

theorem exec_vshfl (s : State) (m : BitVec 3) (d a b : BitVec 7) : exec (.vshfl m d a b) s =
    finish s (vecWord s [a.toNat, b.toNat] d.toNat ruleLaneIndex (fun l _ vs => plain (s.mine.anyLane a.toNat (s.mine.laneAt l
      ((if m = 0 then (arg1 0 vs).toNat % 32 else Nat.xor (l % s.mine.gw) ((arg1 0 vs).toNat % 32)) % s.mine.gw))))) := rfl

/-- The lane that a lane of VBCST reads (07 R148). -/
def Team.sourceLane (T : Team) (b l : Nat) : Nat := (T.vr b l).toNat % 1024

/-- Every active lane of VBCST that reads a lane of the team reads it from a group that carries its own group's tag. -/
def SourcesMatch (s : State) (a b : Nat) : Prop := ∀ l, Active s l → s.mine.sourceLane b l < s.mine.lanes →
  s.mine.vtag a (s.mine.sourceLane b l / s.mine.gw) = s.mine.vtag a (l / s.mine.gw)

theorem exec_vbcst {s : State} (d : BitVec 7) {a b : BitVec 7} (hindex : ∀ g, ActiveGroup s g → s.mine.vtag b.toNat g = tI32)
    (hsrc : SourcesMatch s a.toNat b.toNat) (h : VecReady s [a.toNat, b.toNat] [d.toNat]) :
    exec (.vbcst d a b) s = finish s (vecWord s [a.toNat, b.toNat] d.toNat ruleLaneIndex
      (fun l _ _ => plain (s.mine.anyLane a.toNat (s.mine.sourceLane b.toNat l)))) := by
  show execVbcst d a b s = _
  unfold execVbcst
  dsimp only
  rw [beginVec_ok h, ok_bind, tagTrap_ok, ok_bind]
  case h =>
    rw [List.filter_eq_nil_iff]
    intro g hg
    rw [Bool.or_eq_true, not_or]
    constructor
    · rw [decide_eq_true_iff, Classical.not_not]
      exact hindex g ((mem_groupsOf_active s g).mp hg)
    · rw [Team.lanesOf_group, List.any_eq_true]
      rintro ⟨l, hl, hbad⟩
      rw [List.mem_filter, mem_lanesOf_active, decide_eq_true_iff] at hl
      rw [Bool.and_eq_true, decide_eq_true_iff, decide_eq_true_iff] at hbad
      exact hbad.2 (hl.2 ▸ hsrc l hl.1 hbad.1)
  rfl

section
variable {s : State} (ha : Issues s) (d : BitVec 7) {a b : BitVec 7} {ta tb : Nat → BitVec 4}
  (hrb : b.toNat < 120) (hta : Tagged s [a.toNat] ta) (htb : Tagged s [b.toNat] tb) (hindex : ∀ g, ActiveGroup s g → tb g = tI32)
include ha hrb hta htb hindex

theorem vshfl_result (m : BitVec 3) : PlainResult (.vshfl m d a b) s [a.toNat, b.toNat] d.toNat (fun g => movedTag (ta g))
    (fun l =>
      let k := (s.mine.vr b.toNat l).toNat % 32
      s.mine.anyLane a.toNat (l / s.mine.gw * s.mine.gw + (if m = 0 then k else Nat.xor (l % s.mine.gw) k) % s.mine.gw)) := by
  refine plainResult_of ha (fields_lt [a, b]) d.isLt (fun _ => exec_vshfl s m d a b) (tagsPass_laneIndex hta htb hindex) fun l => ?_
  rw [← field_reg s.mine hrb]
  rfl

theorem vbcst_result (hsrc : SourcesMatch s a.toNat b.toNat) :
    PlainResult (.vbcst d a b) s [a.toNat, b.toNat] d.toNat (fun g => movedTag (ta g))
      (fun l => s.mine.anyLane a.toNat (s.mine.sourceLane b.toNat l)) :=
  plainResult_of ha (fields_lt [a, b]) d.isLt (exec_vbcst d (fun g hg => (vtag_of_tagged htb hrb hg).trans (hindex g hg)) hsrc)
    (tagsPass_laneIndex hta htb hindex) (fun _ => rfl)

end

/-! Ballots. -/

theorem exec_vbal {s : State} (m : BitVec 3) (d : BitVec 7) {p : BitVec 3} (hp : PredsReady s [p]) : exec (.vbal m d p) s =
    finish s (vecWord s [] d.toNat (ruleConst tI32) (fun l _ _ => plain (BitVec.ofNat 32
      (if m = 0 then s.mine.laneWord (s.me.mask &&& s.mine.pred p) (l / s.mine.gw) else s.mine.count (s.me.mask &&& s.mine.pred p))))) := by
  show execVbal m d p s = _
  unfold execVbal
  rw [needPreds_ok hp]
  rfl

theorem vbal_result {s : State} (ha : Issues s) (m : BitVec 3) (d : BitVec 7) {p : BitVec 3} (hp : PredsReady s [p]) :
    PlainResult (.vbal m d p) s [] d.toNat (fun _ => tI32) (fun l =>
      if m = 0 then BitVec.ofNat 32 ((s.me.mask &&& s.mine.pred p).toNat / 2 ^ (l / s.mine.gw * s.mine.gw) % 2 ^ s.mine.gw)
      else BitVec.ofNat 32 ((s.mine.lanesOf s.me.mask).filter (fun k => (s.mine.pred p).getLsbD k)).length) := by
  refine plainResult_of ha (List.forall_mem_nil _) d.isLt (fun _ => exec_vbal m d hp) (tagsPass_const s _ tI32) fun l => congrArg plain ?_
  rw [apply_ite (BitVec.ofNat 32), Team.laneWord, Team.count, Team.lanesOf_and, Nat.mul_comm s.mine.gw]

/-! Conflicts. -/

/-- The active lanes that hold a lane's value, ascending (07 R152). -/
def State.sameValue (s : State) (a l : Nat) : List Nat :=
  (s.mine.lanesOf s.me.mask).filter (fun k => decide (s.mine.vr a k = s.mine.vr a l))

theorem exec_vconf {s : State} (m : BitVec 3) (d : BitVec 7) {a : BitVec 7} {t : BitVec 4} (h : Tagged s [a.toNat] (fun _ => t))
    (hlt : a.toNat < 120) (hne : ∃ l, Active s l) (ht : t = tI32 ∨ t = tRaw) (hready : VecReady s [a.toNat] [d.toNat]) :
    exec (.vconf m d a) s = finish s (vecWord s [a.toNat] d.toNat (ruleConst tI32) (fun l _ _ => plain (BitVec.ofNat 32
      (if m = 0 then ((s.sameValue a.toNat l).filter (fun k => decide (k < l))).length else (s.sameValue a.toNat l).headD l)))) := by
  show execVconf m d a s = _
  unfold execVconf
  rw [beginVec_ok hready, ok_bind, oneTag_ok h hlt hne (by simpa using ht)]
  rfl

/-! Intersections. -/

/-- VISECT's rule: both sources carry one tag, I32 or RAW, and the result is I32 (07 R153). -/
def ruleIntersect : List (BitVec 4) → Except Nat (BitVec 4) := ruleTypedTo (fun t => decide (t = tI32) || decide (t = tRaw)) tI32

/-- What a lane of VISECT finds in its group's active lanes: the advances of both lists and its own hit (07 R153). -/
def Team.intersectGroup (T : Team) (a b : Nat) (ls : List Nat) (l : Nat) : W32 :=
  let lim := min (T.vr a (ls.getLastD l)).toNat (T.vr b (ls.getLastD l)).toNat
  let hit := match ls.find? (fun k => (T.vr b k).toNat == (T.vr a l).toNat) with | some k => k % T.gw | .none => 255
  let na := (ls.filter (fun k => decide ((T.vr a k).toNat ≤ lim))).length
  let nb := (ls.filter (fun k => decide ((T.vr b k).toNat ≤ lim))).length
  BitVec.ofNat 32 (nb * 2 ^ 16 + na * 2 ^ 8 + hit)

/-- The bitmap form of VISECT: the lowest bit of the first word, and the bits of the second below it (07 R154). -/
def intersectWord (x y : W32) : W32 :=
  match (List.range 32).find? (fun i => x.getLsbD i) with
  | none => BitVec.allOnes 32
  | some p => BitVec.ofNat 32 (((List.range p).filter (fun i => y.getLsbD i)).length * 2 ^ 8 + p)

/-- A lane of the bitmap form. -/
def intersectLane (x y : W32) : LaneRes :=
  match (List.range 32).find? (fun i => x.getLsbD i) with
  | none => plain (BitVec.allOnes 32)
  | some p => plain (BitVec.ofNat 32 ((indicesWhere p (fun i => y.getLsbD i)).length * 2 ^ 8 + p))

theorem intersectLane_eq (x y : W32) : intersectLane x y = plain (intersectWord x y) := by
  unfold intersectLane intersectWord
  split <;> rfl

theorem exec_visect (s : State) (m : BitVec 3) (d a b : BitVec 7) : exec (.visect m d a b) s =
    finish s (vecWord s [a.toNat, b.toNat] d.toNat ruleIntersect (fun l _ vs =>
      if m = 0 then plain (s.mine.intersectGroup a.toNat b.toNat (s.mine.lanesOf (s.me.mask &&& s.mine.groupMask (l / s.mine.gw))) l)
      else intersectLane (arg0 0 vs) (arg1 0 vs))) := rfl

theorem visect_result {s : State} (ha : Issues s) (m : BitVec 3) (d : BitVec 7) {a b : BitVec 7} {ta tb : Nat → BitVec 4}
    (hra : a.toNat < 120) (hrb : b.toNat < 120) (hta : Tagged s [a.toNat] ta) (htb : Tagged s [b.toNat] tb)
    (htag : ∀ g, ActiveGroup s g → ta g = tb g ∧ (ta g = tI32 ∨ ta g = tRaw)) :
    PlainResult (.visect m d a b) s [a.toNat, b.toNat] d.toNat (fun _ => tI32) (fun l =>
      if m = 0 then s.mine.intersectGroup a.toNat b.toNat ((s.mine.lanesOf s.me.mask).filter (fun k => decide (k / s.mine.gw = l / s.mine.gw))) l
      else intersectWord (s.mine.vr a.toNat l) (s.mine.vr b.toNat l)) := by
  have hpair := tagged_pair hta htb (fun _ _ => rfl) (fun g hg => (htag g hg).1.symm)
  refine plainResult_of ha (fields_lt [a, b]) d.isLt (fun _ => exec_visect s m d a b)
    (tagsPass_typedTo tI32 hpair (fun g hg => by simpa using (htag g hg).2)) fun l => ?_
  rw [apply_ite plain, ← Team.lanesOf_group, ← field_reg s.mine hra, ← field_reg s.mine hrb]
  exact ite_congr rfl (fun _ => rfl) (fun _ => intersectLane_eq _ _)

/-- Settles O15: each word is a vector word of one plain value in each lane, read from the lanes that it names. -/
theorem crossLaneMoves : Obligations.CrossLaneMoves := by
  intro s m d a b ta tb ha _ hra hrb _ hta htb T x y noRef all grp
  refine ⟨fun hindex => ⟨?shuffle, fun hsrc => ?broadcast⟩, fun p hp => ?ballot, fun t ht hne htag => ?conflict, fun htag => ?intersect⟩
  case shuffle => exact vshfl_result ha d hrb hta htb hindex m
  case broadcast => exact vbcst_result ha d hrb hta htb hindex hsrc
  case ballot => exact vbal_result ha m d hp
  case conflict =>
    have hone : Tagged s [a.toNat] (fun _ => t) := fun f hf g hg => (hta f hf g hg).trans (htag g hg)
    exact plainResult_of ha (field_lt a) d.isLt (exec_vconf m d hone hra hne ht) (tagsPass_const s _ tI32) (fun _ => rfl)
  case intersect => exact visect_result ha m d hra hrb hta htb htag

end Sys2Proof.Machine
end

section
/-! Reductions and scans of the active lanes' values, and what they are on integers (07 R149, R150, Table 7-3). -/

namespace Sys2Proof.Machine

open Claims

/-! The words. -/

/-- The lane of a value with its flags. -/
def valueLane (y : W32 × Flags) : LaneRes := { v := y.1, fl := y.2, gen := none }

/-- The active lanes that a lane of VSCAN covers: those below it, and itself in an inclusive scan (07 R150). -/
def State.scanned (s : State) (excl : Bool) (l : Nat) : List Nat :=
  (s.mine.lanesOf s.me.mask).filter (fun k => if excl then decide (k < l) else decide (k ≤ l))

section
variable {s : State} (m : BitVec 3) (d : BitVec 7) {a : BitVec 7} {t : BitVec 4} (h : Tagged s [a.toNat] (fun _ => t)) (hlt : a.toNat < 120)
  (hne : ∃ l, Active s l) (hready : VecReady s [a.toNat] [d.toNat])
include h hlt hne hready

theorem exec_vred (hok : (redOfM m.toNat).tagOk t = true) : exec (.vred m d a) s = finish s (vecWord s [a.toNat] d.toNat (ruleConst t)
    (fun _ _ _ => valueLane ((redOfM m.toNat).reduce s.fpMode t ((s.mine.lanesOf s.me.mask).map (s.mine.vr a.toNat))))) := by
  show execVred m d a s = _
  unfold execVred
  rw [beginVec_ok hready, ok_bind]
  dsimp only
  rw [oneTag_ok h hlt hne hok]
  rfl

theorem exec_vscan (hok : (scanOfM (m.toNat % 4)).tagOk t = true) : exec (.vscan m d a) s = finish s (vecWord s [a.toNat] d.toNat (ruleConst t)
    (fun l _ _ => if (s.scanned (m.getLsbD 2) l).isEmpty then valueLane ((scanOfM (m.toNat % 4)).identity t, 0)
      else valueLane ((scanOfM (m.toNat % 4)).reduce s.fpMode t ((s.scanned (m.getLsbD 2) l).map (s.mine.vr a.toNat))))) := by
  show execVscan m d a s = _
  unfold execVscan
  rw [beginVec_ok hready, ok_bind]
  dsimp only
  rw [oneTag_ok h hlt hne hok]
  rfl

end

/-- Settles O16: VRED's lanes hold one reduction of all active lanes, VSCAN's the reduction of the lanes that each covers. -/
theorem reductionsAndScans : Obligations.ReductionsAndScans := by
  intro s m d a t ha hd hlt hready htag hne T all R
  have word {i : Instr} {f : Nat → List (BitVec 4) → List W32 → LaneRes} {v : Nat → W32 × Flags}
      (hi : exec i s = finish s (vecWord s [a.toNat] d.toNat (ruleConst t) f))
      (hv : ∀ l, s.mine.laneRes s.me.mask [a.toNat] f l = valueLane (v l)) : R i v :=
    vecWord_result ha (field_lt a) d.isLt hready hi (tagsPass_const s _ t) (fun hport => absurd hd (Nat.not_lt.mpr hport)) (fun l _ => hv l)
  refine ⟨fun _ hok => word (exec_vred m d htag hlt hne hready hok) (fun _ => rfl), fun hok => ?scan⟩
  refine word (exec_vscan m d htag hlt hne hready hok) fun l => ?_
  refine (apply_ite valueLane _ _ _).symm.trans (congrArg valueLane ?_)
  exact ite_congr (propext List.isEmpty_iff) (fun _ => rfl) (fun _ => rfl)

/-! Sums, least and greatest values. -/

theorem map_toInt_one (xs : List W32) :
    (0 : Int) + ((xs.map (fun x => (x.toInt, (1 : Int)))).map (fun p => p.1 * p.2)).sum = (xs.map BitVec.toInt).sum := by
  rw [List.map_map, Int.zero_add]
  exact congrArg List.sum (List.map_congr_left fun x _ => Int.mul_one _)

section
variable {α : Type} (less : α → α → Bool)

/-- The new value where it is less than the one so far. -/
def preferred (a y : α) : α := if less y a then y else a

section
variable {key : α → Int} (hless : ∀ x y, less x y = true ↔ key x < key y)
include hless

theorem preferred_least (x y : α) : (preferred less x y = x ∨ preferred less x y = y) ∧ key (preferred less x y) ≤ key x
    ∧ key (preferred less x y) ≤ key y := by
  unfold preferred
  by_cases h : less y x = true
  · rw [if_pos h]
    exact ⟨.inr rfl, Int.le_of_lt ((hless y x).mp h), Int.le_refl _⟩
  · rw [if_neg h]
    exact ⟨.inl rfl, Int.le_refl _, Int.not_lt.mp (fun hlt => h ((hless y x).mpr hlt))⟩

/-- A fold that keeps the lesser value gives a member of the least key. -/
theorem foldl_preferred (x : α) (xs : List α) :
    xs.foldl (preferred less) x ∈ x :: xs ∧ ∀ y ∈ x :: xs, key (xs.foldl (preferred less) x) ≤ key y := by
  induction xs generalizing x with
  | nil => exact ⟨List.mem_cons_self, fun y hy => by rw [List.mem_singleton.mp hy]; exact Int.le_refl _⟩
  | cons z rest ih =>
    obtain ⟨hmem, hle⟩ := ih (preferred less x z)
    obtain ⟨hpick, hx, hz⟩ := preferred_least less hless x z
    have hfirst := hle _ List.mem_cons_self
    constructor
    · rcases List.mem_cons.mp hmem with h | h
      · rw [List.foldl_cons, h]
        rcases hpick with hp | hp <;> simp [hp]
      · exact List.mem_cons_of_mem _ (List.mem_cons_of_mem _ h)
    · rw [List.forall_mem_cons, List.forall_mem_cons]
      exact ⟨Int.le_trans hfirst hx, Int.le_trans hfirst hz, fun y hy => hle y (List.mem_cons_of_mem _ hy)⟩

end

/-- A fold from the head of its own list. -/
theorem foldl_preferred_head (x : α) (xs : List α) : (x :: xs).foldl (preferred less) x = xs.foldl (preferred less) x := by
  rw [List.foldl_cons, preferred, ite_self]

end

theorem reduce_min (md : FpMode) (x : W32) (xs : List W32) :
    RedOp.reduce .min md tI32 (x :: xs) = (xs.foldl (preferred (fun y a => y.slt a)) x, 0) :=
  congrArg (fun v => (v, (0 : Flags))) (foldl_preferred_head (fun y a : W32 => y.slt a) x xs)

theorem reduce_max (md : FpMode) (x : W32) (xs : List W32) :
    RedOp.reduce .max md tI32 (x :: xs) = (xs.foldl (preferred (fun y a => a.slt y)) x, 0) :=
  congrArg (fun v => (v, (0 : Flags))) (foldl_preferred_head (fun y a : W32 => a.slt y) x xs)

/-! Bitwise reductions, bit by bit. -/

section
variable {w : Nat} (xs : List (BitVec w)) (z : BitVec w) (i : Nat)

theorem foldl_and_bit : (xs.foldl (fun a x => a &&& x) z).getLsbD i = true ↔ z.getLsbD i = true ∧ ∀ y ∈ xs, y.getLsbD i = true := by
  induction xs generalizing z with
  | nil => simp
  | cons x rest ih => rw [List.foldl_cons, ih, BitVec.getLsbD_and, Bool.and_eq_true, List.forall_mem_cons, and_assoc]

theorem foldl_union_bit : (xs.foldl (fun a x => a ||| x) z).getLsbD i = true ↔ z.getLsbD i = true ∨ ∃ y ∈ xs, y.getLsbD i = true := by
  induction xs generalizing z with
  | nil => simp
  | cons x rest ih =>
    rw [List.foldl_cons, ih, BitVec.getLsbD_or, Bool.or_eq_true]
    simp only [List.mem_cons, or_and_right, exists_or, exists_eq_left, or_assoc]

/-- A bit of an exclusive or tells whether the number of set bits is odd. -/
theorem foldl_xor_bit : (xs.foldl (fun a x => a ^^^ x) z).getLsbD i = true ↔
    (bit1 (z.getLsbD i) + (xs.filter (fun y => y.getLsbD i)).length) % 2 = 1 := by
  induction xs generalizing z with
  | nil => cases hz : z.getLsbD i <;> simp [hz, bit1]
  | cons x rest ih =>
    rw [List.foldl_cons, ih, BitVec.getLsbD_xor, List.filter_cons]
    cases z.getLsbD i <;> cases x.getLsbD i <;> simp [bit1] <;> omega

end

/-- Settles O17: on integers each reduction is a fold over the terms, an exact sum, a choice of the lesser or the greater, or a bitwise one. -/
theorem integerReductions : Obligations.IntegerReductions := by
  intro md x xs sum
  refine ⟨?add, ?min, ?max, fun t i hi => ⟨?and, ?or, ?xor⟩⟩
  case add =>
    obtain ⟨hv, hfl⟩ := dotInt_eq (map_toInt_one (x :: xs))
    exact Prod.ext hv hfl
  case min =>
    obtain ⟨hmem, hle⟩ := foldl_preferred (fun y a : W32 => y.slt a) (key := BitVec.toInt) (fun _ _ => BitVec.slt_iff_toInt_lt) x xs
    exact ⟨_, reduce_min md x xs, hmem, hle⟩
  case max =>
    have hkey (y a : W32) : a.slt y = true ↔ -y.toInt < -a.toInt := BitVec.slt_iff_toInt_lt.trans Int.neg_lt_neg_iff.symm
    obtain ⟨hmem, hle⟩ := foldl_preferred (fun y a : W32 => a.slt y) hkey x xs
    exact ⟨_, reduce_max md x xs, hmem, fun y hy => Int.neg_le_neg_iff.mp (hle y hy)⟩
  case and =>
    refine (foldl_and_bit (x :: xs) (BitVec.allOnes 32) i).trans (and_iff_right ?_)
    rw [BitVec.getLsbD_allOnes, decide_eq_true hi]
  case or =>
    refine (foldl_union_bit (x :: xs) 0 i).trans (or_iff_right ?_)
    simp
  case xor =>
    refine (foldl_xor_bit (x :: xs) 0 i).trans ?_
    rw [BitVec.ofNat_eq_ofNat, BitVec.getLsbD_zero, bit1, if_neg Bool.false_ne_true, Nat.zero_add]

end Sys2Proof.Machine
end
